-- ==== Sys2Proof/Word.lean ====
section
/-! DEFINITION. Word types: bytes, register words, and the small index types of the module
(channels, host functions, profiles, tables). Indices count from 0 (R3). -/

namespace Sys2Proof

/-- One byte. -/
abbrev Byte := BitVec 8
/-- One 32-bit register word (R4). -/
abbrev Word := BitVec 32
/-- A channel number, 0 to 3. -/
abbrev Ch := Fin 4
/-- A host function number, 0 to 7. -/
abbrev Hf := Fin 8

/-- Four like things, one per channel (Table 01.2). -/
structure Quad (α : Type) where
  c0 : α
  c1 : α
  c2 : α
  c3 : α
deriving DecidableEq, Repr

/-- The part of channel `c`. -/
def Quad.get {α : Type} (q : Quad α) : Ch → α
  | 0 => q.c0
  | 1 => q.c1
  | 2 => q.c2
  | 3 => q.c3

/-- Replace the part of channel `c`. -/
def Quad.set {α : Type} (q : Quad α) (c : Ch) (v : α) : Quad α :=
  match c with
  | 0 => { q with c0 := v }
  | 1 => { q with c1 := v }
  | 2 => { q with c2 := v }
  | 3 => { q with c3 := v }

/-- The four parts in channel order. -/
def Quad.toList {α : Type} (q : Quad α) : List α := [q.c0, q.c1, q.c2, q.c3]

/-- The same value in every channel. -/
def Quad.all {α : Type} (v : α) : Quad α := ⟨v, v, v, v⟩

end Sys2Proof
end

