-- ==== Sys2Proof/Syntax.lean ====
section
/-! DEFINITION. The commands of the block: one constructor of `Instr` per row of spec/opcode_table.json, in the
table's order, with the row's operands. An operand is either a field that the sender writes (a frame's fields, a
register word) or a fact of the outside world that the module only observes (a sensed failure, a temperature, a
pin level). -/

namespace Sys2Proof

/-- The fields of a SEARCH frame (Table 15.2) and its key. `replay` tells that a flit of the frame was accepted
after a NAK (R377). The key is right aligned in 640 bits (R101). -/
structure SearchFrame where
  hf : Hf
  ch : Ch
  profile : Fin 64
  domain : Fin 64
  klen : BitVec 2
  pstat : BitVec 4
  pinValid : Bool
  tag : BitVec 16
  pin : BitVec 16
  key : BitVec 640
  replay : Bool
deriving DecidableEq, Repr

/-- An access of Oluek, or of the boot controller, to a direct register of the frame's region that reaches the region's port in
the same cycle as the frame's access (R414): a write of a word, or a read. -/
structure RegRival where
  boot : Bool
  off : BitVec 16
  write : Option Word
deriving DecidableEq, Repr

/-- The frame fields of a register access (Table 15.7). `hw` names what hardware does to the same register in the
same cycle (Table 16.3): for a +H field the mask of bits hardware updates in that cycle (their values stand
already), for a CNT field the increment of that cycle. `rivals` are the accesses of the other requesters that meet it at the
register port. -/
structure RegAcc where
  hf : Hf
  be : BitVec 4
  rtag : BitVec 16
  hw : Word
  rivals : List RegRival
deriving DecidableEq, Repr

/-- An access that a scratchpad master presents to a bank in a cycle (R434, R435): a read, or a write of the bytes that `be`
enables; bit 7 - i of it enables byte i of the word. The masters have the numbers of Table 17.1. -/
structure SpadReq where
  master : Fin 5
  bank : Fin 16
  word : Fin 8192
  write : Bool
  be : BitVec 8
  data : BitVec 64
deriving DecidableEq, Repr

/-- What meets at the scratchpad with a window access: the word that a write carries, and what the other masters present, from
the access's own cycle on, cycle by cycle (R440, log entry 55). -/
structure SpadMeet where
  data : Word
  others : List (List SpadReq)
deriving DecidableEq, Repr

/-- The three trained ports: host, cascade upstream, cascade downstream. -/
inductive Port
  | host | up | down
deriving DecidableEq, Repr

/-- What a decoder made of a word: the FEC decoder of the codeword that held a flit (R367), the checks of a word of the
base die's memories that the step read (R465). -/
inductive Fec
  | clean | corrected | uncorrectable
deriving DecidableEq, Repr

/-- One lookup record (Table 03.4) without its LOOKUP number. -/
structure LookupRec where
  hit : Bool
  degraded : Bool
  adErr : Bool
  extPresent : Bool
  extLate : Bool
  extErr : Bool
  prio : BitVec 20
  index : BitVec 29
  ad : BitVec 64
deriving DecidableEq, Repr

/-- The flow part of a result with its snapshot values (Tables 15.5 and 15.6). -/
structure FlowPart where
  fstatus : BitVec 4
  loc : BitVec 2
  state : BitVec 8
  action : BitVec 64
  pkt : BitVec 40
  bytes : BitVec 48
  lastSeen : BitVec 32
deriving DecidableEq, Repr

/-- Result statuses (Table 03.6), in the code order of Table 15.4. -/
inductive RStatus
  | ok | parseReject | denied | cancelled | channelDown
deriving DecidableEq, Repr

/-- The content of one result (Table 15.4, R398). `ext` holds one 64-byte section per record with EXT_PRESENT. -/
structure Result where
  status : RStatus
  recs : List LookupRec
  flow : Option FlowPart
  snap : Bool
  flowLate : Bool
  learnFail : Bool
  epochRetired : Bool
  parseExc : Bool
  linkReplay : Bool
  cancelledFlag : Bool
  epochUsed : BitVec 16
  ext : List (BitVec 512)
deriving DecidableEq, Repr

/-- The fields of a cascade header (Table 08.1). -/
structure CascHdr where
  ch : Ch
  gsn : BitVec 14
  pos : BitVec 3
  missing : Bool
deriving DecidableEq, Repr

/-- What the analog array does with the buoys of one block in a lookup (R336, R337): whether the always buoy missed, and whether
the near buoy was sensed as a match. A block that no entry names senses both as they are stored. -/
structure BlockSense where
  bank : Fin 36
  block : Fin 33
  alwaysMiss : Bool
  nearMatch : Bool
deriving DecidableEq, Repr

/-- What one bank senses in one replay, at the trial strobe code (R341): whether each buoy was sensed as a match, and the output
of the block stage. -/
structure CalSense where
  bank : Fin 36
  alwaysHit : Bool
  nearMatch : Bool
  hit : Bool
  win : Fin 4096
  cnt : Fin 4097
deriving DecidableEq, Repr

/-- The commands of the module: one constructor per row of the opcode table. -/
inductive Instr
  -- the path of one search
  | search (f : SearchFrame)
  | acceptance
  | channelIngress (c : Ch)
  | searchSlot (c : Ch)
  | lookupDone (c : Ch) (ctx : Fin 2048) (sense : List BlockSense)
  | extAdReadDone (c : Ch) (ctx : Fin 2048) (lookup : Fin 4)
  | flowBucketArrival (c : Ch)
  | lineGroupGrant (c : Ch)
  | lineArrival (c : Ch) (slot : Nat)
  | flowCommit (c : Ch) (ticket : Nat)
  | flowSlotDeadline (c : Ch) (ctx : Fin 2048)
  | cacheWriteback (c : Ch) (slot : Nat)
  | relocationTurn (c : Ch)
  | agingSweepBucket (c : Ch)
  | agingPenExamine (c : Ch)
  | resultAssemblyDone (c : Ch) (ctx : Fin 2048)
  | contextFreeCrossed (c : Ch)
  | resultAtReleaseUnit (c : Ch)
  | release (domain : Fin 512)
  | hostEgressCycle (mem : Fec)
  | cancel (hf : Hf) (tag : BitVec 16)
  | cancelAtChannel (c : Ch)
  | cancelledContextFreed (c : Ch) (ctx : Fin 2048)
  | slotCreditIssue (c : Ch)
  | groupCreditIssue (c : Ch)
  -- channel power states
  | chStateReqOn (c : Ch) (a : RegAcc)
  | chStateReqIdle (c : Ch) (a : RegAcc)
  | chStateReqOff (c : Ch) (a : RegAcc)
  | chStateReqCancel (c : Ch) (a : RegAcc)
  | chAdmitEnWrite (c : Ch) (a : RegAcc) (en : Bool)
  | idleEntryComplete (c : Ch)
  | resumeCalPassDone (c : Ch)
  | chOffEntered (c : Ch)
  | chWakeComplete (c : Ch)
  -- profiles and flow tables
  | profileEnable (c : Ch) (p : Fin 64) (a : RegAcc)
  | profileDisable (c : Ch) (p : Fin 64) (a : RegAcc)
  | profileReportAtBaseDie (c : Ch) (p : Fin 64)
  | flowTableEnable (c : Ch) (t : Fin 16) (a : RegAcc)
  -- epochs and time
  | epochCmdStage (c : Ch) (a : RegAcc)
  | epochCmdCommit (c : Ch) (a : RegAcc)
  | epochCmdArm (c : Ch) (a : RegAcc)
  | epochCmdDisarm (c : Ch) (a : RegAcc)
  | epochCmdEndSlack (c : Ch) (a : RegAcc)
  | epochCmdFree (c : Ch) (a : RegAcc)
  | scheduleFires (c : Ch)
  | commitTakesEffect (c : Ch)
  | slackWaterEnd (c : Ch)
  | retireSweep (c : Ch)
  | timeTick
  | ppsEdge (falling : Bool)
  | ppsHoldover
  | timeOfDay (hf : Hf) (seconds : BitVec 48)
  | todFrameDiscard
  | timeCmdSet (a : RegAcc)
  | timeCmdInvalidate (a : RegAcc)
  | timeSnapshotRead (a : RegAcc)
  -- cascade
  | cascKeyFrame (h : CascHdr) (f : SearchFrame)
  | cascCancelFrame (h : CascHdr)
  | cascWashFrame (h : CascHdr) (r : Result)
  | backwashMerge (gsn : BitVec 14)
  | cascPortDown (p : Port)
  | cascPortUp (p : Port) (neighbourPos : BitVec 3) (lanes : BitVec 8)
  | cascEnable (a : RegAcc) (en : Bool)
  | cascBypass (a : RegAcc) (on : Bool)
  -- mailboxes and manager
  | mbxWrite (hf : Hf) (c : Ch) (rtag : BitVec 16) (mbx : Fin 16) (offw : BitVec 6) (lenw : BitVec 7) (data : List Word)
  | mbxDoorbell (c : Ch) (a : RegAcc) (bells : BitVec 16)
  | mbxDispatch (c : Ch)
  | mbxResponseSent (c : Ch) (mbx : Fin 16)
  | lockGrant (c : Ch)
  | engineLockGroupGrant (c : Ch)
  | sheepdogInspection (c : Ch)
  | commandRestart (c : Ch) (x : Fin 8)
  | mgrWatchdogExpiry (c : Ch)
  | mgrRestart (c : Ch) (a : RegAcc)
  | mgrRestartComplete (c : Ch)
  | mgrUpdateHalt (c : Ch)
  | mgrUpdateComplete (c : Ch)
  | mgrUpdateFallback (c : Ch)
  -- mailbox commands, each in its executor
  | tableCreate (c : Ch) (x : Fin 8)
  | tableDestroy (c : Ch) (x : Fin 8)
  | tableResize (c : Ch) (x : Fin 8)
  | ruleInsert (c : Ch) (x : Fin 8)
  | ruleDelete (c : Ch) (x : Fin 8)
  | ruleModifyAd (c : Ch) (x : Fin 8)
  | ruleRead (c : Ch) (x : Fin 8)
  | ruleBulkInsert (c : Ch) (x : Fin 8)
  | epochPrepare (c : Ch) (x : Fin 8)
  | epochCommit (c : Ch) (x : Fin 8)
  | epochAbort (c : Ch) (x : Fin 8)
  | epochRetire (c : Ch) (x : Fin 8)
  | epochImageLoad (c : Ch) (x : Fin 8)
  | flowTableCreate (c : Ch) (x : Fin 8)
  | flowInsert (c : Ch) (x : Fin 8)
  | flowDelete (c : Ch) (x : Fin 8)
  | flowRead (c : Ch) (x : Fin 8)
  | flowFlush (c : Ch) (x : Fin 8)
  | flowRelocate (c : Ch) (x : Fin 8)
  | blockMigrate (c : Ch) (x : Fin 8)
  | blockRepair (c : Ch) (x : Fin 8)
  | defrag (c : Ch) (x : Fin 8)
  | mirrorSet (c : Ch) (x : Fin 8)
  | profileWrite (c : Ch) (x : Fin 8)
  | profileRead (c : Ch) (x : Fin 8)
  | testMarch (c : Ch) (x : Fin 8)
  | calRun (c : Ch) (x : Fin 8)
  | channelDrain (c : Ch) (x : Fin 8)
  | channelResume (c : Ch) (x : Fin 8)
  | managerUpdate (c : Ch) (x : Fin 8)
  | imageSave (c : Ch) (x : Fin 8)
  | imageRestore (c : Ch) (x : Fin 8)
  | statsRead (c : Ch) (x : Fin 8)
  -- calendar slots and tide periods
  | writeSlot (c : Ch)
  | scrubSlot (c : Ch)
  | scrubRepairStart (c : Ch)
  | calSlot (c : Ch) (sense : List CalSense)
  | migSlot (c : Ch)
  | calCtrlSwap (c : Ch) (a : RegAcc)
  | calSwapTakesEffect (c : Ch)
  | tidePeriodBoundary (c : Ch)
  | moduleTidePeriod
  -- the links
  | flitReceived (p : Port) (flit : BitVec 512) (fec mem : Fec)
  | ctrlStatusFlit (p : Port) (payload : BitVec 480)
  | nakReceived (p : Port) (payload : BitVec 480)
  | ctrlFlitSend (p : Port)
  | ackTimeout (p : Port)
  | laneLossOfLock (p : Port) (lane : Fin 16)
  | recoveryComplete (p : Port) (lanes : BitVec 16)
  | recoveryTimeout (p : Port)
  | linkEnable (a : RegAcc)
  | linkDisable (a : RegAcc)
  | linkRetrain (a : RegAcc)
  | trainingStepComplete (p : Port) (lanes : BitVec 16) (reversed : Bool) (payload : BitVec 480)
  | trainingTimeout (p : Port)
  -- frames on VC2 and register accesses
  | bulkWrite (hf : Hf) (c : Ch) (rtag : BitVec 16) (unitsM1 : BitVec 4) (off64 : BitVec 19) (data : List (BitVec 512))
  | bulkRead (hf : Hf) (c : Ch) (rtag : BitVec 16) (unitsM1 : BitVec 4) (off64 : BitVec 19)
  | writeDirect (hf : Hf) (c : Ch) (items : List (BitVec 256))
  | registerWrite (a : RegAcc) (addr : BitVec 32) (data : Word)
  | aliasWrite (a : RegAcc) (addr : BitVec 32) (data : Word)
  | indDataRead (region : Fin 5) (a : RegAcc)
  | indDataWrite (region : Fin 5) (a : RegAcc) (data : Word)
  | indAccessDone (region : Fin 5) (requester : Fin 9)
  | indTimeout (region : Fin 5) (requester : Fin 9)
  | configParityMismatch (region : Fin 5) (indirect : Bool) (off : BitVec 24) (flip : Word)
  | ctxHwmClr (c : Ch) (a : RegAcc)
  | evtClr (region : Fin 5) (idx : Fin 15) (bits : Word) (a : RegAcc)
  -- scratchpad and arbiters
  | spadWindowAccess (a : RegAcc) (addr : BitVec 32) (write : Bool) (data : SpadMeet)
  | spadHandoverRequest (c : Ch) (bank : Fin 16) (owner : BitVec 2) (manager : Bool) (a : RegAcc)
  | spadHandover (c : Ch) (bank : Fin 16)
  | marchStart (c : Ch) (bank : Fin 16) (destructive : Bool) (pattern : BitVec 2) (a : RegAcc)
  | marchEnd (c : Ch) (failing : Option (Fin 8192))
  | hbmArbGrant (c : Ch) (requests : BitVec 5) (bursts : Nat) (withdrawn : Bool)
  -- faults
  | chFaultDetect (c : Ch) (causes : BitVec 6)
  | d2dLinkFailure (c : Ch)
  | chPllLoss (c : Ch)
  | ctxWatchdogExpiry (c : Ch) (ctx : Fin 2048)
  | hbmPhyRetrain (c : Ch)
  | hbmPhyRetrainEnd (c : Ch) (good : Bool)
  | chFaultCauseClears (c : Ch) (cause : Fin 6)
  -- supply and power
  | inputLoss (vinMv : Nat)
  | inputRestored (vinMv : Nat)
  | rideExpiry
  | bankLow (bankMv : Nat)
  | ebbChannelHalt
  | ebbLinkDown
  | ebbEnd
  | railFault (rail : Nat)
  | thermalSample (baseC stageC : Int) (chC : Quad Int)
  | inputPowerMeasurement (vinMv : Nat) (iinMa : Nat) (chMw : Quad Nat)
  | governorWindow
  | railStepComplete (c : Ch)
  | holdupCharged (bankMv : Nat)
  | pmbusCommand (code : Byte) (write : Bool) (data : List Byte)
  | clearFaults
  -- reset, start-up and nonvolatile store
  | resetNAssert
  | resetNDeassert (pos : BitVec 3)
  | modReset (a : RegAcc)
  | powerUpStart (vinMv : Nat)
  | basePllLock
  | refclkMissing
  | bootImageCheck
  | bootConfigApply
  | journalRecordClose (c : Ch)
  | journalRecordCommit (c : Ch)
  | startupRestore (c : Ch)
  | bootUpdateStart (a : RegAcc)
  | bootUpdateEnd (written : Bool)
  | commandTimeout (c : Ch) (x : Fin 8)
  | cascadeMergeGrant
deriving DecidableEq, Repr

end Sys2Proof
end

