-- ==== Sys2Proof/Decode.lean ====
section
/-! DEFINITION. The commands that the table's bits spell. No row of the opcode table gives bits: a command is an
event with operands, so no word spells one. -/

namespace Sys2Proof

/-- No row of the opcode table has bits: no word spells a command. -/
def decodeTableWord (_nbits _w : Nat) : Option Instr := none

end Sys2Proof
end

