-- ==== Sys2Proof/Config.lean ====
section
/-! DEFINITION. What one module's manufacture or the spec's silence leaves open. Every constant here is
opaque: nothing can be proved of its value. -/

namespace Sys2Proof.Config

/-- MOD_GRADE.GRADE: 0 for ordering code S, 1 for E (Table 16.8). -/
opaque grade : BitVec 1
/-- MOD_SERIAL (Table 16.9), written at the factory. -/
opaque serial : BitVec 64
/-- FREE VALUE. The `n`-th value that the spec leaves unstated (log entry 8). -/
opaque freeBits : Nat → BitVec 64
/-- FREE VALUE. Bytes that the spec leaves unstated (log entry 8). -/
opaque freeBytes : Nat → List (BitVec 8)
/-- Boot flash slot A (false) and B (true) as the module came from the factory (R496). -/
opaque bootFlash : Bool → List (BitVec 8)
/-- Oluek image slots of a channel's flash area as the module came from the factory (R500). -/
opaque oluekFlash : Fin 4 → Bool → List (BitVec 8)
/-- What Oluek writes into the HBM controller and PHY space at a wake, as word numbers and values: a part of its image whose
layout the spec does not give (Table 16.4, R522). -/
opaque hbmSettings : List (BitVec 8) → List (BitVec 21 × BitVec 32)
/-- The fuses' key hashes (R496). -/
opaque keyHash : Fin 4 → BitVec 384
/-- The fuses' revoked bits as the module came from the factory. -/
opaque fuseRevoked : BitVec 4
/-- The calibration record: CHPWR coefficients C_SRCH, C_BLK, C_FLOW, C_EXT of a channel (R494). -/
opaque calCoeff : Fin 4 → Fin 4 → BitVec 32
/-- The calibration record: FACT_CODE of a block, bank * 33 + block (R494). -/
opaque factCode : Fin 4 → Nat → BitVec 5
/-- SHA-384 of a byte string (R497 names the function and gives no definition of it). -/
opaque sha384 : List (BitVec 8) → BitVec 384
/-- ECDSA P-384 signature check of (public key, signature, digest) (R497; no definition in the spec). -/
opaque ecdsaGood : BitVec 768 → BitVec 768 → BitVec 384 → Bool

end Sys2Proof.Config
end

