-- ==== Sys2Proof/Machine/Bits.lean ====
section
/-! DEFINITION. Bit fields, byte order, the Reed-Solomon family of R38, CRC-32C (R132) and CRC-16 (R370), and the
sparse store in its canonical form. -/

namespace Sys2Proof.Machine

/-- `n` bits of a natural number from bit `lo` up. -/
def natBits (v lo n : Nat) : Nat := (v >>> lo) % 2 ^ n

/-- The field of `n` bits at bit `lo` of a register word (R4). -/
def fld (w : Word) (lo n : Nat) : Nat := natBits w.toNat lo n

/-- Bit `i` of a register word. -/
def wbit (w : Word) (i : Nat) : Bool := w.getLsbD i

/-- The mask of a field. -/
def fmask (lo n : Nat) : Word := BitVec.ofNat 32 ((2 ^ n - 1) <<< lo)

/-- The word with the field of `n` bits at `lo` replaced. -/
def setFld (w : Word) (lo n v : Nat) : Word := (w &&& ~~~fmask lo n) ||| (BitVec.ofNat 32 ((v % 2 ^ n) <<< lo))

/-- The word with bit `i` set to `b`. -/
def setBit (w : Word) (i : Nat) (b : Bool) : Word := setFld w i 1 (if b then 1 else 0)

/-- 0 or 1. -/
def b2n (b : Bool) : Nat := if b then 1 else 0

/-- The low `n` bytes of a number, most significant first (R391). -/
def toBytes : Nat → Nat → List Byte
  | 0, _ => []
  | n + 1, v => BitVec.ofNat 8 (v >>> (8 * n)) :: toBytes n v

/-- The number that bytes spell, most significant first. -/
def ofBytes (l : List Byte) : Nat := l.foldl (fun a b => a * 256 + b.toNat) 0

/-- Bytes `i` to `i + n - 1` of a list, as a number. -/
def bytesAt (l : List Byte) (i n : Nat) : Nat := ofBytes ((l.drop i).take n)

/-- A list cut or filled with zeros to length `n`. -/
def padTo (n : Nat) (l : List Byte) : List Byte := l.take n ++ List.replicate (n - l.length) 0

/-- Smallest multiple of `m` that is at least `v`. -/
def roundUp (v m : Nat) : Nat := (v + m - 1) / m * m

/-- Add with saturation at 2^32 - 1, as every CNT field does (Table 16.2). -/
def satAdd (w : Word) (n : Nat) : Word :=
  if w.toNat + n < 2 ^ 32 then BitVec.ofNat 32 (w.toNat + n) else BitVec.ofNat 32 (2 ^ 32 - 1)

/-! ## The Reed-Solomon family (R38) -/

/-- Multiply by α in GF(2^8) with the field polynomial 0x11D. -/
def gfDouble (a : Nat) : Nat := if a < 128 then 2 * a else (2 * a) ^^^ 0x11D

/-- Product in GF(2^8), taking the `n` low bits of the second factor. -/
def gfMulAux : Nat → Nat → Nat → Nat
  | 0, _, _ => 0
  | n + 1, a, b => (if b % 2 = 1 then a else 0) ^^^ gfMulAux n (gfDouble a) (b / 2)

/-- Product in GF(2^8). -/
def gfMul (a b : Nat) : Nat := gfMulAux 8 a b

/-- α^k. -/
def gfPow : Nat → Nat
  | 0 => 1
  | k + 1 => gfDouble (gfPow k)

/-- One step of the division by g(x) = x^3 + 0x07 x^2 + 0x0E x + 0x08. -/
def rsStep (s : Nat × Nat × Nat) (m : Byte) : Nat × Nat × Nat :=
  let f := m.toNat ^^^ s.1
  (s.2.1 ^^^ gfMul f 7, s.2.2 ^^^ gfMul f 0xE, gfMul f 8)

/-- The three check symbols c0, c1, c2 of a message (R38), as one 24-bit number with c0 first. -/
def rsChecks (msg : List Byte) : BitVec 24 :=
  let s := msg.foldl rsStep (0, 0, 0)
  BitVec.ofNat 24 (s.1 * 65536 + s.2.1 * 256 + s.2.2)

/-- Syndromes S0, S1, S2 of a received codeword, by Horner's rule at α^0, α^1, α^2. -/
def rsSyndromes (cw : List Byte) : Nat × Nat × Nat :=
  cw.foldl (fun s r => (s.1 ^^^ r.toNat, gfDouble s.2.1 ^^^ r.toNat, gfDouble (gfDouble s.2.2) ^^^ r.toNat)) (0, 0, 0)

/-- What the decoder of R38 says of a codeword. -/
inductive RsOut
  | clean
  | corrected (msg : List Byte)
  | uncorrectable
deriving DecidableEq, Repr

/-- Flip the symbol `i` of a list by `e`. -/
def xorAt (l : List Byte) (i : Nat) (e : Nat) : List Byte :=
  l.take i ++ (match l.drop i with | [] => [] | b :: t => (b ^^^ BitVec.ofNat 8 e) :: t)

/-- The decoder: a single symbol in error is corrected, any two are reported (R38). -/
def rsDecode (msg : List Byte) (chk : BitVec 24) : RsOut :=
  let cw := msg ++ toBytes 3 chk.toNat
  let s := rsSyndromes cw
  if s = (0, 0, 0) then .clean
  else if s.1 = 0 ∨ s.2.1 = 0 ∨ s.2.2 = 0 then .uncorrectable
  else
    match (List.range cw.length).find? (fun j => gfMul s.1 (gfPow j) = s.2.1 ∧ gfMul s.2.1 (gfPow j) = s.2.2) with
    | none => .uncorrectable
    | some j => .corrected ((xorAt cw (cw.length - 1 - j) s.1).take msg.length)

/-! ## CRCs -/

/-- One bit step of the reflected CRC-32C. -/
def crc32cBit : Nat → Nat → Nat
  | 0, c => c
  | n + 1, c => crc32cBit n (if c % 2 = 1 then (c / 2) ^^^ 0x82F63B78 else c / 2)

/-- CRC-32C (R132). -/
def crc32c (l : List Byte) : BitVec 32 :=
  BitVec.ofNat 32 ((l.foldl (fun c b => crc32cBit 8 (c ^^^ b.toNat)) 0xFFFFFFFF) ^^^ 0xFFFFFFFF)

/-- One bit step of CRC-16, most significant bit first. -/
def crc16Bit : Nat → Nat → Nat
  | 0, c => c
  | n + 1, c => crc16Bit n (if c < 0x8000 then 2 * c else ((2 * c) ^^^ 0x1021) % 0x10000)

/-- CRC-16 of a flit (R370). -/
def crc16 (l : List Byte) : BitVec 16 :=
  BitVec.ofNat 16 (l.foldl (fun c b => crc16Bit 8 (c ^^^ (b.toNat * 256))) 0xFFFF)

/-! ## Sparse stores -/

/-- What key `k` holds, or its default. -/
def sget {α : Type} (d : Nat → α) (l : List (Nat × α)) (k : Nat) : α :=
  match l with
  | [] => d k
  | (j, v) :: t => if j = k then v else if k < j then d k else sget d t k

/-- Store `v` at key `k`, keeping the canonical form: writing the default removes the entry. -/
def sset {α : Type} [DecidableEq α] (d : Nat → α) (l : List (Nat × α)) (k : Nat) (v : α) : List (Nat × α) :=
  match l with
  | [] => if v = d k then [] else [(k, v)]
  | (j, w) :: t =>
    if k < j then (if v = d k then (j, w) :: t else (k, v) :: (j, w) :: t)
    else if k = j then (if v = d k then t else (k, v) :: t)
    else (j, w) :: sset d t k v

/-- The canonical form: keys strictly rising above a bound, and no entry equal to the default. -/
def swfFrom {α : Type} [DecidableEq α] (d : Nat → α) : Option Nat → List (Nat × α) → Bool
  | _, [] => true
  | lo, (k, v) :: t => (match lo with | none => true | some j => decide (j < k)) && decide (v ≠ d k) && swfFrom d (some k) t

/-- The canonical form of a sparse store. -/
def swf {α : Type} [DecidableEq α] (d : Nat → α) (l : List (Nat × α)) : Bool := swfFrom d none l

/-- Replace the first element that satisfies `p`. -/
def modFirst {α : Type} (p : α → Bool) (f : α → α) : List α → List α
  | [] => []
  | a :: t => if p a then f a :: t else a :: modFirst p f t

/-- Replace element `i` of a list. -/
def modAt {α : Type} (i : Nat) (f : α → α) : List α → List α
  | [] => []
  | a :: t => match i with
    | 0 => f a :: t
    | i + 1 => a :: modAt i f t

/-- Remove the first element that satisfies `p`. -/
def dropFirst {α : Type} (p : α → Bool) : List α → List α
  | [] => []
  | a :: t => if p a then t else a :: dropFirst p t

/-- Insert before the first element that does not come before it. -/
def insertBy {α : Type} (lt : α → α → Bool) (a : α) : List α → List α
  | [] => [a]
  | b :: t => if lt a b then a :: b :: t else b :: insertBy lt a t

/-- The best element of a list by a strict order. -/
def bestBy {α : Type} (lt : α → α → Bool) : List α → Option α
  | [] => none
  | a :: t => match bestBy lt t with
    | none => some a
    | some b => if lt b a then some b else some a

/-- Rotating priority (R521): the first requester in rank order, and the ranks with it moved to the end. A sole requester's grant
moves it too: DESIGN CHOICE (log entry 62). -/
def rotate (ranks : List Nat) (req : Nat → Bool) : Option (Nat × List Nat) :=
  match ranks.find? req with
  | none => none
  | some w => some (w, ranks.filter (· != w) ++ [w])

end Sys2Proof.Machine
end

