-- ==== Sys2Proof/Machine/State.lean ====
section
/-! DEFINITION. The state of the module as plain data: everything the spec names, one home for each piece. Times are
in units of 1/12 ns (log entry 1). Sparse memories are `Store`s: key and value pairs, keys strictly rising, no
value equal to what an unlisted key reads as. -/

namespace Sys2Proof.Machine

/-- Sparse data by key in one canonical form. -/
abbrev Store (α : Type) := List (Nat × α)

/-- Why a command stops the block. No command of this model faults on ordinary data (log entry 3). -/
inductive Fault
  /-- Raised by CACHE_WRITEBACK and LINE_ARRIVAL for an HBM slot outside the channel's 8 GiB flow region, to which
  the update cache never refers (R11, R143). Safe: the spec gives no effect. -/
  | noSuchFlowSlot
deriving DecidableEq, Repr

/-- Why a command is refused. -/
inductive Refusal
  /-- Raised by exec's arm of a command that has no meaning yet. Safe: the model stops. -/
  | notModelled (mnemonic : String)
deriving DecidableEq, Repr

/-! ## The ternary array of a channel (chapters 02, 03, 12) -/

/-- One word with its three ECF copies, its shadow checks and its POISON bit (R33, R37, R38, R328). -/
structure WordCell where
  data : BitVec 80
  mask : BitVec 80
  ecf0 : BitVec 24
  ecf1 : BitVec 24
  ecf2 : BitVec 24
  chk : BitVec 24
  poison : Bool
deriving DecidableEq, Repr

/-- The fields of one range unit (Table 02.6). -/
structure RangeUnit where
  lo : BitVec 16
  hi : BitVec 16
  lane : BitVec 2
  en : Bool
deriving DecidableEq, Repr

/-- A range unit is stored three times (R57). -/
structure UnitCell where
  u0 : RangeUnit
  u1 : RangeUnit
  u2 : RangeUnit
deriving DecidableEq, Repr

/-- The on-die AD of a word pair with its RS(11,8) checks (R81). -/
structure AdCell where
  ad : BitVec 64
  chk : BitVec 24
deriving DecidableEq, Repr

/-- The two buoy words of a block (R39, chapter 12): for each, the data and mask that it holds. -/
structure BuoyCell where
  alwaysData : BitVec 80
  alwaysMask : BitVec 80
  nearData : BitVec 80
  nearMask : BitVec 80
deriving DecidableEq, Repr

/-- The array memories, keyed by `(bank * 33 + block) * 4096 + word` (pairs: `* 2048 + pair`; buoys: the block). -/
structure ArrayMem where
  words : Store WordCell
  units : Store UnitCell
  ads : Store AdCell
  buoys : Store BuoyCell
deriving DecidableEq, Repr

/-! ## Searches in flight in a channel (chapters 04 to 06) -/

/-- A block winner: the best matching entry of one block (R77), with the WIDTH that its block had at the start of the SEARCH
slot (R60). -/
structure Cand where
  bank : Nat
  block : Nat
  word : Nat
  prio : Nat
  width : Nat
deriving DecidableEq, Repr

/-- What one precharged block gave to a lookup: its winner, how many of its entries match, and the outcome that its near buoy
should give (R68, R77, R337, R338). -/
structure BlockRes where
  bank : Nat
  block : Nat
  win : Option Cand
  cnt : Nat
  near : Bool
deriving DecidableEq, Repr

/-- One lookup of a search in flight. -/
structure Look where
  table : Nat
  stage : Nat
  groups : Nat
  started : Bool
  performed : Bool
  finished : Bool
  failed : Bool
  degraded : Bool
  ext : Bool
  key : Nat
  blocks : List BlockRes
  record : LookupRec
  doneAt : Nat
deriving DecidableEq, Repr

/-- The state of one extended AD read (R87 to R89). -/
structure ExtWork where
  lookup : Nat
  issuedAt : Option Nat
  finished : Bool
  data : BitVec 512
deriving DecidableEq, Repr

/-- Where the flow work of a search stands (R117, R145 to R148). -/
inductive FlowPhase
  /-- no flow work, or not the owner of it -/
  | none
  /-- the hashes are not known yet -/
  | waiting
  /-- in the order of its buckets, under a ticket -/
  | arrived (ticket : Nat)
  /-- finished: the flow part stands -/
  | finished
deriving DecidableEq, Repr

/-- Where a context stands between ingress and freeing (R170, R171). -/
inductive CtxPhase
  /-- waits for its keys and lanes (DEP 1) -/
  | forming
  /-- DEP is 0: waits for the launch slot -/
  | ready
  /-- in the launch slot -/
  | inLaunch
  /-- its stage has been launched -/
  | launched
  /-- waits for the last completions, then for its assembly -/
  | assembling
  /-- cancelled, waits to be freed -/
  | cancelled
deriving DecidableEq, Repr

/-- A context: the channel's record of one search in flight (R168 to R171). -/
structure Ctx where
  num : Nat
  req : SearchFrame
  gsn : Nat
  group : Bool
  forwarded : Bool
  usesBody : Bool
  body : List Word
  action : Nat
  noLookups : Bool
  retired : Bool
  parseExc : Bool
  epochSlot : Nat
  epochUsed : BitVec 16
  ingressAt : Nat
  deadline : Nat
  phase : CtxPhase
  readyAt : Nat
  stage : Nat
  looks : List Look
  exts : List ExtWork
  flow : FlowPhase
  part : FlowPart
  flowLate : Bool
  learnFail : Bool
  effect : Bool
  conflicted : Bool
  skipped : Bool
  lastAdAt : Nat
  lastWorkAt : Nat
  slotsLeft : Nat
  /-- the time at which the step in progress in the cancel cycle ends (R187) -/
  busyTill : Nat
deriving DecidableEq, Repr

/-- The launch slot when it is full: the context, the keys of its lookups and its lane values (R171). -/
structure Launch where
  num : Nat
  keys : List Nat
  lanes : List Nat
deriving DecidableEq, Repr

/-- What crosses from the base die into a channel (R13, R182). -/
inductive Ingress
  | search (f : SearchFrame) (gsn : Nat) (group forwarded disabled : Bool) (slots : Nat)
  | cancel (gsn : Nat) (forwarded : Bool)
deriving DecidableEq, Repr

/-- A result in the channel-to-base-die crossing FIFO (R13, R169). -/
structure Egress where
  gsn : Nat
  forwarded : Bool
  result : Result
  at_ : Nat
deriving DecidableEq, Repr

/-! ## The flow store of a channel (chapter 05) -/

/-- One line of the update cache: an HBM record slot with its sideband (R143). -/
structure CacheLine where
  slot : Nat
  data : BitVec 512
  sb : BitVec 64
  arrived : Bool
  dirty : Bool
  lastUse : Nat
  changedAt : Nat
deriving DecidableEq, Repr

/-- Who asked for a flow operation. -/
inductive FlowOwner
  | ctx (num : Nat)
  | mailbox (executor : Nat)
  /-- the aging sweep, for a bucket or for a pen entry (R158) -/
  | age
  | agePen (entry : Nat)
  /-- the relocation engine, for a pen record (R154) -/
  | reloc (entry : Nat)
deriving DecidableEq, Repr

/-- A place in the order of bucket arrival (R144, R145): an operation on the buckets `b1` and `b2`, and on those to which a
displacement moves records (R154). `lines` says that it reads its buckets; a step on a pen entry needs only their order. -/
structure Ticket where
  id : Nat
  owner : FlowOwner
  table : Nat
  key : BitVec 640
  h1 : BitVec 32
  b1 : Nat
  b2 : Nat
  extra : List Nat
  lines : Bool
  arrivedAt : Nat
  granted : Option Nat
  linesAt : Nat
  joined : Bool
deriving DecidableEq, Repr

/-- An entry of the overflow pen in use (R153). -/
structure PenEntry where
  data : BitVec 512
  occ : BitVec 2
  ageClass : BitVec 3
  isStatic : Bool
  table : Nat
  b1 : Nat
  b2 : Nat
  chk : BitVec 48
  head : Nat
deriving DecidableEq, Repr

/-- A 64-byte unit of HBM with its 8 sideband bytes (R127, R128). -/
structure HbmSlot where
  data : BitVec 512
  sb : BitVec 64
deriving DecidableEq, Repr

/-- The flow engine of a channel. -/
structure FlowEngine where
  tickets : List Ticket
  nextTicket : Nat
  lines : List CacheLine
  pen : Store PenEntry
  relocPtr : Nat
  relocAt : Nat
  penHigh : Bool
  ageStart : Nat
  /-- buckets of the present period that the sweep has requested, and that it has examined (R158) -/
  ageIssued : Nat
  ageDone : Nat
  penDone : Nat
  ageStopped : Bool
  ageWasOff : Bool
  exports : List (List Byte)
  lastCommit : Nat
  lastCreate : Nat
  bucketCommits : Store Nat
deriving DecidableEq, Repr

/-! ## Epochs (chapter 07) -/

/-- Epoch slot states (Table 07.1). -/
inductive EpState
  | free | staged | current | slack | retiring
deriving DecidableEq, Repr

/-- The two epoch slots of a channel and the commit in progress. -/
structure Epochs where
  st0 : EpState
  st1 : EpState
  armed : Bool
  late : Bool
  lateNow : Bool
  /-- the tick of the time domain before ARM (R205) -/
  armTick : Nat
  commitAt : Option Nat
  slackStart : Nat
  slackUs : Nat
  endSlack : Bool
  /-- entries (word keys) that the staged version changed, by Oluek's record (R200) -/
  stagedWork : List Nat
  /-- entries that the committed version changed, still to be swept -/
  retireWork : List Nat
  /-- entries that the present sweep has handled -/
  swept : Nat
deriving DecidableEq, Repr

/-! ## Channel power state (chapter 01) -/

/-- CH_STATUS.STATE (Table 01.13). -/
inductive ChPower
  | off | wake | on | idle
deriving DecidableEq, Repr

/-- A pending state request (R27, R28). -/
inductive StateReq
  | on | idle | off
deriving DecidableEq, Repr

/-! ## Links (chapter 14) -/

/-- LINK_STATUS.STATE (Table 14.7). -/
inductive LinkState
  | down | train | up | recovery
deriving DecidableEq, Repr

/-- A data flit that waits for its acknowledgement (R372). `results` tells that a result frame starts in it (R377). -/
structure TxFlit where
  seq : Nat
  flit : BitVec 512
  sentAt : Nat
  results : List Nat
deriving DecidableEq, Repr

/-- A frame whose bytes have all arrived on a virtual channel, not yet taken by its command; `at_` is the time at which its
first bit was at the pins. -/
structure Arrived where
  vc : Nat
  bytes : List Byte
  replay : Bool
  at_ : Nat
deriving DecidableEq, Repr

/-- One port of the Suade link. Credits and acknowledgements are the cumulative counts of Table 14.2; the five
virtual channels are listed in order: `rcvd` counts the data flits accepted, `hostCr` the flits of buffer credit that
the other side has granted, `sent` the flits sent. `rx` holds the stream bytes not yet part of a whole frame,
`rxAt` the time at which the flit with the first of them came, `rxReplay` whether a flit of them was accepted after a NAK, and `replayLeft` how many of the next flits are known to be
resent ones. `rxLine` is the time, in 1/31 of the clock's unit, at which the next data flit can begin to arrive (R410), `ctrlBy`
the time by which a CTRL flit is to be sent, `nakFrom` the cycle after the detection of a bad flit (R375, R376); `precodeTx` and
`precodeRx` tell which directions are precoded (R363). `txq` is the byte stream still to be sent on a cascade port; a mark
names the first byte of a result frame. -/
structure LinkPort where
  state : LinkState
  lanes : BitVec 16
  failed : BitVec 16
  reversed : Bool
  credMinFail : Bool
  step : Nat
  stepAt : Nat
  trainAt : Nat
  recoveryAt : Nat
  txNext : Nat
  acked : Nat
  replayBuf : List TxFlit
  rxExpect : Nat
  nakId : Nat
  waiting : Bool
  lastNak : Option Nat
  nakAck : Nat
  nakRuns : Nat
  rcvd : List Nat
  replayLeft : Nat
  hostCr : List Nat
  sent : List Nat
  rx : List (List Byte)
  rxAt : List Nat
  rxReplay : List Bool
  arrived : List Arrived
  txq : List (Byte × Bool)
  lastCtrlAt : Nat
  lastCtrl : BitVec 512
  rxLine : Nat
  ctrlBy : Nat
  nakFrom : Nat
  precodeTx : Bool
  precodeRx : Bool
deriving DecidableEq, Repr

/-! ## Release unit and egress (chapters 06, 15, 17) -/

/-- A release record (R173). -/
structure RelRec where
  gsn : Nat
  hf : Hf
  dom : Fin 64
  seq : Nat
  tag : BitVec 16
  profile : Nat
  ch : Ch
  acceptedAt : Nat
  early : Bool
  lNs : Nat
  atAcceptance : Bool
  group : Bool
  replay : Bool
  result : Option Result
  completeAt : Nat
deriving DecidableEq, Repr

/-- A context charge of the base die: which search holds it and how many of its SEARCH slots are in A[c]. -/
structure Charge where
  gsn : Nat
  forwarded : Bool
  group : Bool
  account : Nat
  profile : Nat
deriving DecidableEq, Repr

/-- A whole frame that waits for the egress arbiter, with the requester it belongs to and the time it fell due. -/
structure OutFrame where
  req : Nat
  bytes : List Byte
  dueAt : Nat
deriving DecidableEq, Repr

/-- What the base die keeps of a mailbox response frame in the VC3 queue. -/
structure OutResponse where
  ch : Ch
  mbx : Nat
  final : Bool
  bytes : List Byte
deriving DecidableEq, Repr

/-- A completion in the queue of R403. `bell` names the mailboxes that its REG_WRITE rang (R406). One without bytes keeps the
place of an IND_DATA read that the slow domain has still to answer (R402, R424). -/
structure Completion where
  hf : Hf
  target : Nat
  bytes : List Byte
  bell : Option (Nat × Nat)
deriving DecidableEq, Repr

/-- An arbiter: its requesters in rank order, and the present holder with what it has been granted (R449 to R453). -/
structure Arbiter where
  ranks : List Nat
  holder : Option Nat
  held : Nat
  left : List Byte
deriving DecidableEq, Repr

/-- A frame being sent on a virtual channel: its requester, flits held so far, the bytes left, and the mailbox whose
final response it is. -/
structure Sending where
  req : Nat
  held : Nat
  left : List (Byte × Bool)
  box : Option (Nat × Nat)
deriving DecidableEq, Repr

/-- The host egress side: frames waiting on VC1 in release order, VC3 and VC4, the arbiter's ranks, the frames being
sent, the VC1 stream position, the last cycle, final responses that have left, and the time at which the last bit of the
last result that began to leave is at the pins (R14, R16). -/
structure EgressUnit where
  vc1 : List OutFrame
  completions : List Completion
  responses : List OutResponse
  ranks1 : List Nat
  ranks3 : List Nat
  ranks4 : List Nat
  ranks34 : List Nat
  cur1 : Option Sending
  cur3 : Option Sending
  cur4 : Option Sending
  pos1 : Nat
  cycle : Nat
  gone : List (Nat × Nat)
  pinAt : Nat
deriving DecidableEq, Repr

/-- The base die's record of one profile (R113, R173, R429). -/
structure BaseProfile where
  enabled : Bool
  slots : Nat
  early : Bool
  lNs : Nat
  tables : List Nat
  flowTable : Option Nat
  exts : List Bool
deriving DecidableEq, Repr

/-- Last release of an ordering domain, and the next sequence numbers (R172, R174). -/
structure DomainRec where
  next : Nat
  released : Nat
  lastAt : Nat
deriving DecidableEq, Repr

/-! ## Cascade (chapter 08) -/

/-- A group search that this module has forwarded or received, waiting for its two inputs (R226), each with its
MISSING bit: the channel of its header, the channel that runs it, the EXT_PRESENT flag of each lookup of its profile,
and the position that owns its flow, if it has flow work. -/
structure CascPart where
  gsn : Nat
  ch : Ch
  run : Ch
  hf : Hf
  dom : Fin 64
  tag : BitVec 16
  exts : List Bool
  owner : Option Nat
  replay : Bool
  own : Option (Result × Bool)
  below : Option (Result × Bool)
deriving DecidableEq, Repr

/-- The cascade of this module. -/
structure Cascade where
  pos : Nat
  reach : Nat
  parts : List CascPart
  substituted : List Nat
  merge : Quad (List (List Byte))
  ranks : List Nat
  cur : Option (Nat × List Byte)
  held : Nat
deriving DecidableEq, Repr

/-! ## Events (chapter 18) -/

/-- An event record in the queue (R461); `at_` is the time at which it was raised. -/
structure EventRec where
  eseq : Nat
  info : Nat
  source : Nat
  seconds : Nat
  nanos : Nat
  at_ : Nat
deriving DecidableEq, Repr

/-- The event machinery of the base die. `seen` keeps, per source that is raised at most once per tide period, its
occurrences in this period and in the previous one (R458, R460). -/
structure Events where
  queue : List EventRec
  eseq : Nat
  ovf : Bool
  dropped : Nat
  seen : Store (Nat × Nat)
deriving DecidableEq, Repr

/-! ## Module time (chapter 07) -/

/-- Module time and its discipline (R207 to R210). `frac` is the rate correction not yet applied, in units of
1/125,000,000 ns, and `tickAt` the clock at the last tick. -/
structure ModTime where
  seconds : Nat
  nanos : Nat
  valid : Bool
  locked : Bool
  holdover : Bool
  frac : Int
  goodEdges : Nat
  lastEdge : Nat
  /-- time-of-day frames not yet used, newest first: their SECONDS and when they came -/
  tod : List (Nat × Nat)
  setPending : Bool
  snapSec : Nat
  snapNs : Nat
  tickAt : Nat
deriving DecidableEq, Repr

/-! ## Indirect pairs and scratchpad (chapters 16, 17) -/

/-- An indirect access in flight (R424). -/
structure IndFlight where
  addr : Nat
  write : Bool
  data : Word
  acc : RegAcc
  at_ : Nat
deriving DecidableEq, Repr

/-- One indirect pair (R423). -/
structure IndPair where
  region : Nat
  requester : Nat
  addr : Word
  ctrl : Word
  err : Nat
  flight : Option IndFlight
deriving DecidableEq, Repr

/-- A 64-bit scratchpad word with its checks (R432). -/
structure SpadCell where
  data : BitVec 64
  chk : BitVec 24
deriving DecidableEq, Repr

/-- A march test in progress (R445). -/
structure March where
  bank : Nat
  destructive : Bool
  pattern : Nat
  startedAt : Nat
  /-- cycles in which the engine stalled or was suspended (R440, R447) -/
  late : Nat
deriving DecidableEq, Repr

/-- A direct item with the host function that sent it (R318, R407) and the number of its frame, by which ENC_VIOLATION is
raised once per write frame. -/
structure DirectItem where
  hf : Hf
  item : BitVec 256
  frame : Nat
deriving DecidableEq, Repr

/-! ## Manager (chapters 09, 10, 13) -/

/-- MBX_STATE codes (R244). -/
inductive MbxState
  | empty | pending | running | responding
deriving DecidableEq, Repr

/-- A mailbox and its request buffer; bytes past the list are 0. -/
structure Mailbox where
  state : MbxState
  buf : List Byte
deriving DecidableEq, Repr

/-- A command executor (R250): the mailbox and its owner, the request, how far the command has come, the lock keys that
it has still to be granted, when it may restart after a break and how often it was broken, the numbers that the command
carries along, the time at which its present wait began, its final response, with the journal position that
SYNC_RESP makes it wait for, and whether a word of it has raised ENC_VIOLATION (R72). -/
structure Exec where
  mbx : Nat
  hf : Nat
  req : List Byte
  phase : Nat
  want : List Nat
  broken : Option Nat
  attempt : Nat
  nums : List Nat
  since : Nat
  resp : Option (List Byte)
  jpos : Option Nat
  encTold : Bool
deriving DecidableEq, Repr

/-- A granted lock (R255). -/
structure LockSlot where
  key : Nat
  holder : Nat
  at_ : Nat
deriving DecidableEq, Repr

/-- Oluek's record of a ternary table (R66, R270). `blocks` holds bank * 33 + block. -/
structure TableRec where
  width : Nat
  range : Bool
  groups : Nat
  mask : BitVec 64
  blocks : List Nat
deriving DecidableEq, Repr

/-- An item of the manager queue, a record in the format of Table 07.6, with the executor that it belongs to. -/
structure MItem where
  owner : Nat
  item : BitVec 256
deriving DecidableEq, Repr

/-- A job of the migration or the repair engine (Table 13.1). `owner` is the executor whose command it serves, none for a
repair that the scrub requested. Blocks are bank * 33 + block. -/
structure Job where
  src : Nat
  dst : Nat
  owner : Option Nat
  step : Nat
  next : Nat
  dirty : List Nat
  lost : List Nat
  failed : Bool
  passed : Option Bool
deriving DecidableEq, Repr

/-- A MANAGER_UPDATE in progress (R262, R263): its mailbox, host function, SEQ and NO_EVENT, the previous active slot, and
the time of the halt, once it has come. -/
structure MgrUpd where
  mbx : Nat
  hf : Nat
  seq : Nat
  noEvent : Bool
  old : Bool
  haltAt : Option Nat
deriving DecidableEq, Repr

/-- The manager: mailboxes, doorbells in the order rung, executors, locks, engine jobs and repair requests, Oluek's table
record and manager queue, and the ranks of its rotating priorities. -/
structure Mgr where
  boxes : List Mailbox
  rung : List Nat
  boxRanks : List Nat
  execs : Store Exec
  locks : Store LockSlot
  lockRanks : List Nat
  mig : Option Job
  rep : Option Job
  jobRanks : List Nat
  freeing : List (Nat × Bool)
  repairs : List Nat
  up : Bool
  loading : Bool
  served : Nat
  sheepAt : Nat
  upd : Option MgrUpd
  tables : Store TableRec
  items : List MItem
  bankRanks : Store Nat
  sweeping : Bool
deriving DecidableEq, Repr

/-! ## Maintenance (chapters 11, 12) -/

/-- A reference of one block in a sample (R338). -/
structure SampleRef where
  bank : Nat
  block : Nat
  hit : Bool
  win : Nat
  cnt : Nat
  valid : Bool
deriving DecidableEq, Repr

/-- A sample of a table: a lookup key with its lanes and epoch slot, and the references (R338). -/
structure Sample where
  key : Nat
  lanes : List Nat
  slot : Nat
  refs : List SampleRef
deriving DecidableEq, Repr

/-- The scrub of one bank (R325 to R329): its position, where the period started, groups read in the period, the items of
the last group that wait for write-back (kind 0 word, 1 range units, 2 AD pair; the item's key), and passes finished
since the last count. -/
structure BankScrub where
  pos : Nat
  start : Nat
  read : Nat
  wb : List (Nat × Nat)
  laps : Nat
deriving DecidableEq, Repr

/-- A pass in progress in a bank (R342): whether it is a priority pass, its block, the next replay (0 to 255), whether every
replay of the present code agreed, the codes passed, and the time at which it began. -/
structure CalPass where
  prio : Bool
  block : Nat
  idx : Nat
  good : Bool
  codes : BitVec 32
  since : Nat
deriving DecidableEq, Repr

/-- Maintenance: the settings of the tide period, the pending swap, the scrub of each bank, the sample store, and the
calibration work of each bank with what R350 watches. `cur` holds the passes in progress, those of a bank under twice its
number (a priority pass) and the number after that (a periodic one); `written` the time of the last write to each block (R351). -/
structure Maint where
  tideRevs : Nat
  budget : Nat
  swapAt : Option Nat
  scrub : Store BankScrub
  samples : Store (List Sample)
  sampledAt : Store Nat
  written : Store Nat
  prio : List (Nat × Nat)
  buoys : List (Nat × Nat × Nat)
  periodic : List (Nat × Nat)
  cur : Store CalPass
  nextBlk : Store Nat
  railUp : Bool
  passed : List (Nat × Nat)
  settle : List (Nat × Nat)
  settleAt : Nat
  resume : Bool
deriving DecidableEq, Repr

/-! ## Supply and power (chapter 19) -/

/-- PMBus status of one page: NONE_OF_THE_ABOVE, STATUS_VOUT, STATUS_INPUT, STATUS_TEMPERATURE, STATUS_CML. -/
structure PageStatus where
  nota : Bool
  vout : Byte
  input : Byte
  temp : Byte
  cml : Byte
deriving DecidableEq, Repr

/-- The power controller and the governor. Voltages in mV, energies in pJ, P_STATIC in µW, times as `now`. `ride` and
`ebb` hold the time at which a ride-through or the ebb sequence began, `ebbStep` how far the ebb has come, `hold` whether
credits are withheld, `heldWin` whether they were in the present window, `reply` what the last PMBus command answered. -/
structure Supply where
  on : Bool
  vin : Nat
  bank : Nat
  iin : Nat
  inputOk : Bool
  ride : Option Nat
  ebb : Option Nat
  ebbStep : Nat
  holdupOk : Bool
  degraded : Bool
  capUf : Nat
  vcore : Quad Nat
  railReq : Quad (Option Bool)
  railFault : Quad Bool
  overTemp : Quad Bool
  chMw : Quad Nat
  baseC : Int
  stageC : Int
  chC : Quad Int
  thermalCap : Nat
  throttle : Bool
  capLow : Bool
  hold : Bool
  heldWin : Bool
  bucket : Int
  charged : Quad Nat
  eEst : Quad Nat
  eAct : Quad Nat
  actMs : Nat
  statics : List Int
  pStatic : Nat
  pinDw : Nat
  windowAt : Nat
  page : Nat
  pages : List PageStatus
  reply : List Byte
deriving DecidableEq, Repr

/-! ## Boot and the nonvolatile store (chapter 20) -/

/-- A journal record: its JSEQ, its items, and whether its COMMIT and CRC are good. -/
structure JRec where
  jseq : Nat
  items : List (BitVec 256)
  good : Bool
deriving DecidableEq, Repr

/-- The flash area of a channel (R500) with its journal buffer: the Oluek image slots A and B and which is active, the
journal records, the closed records with the times at which they closed (the first is being programmed), the open buffer
and when it was opened, and the table images, oldest first, each as stored. -/
structure Flash where
  olA : List Byte
  olB : List Byte
  olActive : Bool
  recs : List JRec
  prog : List (JRec × Nat)
  buf : List (BitVec 256)
  openedAt : Nat
  jseq : Nat
  images : List (List Byte)
  gen : Nat
  restoreDone : Bool
  truncated : Bool
deriving DecidableEq, Repr

/-- The boot controller, the boot flash, the fuses, the pins and the nonvolatile areas. -/
structure Boot where
  inReset : Bool
  posPin : BitVec 3
  pll : Bool
  stage : Nat
  stageAt : Nat
  slot : Bool
  fallback : Bool
  fail : Bool
  keyIdx : Nat
  version : Word
  prefer : Option Bool
  revoked : BitVec 4
  imgA : List Byte
  imgB : List Byte
  ready : Bool
  updBusy : Option (List Byte × Nat × Nat)
  updResult : Nat
  flash : Quad Flash
deriving DecidableEq, Repr

/-! ## One channel and the whole module -/

/-- A channel: its logic die, its array die, its HBM, and what the base die keeps of it. -/
structure Chan where
  -- power state (chapter 01)
  power : ChPower
  req : Option StateReq
  reqAt : Nat
  ready : Bool
  causes : BitVec 6
  -- array and HBM
  arr : ArrayMem
  hbm : Store HbmSlot
  -- searches
  ingress : List (Ingress × Nat)
  egress : List Egress
  freed : List (Nat × Bool × Nat)
  ctxs : List Ctx
  launch : Option Launch
  /-- since when the launch slot has been empty -/
  launchFree : Nat
  lastSlot : Option Nat
  -- flow store, epochs
  flow : FlowEngine
  ep : Epochs
  -- calendar
  calStart : Nat
  tideStart : Nat
  direct : List DirectItem
  dwrFrames : Nat
  encFrame : Nat
  maint : Maint
  -- manager and scratchpad
  mgr : Mgr
  spad : Store SpadCell
  march : Option March
  /-- ranks of the masters at each scratchpad bank (R440), by bank, and of the requesters at the register port (R414) -/
  spadRanks : Store (List Nat)
  regRanks : List Nat
  arb : Arbiter
  -- base die
  charges : List Charge
  slotOut : Nat
  grpOut : Nat
  dwrOut : Nat
  slotCr : Nat
  dwrCr : Nat
  grpCr : Nat
  lastCredit : Option Nat
  creditRanks : List Nat
  winSlot : Nat
  winBlk : Nat
  winFlow : Nat
  winExt : Nat
  profs : Store BaseProfile
  xseq : Nat
  /-- profile bodies, flow seed and key widths as they were when the channel went OFF: what an empty part needs (R227) -/
  offRegs : Store Word
deriving DecidableEq, Repr

/-- A frame in the VC0 queue, waiting for acceptance (R383): a search with the time at which its first bit was at the pins and
the slot credits that it arrived with. -/
inductive Vc0
  | search (f : SearchFrame) (at_ credits : Nat)
  | cancel (hf : Hf) (tag : BitVec 16)
deriving DecidableEq, Repr

/-- A VC2 frame that waits for room in the completion queue, for its indirect pair or for the direct queue, and those behind it
(R403, R424, R407). -/
inductive Vc2
  | reg (a : RegAcc) (write : Bool) (addr : BitVec 32) (data : Word) (others : List (List SpadReq))
  | mbx (hf : Hf) (c : Ch) (rtag : BitVec 16) (mbx : Fin 16) (offw : BitVec 6) (lenw : BitVec 7) (data : List Word)
  | bulkWrite (hf : Hf) (c : Ch) (rtag : BitVec 16) (unitsM1 : BitVec 4) (off64 : BitVec 19) (data : List (BitVec 512))
  | bulkRead (hf : Hf) (c : Ch) (rtag : BitVec 16) (unitsM1 : BitVec 4) (off64 : BitVec 19)
  | direct (hf : Hf) (c : Ch) (items : List (BitVec 256))
  | timeOfDay (hf : Hf) (seconds : BitVec 48)
deriving DecidableEq, Repr

/-- The state of the module. `regs` holds every stored register word, keyed by `regKey`; `parity` lists the
registers that hold a configuration parity mismatch (R418); `late` gives, for registers whose writes act from the next
host-link cycle on, the cycle of the last write and the word before it (R26, R188, R219, R238); `freeCount` counts the free values used (log entry 8);
`pending` is the queue of commands, first in, first out. -/
structure State where
  now : Nat
  pending : List Instr
  regs : Store Word
  parity : List Nat
  late : List (Nat × Nat × Word)
  /-- ranks of the requesters at the module region's register port: host frames, Oluek, boot controller (R414) -/
  regRanks : List Nat
  freeCount : Nat
  ch : Quad Chan
  host : LinkPort
  up : LinkPort
  dn : LinkPort
  vc0 : List Vc0
  vc2 : List Vc2
  rels : List RelRec
  domains : Store DomainRec
  oldTags : List Nat
  egr : EgressUnit
  casc : Cascade
  ev : Events
  time : ModTime
  ind : List IndPair
  tideAt : Nat
  pwr : Supply
  boot : Boot
deriving DecidableEq, Repr

/-! ## Reset -/

/-- A port before training. -/
def LinkPort.reset : LinkPort :=
  { state := .down, lanes := 0, failed := 0, reversed := false, credMinFail := false, step := 0, stepAt := 0,
    trainAt := 0, recoveryAt := 0, txNext := 0, acked := 0, replayBuf := [], rxExpect := 0, nakId := 0,
    waiting := false, lastNak := none, nakAck := 0, nakRuns := 0, rcvd := [0, 0, 0, 0, 0], replayLeft := 0,
    hostCr := [0, 0, 0, 0, 0], sent := [0, 0, 0, 0, 0], rx := [[], [], [], [], []], rxAt := [0, 0, 0, 0, 0],
    rxReplay := [false, false, false, false, false], arrived := [], txq := [], lastCtrlAt := 0, lastCtrl := 0,
    rxLine := 0, ctrlBy := 0, nakFrom := 0, precodeTx := false, precodeRx := false }

/-- An empty flow engine. -/
def FlowEngine.reset : FlowEngine :=
  { tickets := [], nextTicket := 0, lines := [], pen := [], relocPtr := 0, relocAt := 0, penHigh := false, ageStart := 0,
    ageIssued := 0, ageDone := 0, penDone := 0, ageStopped := false, ageWasOff := false, exports := [], lastCommit := 0,
    lastCreate := 0, bucketCommits := [] }

/-- The epoch slots when a channel leaves OFF (R194). -/
def Epochs.reset : Epochs :=
  { st0 := .current, st1 := .free, armed := false, late := false, lateNow := false, armTick := 0, commitAt := none,
    slackStart := 0, slackUs := 0, endSlack := false, stagedWork := [], retireWork := [], swept := 0 }

/-- Maintenance when a channel leaves OFF. -/
def Maint.reset : Maint :=
  { tideRevs := 15625, budget := 60000, swapAt := none, scrub := [], samples := [], sampledAt := [], written := [], prio := [],
    buoys := [], periodic := [], cur := [], nextBlk := [], railUp := false, passed := [], settle := [], settleAt := 0, resume := false }

/-- A manager that does not run, with every mailbox EMPTY and its rotations in number order (R521). -/
def Mgr.reset : Mgr :=
  { boxes := List.replicate 16 ⟨.empty, []⟩, rung := [], boxRanks := List.range 16, execs := [], locks := [],
    lockRanks := List.range 10, mig := none, rep := none, jobRanks := [8, 9], freeing := [], repairs := [], up := false,
    loading := false, served := 0, sheepAt := 0, upd := none, tables := [], items := [], bankRanks := [],
    sweeping := false }

/-- A channel in OFF (Table 01.13). -/
def Chan.reset : Chan :=
  { power := .off, req := none, reqAt := 0, ready := false, causes := 0,
    arr := ⟨[], [], [], []⟩, hbm := [], ingress := [], egress := [], freed := [], ctxs := [], launch := none, launchFree := 0,
    lastSlot := none, flow := FlowEngine.reset, ep := Epochs.reset, calStart := 0, tideStart := 0, direct := [],
    dwrFrames := 0, encFrame := 0,
    maint := Maint.reset, mgr := Mgr.reset, spad := [], march := none, spadRanks := [], regRanks := [0, 1, 2], arb := ⟨[0, 1, 2, 3, 4], none, 0, []⟩,
    charges := [], slotOut := 0, grpOut := 0, dwrOut := 0, slotCr := 0, dwrCr := 0, grpCr := 0,
    lastCredit := none, creditRanks := [0, 1, 2, 3],
    winSlot := 0, winBlk := 0, winFlow := 0, winExt := 0, profs := [], xseq := 0, offRegs := [] }

/-- The egress unit with its rotations in number order (R521). -/
def EgressUnit.reset : EgressUnit :=
  { vc1 := [], completions := [], responses := [], ranks1 := [], ranks3 := [0, 1, 2, 3, 4],
    ranks4 := [0, 1, 2, 3, 4], ranks34 := [3, 4], cur1 := none, cur3 := none, cur4 := none, pos1 := 0, cycle := 0,
    gone := [], pinAt := 0 }

/-- A module outside a group (R217). -/
def Cascade.reset : Cascade :=
  { pos := 0, reach := 0, parts := [], substituted := [], merge := Quad.all [], ranks := [0, 1, 2, 3],
    cur := none, held := 0 }

/-- The power controller before the input has come. -/
def Supply.reset : Supply :=
  { on := false, vin := 0, bank := 0, iin := 0, inputOk := false, ride := none, ebb := none, ebbStep := 0,
    holdupOk := false, degraded := false, capUf := 0, vcore := Quad.all 750, railReq := Quad.all none,
    railFault := Quad.all false, overTemp := Quad.all false, chMw := Quad.all 0, baseC := 0,
    stageC := 0, chC := Quad.all 0, thermalCap := 360, throttle := false, capLow := false, hold := false,
    heldWin := false, bucket := 1440000000, charged := Quad.all 0, eEst := Quad.all 0,
    eAct := Quad.all 0, actMs := 0, statics := [], pStatic := 0, pinDw := 0, windowAt := 0, page := 0,
    pages := List.replicate 7 ⟨false, 0, 0, 0, 0⟩, reply := [] }

/-- The flash area of channel `c` as the module came from the factory: its images are the environment's. -/
def Flash.factory (c : Ch) : Flash :=
  { olA := Config.oluekFlash c false, olB := Config.oluekFlash c true, olActive := false, recs := [], prog := [],
    buf := [], openedAt := 0, jseq := 0, images := [], gen := 0, restoreDone := false, truncated := false }

/-- The boot controller in reset, before the first power-up. -/
def Boot.reset : Boot :=
  { inReset := false, posPin := 0, pll := false, stage := 0, stageAt := 0, slot := false, fallback := false,
    fail := false, keyIdx := 0, version := 0, prefer := none, revoked := Config.fuseRevoked,
    imgA := Config.bootFlash false, imgB := Config.bootFlash true, ready := false, updBusy := none, updResult := 0,
    flash := ⟨Flash.factory 0, Flash.factory 1, Flash.factory 2, Flash.factory 3⟩ }

/-- The module right after reset: every register at its reset value (`regs` lists nothing), every channel OFF. -/
def State.reset : State :=
  { now := 0, pending := [], regs := [], parity := [], late := [], regRanks := [0, 1, 2], freeCount := 0, ch := Quad.all Chan.reset,
    host := LinkPort.reset, up := LinkPort.reset, dn := LinkPort.reset, vc0 := [], vc2 := [], rels := [], domains := [],
    oldTags := [], egr := EgressUnit.reset, casc := Cascade.reset,
    ev := ⟨[], 0, false, 0, []⟩,
    time := ⟨0, 0, false, false, false, 0, 0, 0, [], false, 0, 0, 0⟩,
    ind := [], tideAt := 0, pwr := Supply.reset, boot := Boot.reset }

end Sys2Proof.Machine
end

