-- ==== Sys2Proof/Machine/RegMap.lean ====
section
/-! DEFINITION. The register map: keys of the register store, reset values, and the field tables of every block
(the field tables of chapters 01 to 20 and the index of Table 16.23). -/

namespace Sys2Proof.Machine

/-- Key of a direct register of the module region. -/
def modR (off : Nat) : Nat := off
/-- Key of a word of the module indirect space. -/
def modI (off : Nat) : Nat := 2 ^ 24 + off
/-- Key of a direct register of channel `c`'s region. -/
def chR (c : Ch) (off : Nat) : Nat := (c.val + 1) * 2 ^ 25 + off
/-- Key of a word of channel `c`'s indirect space. -/
def chI (c : Ch) (off : Nat) : Nat := (c.val + 1) * 2 ^ 25 + 2 ^ 24 + off
/-- Key from region (0 module, 1 + c channel c), space and offset. -/
def regKey (region : Nat) (ind : Bool) (off : Nat) : Nat := region * 2 ^ 25 + (if ind then 2 ^ 24 else 0) + off

/-- Element `i` of an array of `n` registers at `base` with stride `st`, if `off` is one. -/
def arrIdx (off base st n : Nat) : Option Nat :=
  if base ≤ off ∧ off < base + st * n ∧ (off - base) % st = 0 then some ((off - base) / st) else none

/-- Whether `off` is an element of an array of registers. -/
def inArr (off base st n : Nat) : Bool := (arrIdx off base st n).isSome

/-! ## Reset values -/

/-- Default calendar word `k` (Table 11.3, eight slot codes a word). -/
def calReset (k : Nat) : Word :=
  if k = 2 ∨ k = 10 ∨ k = 18 ∨ k = 26 then 1
  else if k = 6 ∨ k = 14 ∨ k = 22 ∨ k = 30 then 2
  else if k = 4 ∨ k = 20 then 3
  else if k = 12 ∨ k = 28 then 4 else 0

/-- Reset of a direct register of the module region. -/
def modReset (off : Nat) : Word :=
  match off with
  | 0x0000 => 0x4A560400
  | 0x0004 => (Config.grade.zeroExtend 32)
  | 0x0008 => (Config.serial.extractLsb' 32 32)
  | 0x000C => (Config.serial.extractLsb' 0 32)
  | 0x1000 => 0x18
  | 0x1004 => 0xC
  | 0x1040 => 0x200
  | 0x2000 => 1
  | 0x3000 => 0x4002
  | 0x3004 => 1
  | 0x3010 => 0x4002
  | 0x3014 => 1
  | 0x5000 => 7
  | 0x6004 => 0x4000
  | 0x8010 => 0x4B00
  | 0x9000 => 0x16801
  | _ => 0

/-- Reset of a word of the module indirect space. -/
def modIReset (off : Nat) : Word :=
  if 0x100000 ≤ off ∧ off < 0x100800 ∧ off % 0x40 = 0 then 0x3004
  else match off with
  | 0x200000 => 10
  | 0x200004 => 0x000A7364
  | 0x200010 => 0x0352028A
  | 0x200014 => 0x0352028A
  | 0x200018 => 0x0352028A
  | 0x20001C => 0x0352028A
  | _ => 0

/-- Reset of a direct register of channel `c`'s region. -/
def chReset (c off : Nat) : Word :=
  if inArr off 0x2000 4 64 then 0x10
  else if inArr off 0x6000 4 32 then calReset ((off - 0x6000) / 4)
  else if inArr off 0x6400 4 32 then calReset ((off - 0x6400) / 4)
  else if inArr off 0x9010 4 16 then 0x2C
  else match off with
  | 0x0000 => BitVec.ofNat 32 c
  | 0x1000 => 6
  | 0x3000 => 0x258
  | 0x4000 => 0xE
  | 0x4008 => 1
  | 0x400C => 2
  | 0x4010 => 0x10000
  | 0x5000 => 0x7D0
  | 0x5004 => 0x20000
  | 0x6804 => 0x3D09
  | 0x6808 => 0x30
  | 0x7000 => 0x1003
  | 0x7004 => 0xEA60
  | 0x8000 => 0x0C1A0407
  | 0x8004 => 0x00010021
  | 0xA00C => 2
  | 0xD000 => 0x1002
  | 0xD004 => 1
  | 0xE000 => 5000
  | 0xE004 => 128
  | 0xE008 => 15000
  | 0xE00C => 4000
  | _ => 0

/-- Bank and block of a word of a per-block indirect table (0x100 per bank, 4 per block). -/
def blkIdx (off base : Nat) : Option (Nat × Nat) :=
  if base ≤ off ∧ off < base + 0x2400 ∧ (off - base) % 0x100 < 132 ∧ off % 4 = 0 then
    some ((off - base) / 0x100, (off - base) % 0x100 / 4)
  else none

/-- Reset of a word of a channel's indirect space. -/
def chIReset (off : Nat) : Word :=
  match blkIdx off 0x100000 with
  | some (_, b) => if 24 ≤ b then 0x800 else 0
  | none =>
    if (blkIdx off 0x500000).isSome then 0x00100010
    else if 0x200000 ≤ off ∧ off < 0x210000 ∧ off % 0x400 = 4 then 0x29 else 0

/-- The reset value of every register key. -/
def regReset (k : Nat) : Word :=
  let region := k / 2 ^ 25
  let off := k % 2 ^ 24
  let ind := k / 2 ^ 24 % 2 = 1
  if region = 0 then (if ind then modIReset off else modReset off)
  else (if ind then chIReset off else chReset (region - 1) off)

/-! ## Fields -/

/-- Access classes (Table 16.2). RSV covers every bit that no other field of the register covers. -/
inductive Cls
  | rw | rwd | ro | rol | wp | cnt
deriving DecidableEq, Repr

/-- A field: lowest bit, width, class, and "+H". -/
structure Fld where
  lo : Nat
  n : Nat
  cls : Cls
  h : Bool := false
deriving DecidableEq, Repr

/-- A read-write field. -/
def rw (lo n : Nat) : Fld := ⟨lo, n, .rw, false⟩
/-- A read-write field that hardware also writes. -/
def rwh (lo n : Nat) : Fld := ⟨lo, n, .rw, true⟩
/-- A field written only while the owning block is disabled. -/
def rwd (lo n : Nat) : Fld := ⟨lo, n, .rwd, false⟩
/-- A read-only field. -/
def ro (lo n : Nat) : Fld := ⟨lo, n, .ro, false⟩
/-- A read-only level. -/
def rol (lo n : Nat) : Fld := ⟨lo, n, .rol, false⟩
/-- A pulse. -/
def wp (lo n : Nat) : Fld := ⟨lo, n, .wp, false⟩
/-- A counter. -/
def counter : List Fld := [⟨0, 32, .cnt, false⟩]
/-- The layout of a capture log with `n` read-only bits. -/
def logFields (l : List Fld) : List Fld := l ++ [rwh 31 1]

/-- Fields of a direct register of the module region; `none` at an offset that no field table defines. -/
def modFields (off : Nat) : Option (List Fld) :=
  if inArr off 0x1010 4 5 then some [ro 0 16]
  else if inArr off 0x1030 4 4 then some [ro 0 12, ro 12 12, ro 24 1]
  else if inArr off 0x1100 4 14 || inArr off 0x1200 4 5 || inArr off 0x2100 4 8 || inArr off 0x3100 4 5
    || inArr off 0x4200 4 5 || inArr off 0x6100 4 8 || inArr off 0x8100 4 7 || inArr off 0x9100 4 3
    || inArr off 0xA100 4 3 then some counter
  else if inArr off 0x2010 4 4 then some [rw 0 2, rw 2 1, rol 3 1]
  else if inArr off 0x4000 4 8 then some [⟨0, 32, .ro, true⟩]
  else if inArr off 0x4040 4 8 then some [wp 0 32]
  else if inArr off 0x4080 4 8 || inArr off 0x40C0 4 8 then some [rw 0 32]
  else if inArr off 0x4110 4 4 then some (logFields [ro 0 6, rol 6 1])
  else if inArr off 0x6010 4 8 then some [rw 0 32]
  else if inArr off 0x6030 4 4 then some [ro 0 12]
  else if inArr off 0x8020 4 4 then some [ro 0 7, ro 7 1, rol 8 1]
  else if inArr off 0x8040 4 8 || inArr off 0x8060 4 4 then some [ro 0 32]
  else if 0x7000 ≤ off ∧ off < 0x8000 ∧ off % 4 = 0 then
    let q := off % 0x200
    if q = 0x180 then some [rwd 0 11, rwd 16 11]
    else if 0x180 ≤ q then none
    else
      let r := q % 0x60
      if r < 0x40 then some [rwd 0 32]
      else if r = 0x40 then some [rwd 0 18]
      else if r = 0x44 then some [rwd 0 32] else none
  else match off with
  | 0x0000 => some [ro 0 32]
  | 0x0004 => some [ro 0 1]
  | 0x0008 => some [ro 0 32]
  | 0x000C => some [ro 0 32]
  | 0x0010 => some [ro 0 1, ro 1 4, ro 5 1, rol 6 1, rol 7 1]
  | 0x0014 => some [⟨0, 1, .ro, true⟩]
  | 0x0018 => some [rw 0 32]
  | 0x1000 => some [rw 0 1, rwd 1 1, rwd 2 2, rw 4 1, rwd 5 1, wp 6 1]
  | 0x1004 => some [ro 0 5, rol 5 3, ro 8 4]
  | 0x1008 => some [ro 0 16, rol 16 16]
  | 0x100C => some [ro 0 13, ro 16 13]
  | 0x1040 => some [rwd 0 12]
  | 0x2000 => some [rw 0 1]
  | 0x2004 => some [ro 0 15, rol 15 1]
  | 0x3000 => some [rw 0 1, rwh 1 2, rw 8 8]
  | 0x3004 => some [ro 0 2]
  | 0x3010 => some [rw 0 1, rwh 1 2, rw 8 8]
  | 0x3014 => some [ro 0 2]
  | 0x3140 => some (logFields [ro 0 11])
  | 0x4100 => some [rw 0 2]
  | 0x4104 => some [ro 0 6]
  | 0x4108 => some [ro 0 11, rol 11 1, ro 12 20]
  | 0x5000 => some [rw 0 4]
  | 0x5004 => some [ro 0 2, rol 2 1]
  | 0x5008 => some [ro 0 16]
  | 0x500C => some [ro 0 32]
  | 0x5010 => some [ro 0 30]
  | 0x5014 => some [rw 0 16]
  | 0x5018 => some [rw 0 32]
  | 0x501C => some [rw 0 30]
  | 0x5020 => some [wp 0 2]
  | 0x5024 => some [rw 0 16]
  | 0x5028 => some [ro 0 32]
  | 0x502C => some [ro 0 32]
  | 0x5040 => some [rw 0 30]
  | 0x6000 => some [rw 0 3]
  | 0x6004 => some [rwd 0 3, rwd 4 14]
  | 0x6008 => some [ro 0 7, rol 7 1, ro 8 3]
  | 0x8000 => some [ro 0 13]
  | 0x8004 => some [ro 0 32]
  | 0x8008 => some [rwd 0 8, ⟨8, 2, .ro, true⟩]
  | 0x800C => some [wp 0 1]
  | 0x8010 => some [rw 0 1, rw 8 7]
  | 0x8070 => some [wp 0 1, rw 1 2]
  | 0x8074 => some [rw 0 32]
  | 0x8078 => some [rw 0 32]
  | 0x807C => some [ro 0 4]
  | 0x9000 => some [rw 0 1, rw 8 9]
  | 0x9004 => some [ro 0 1, rol 1 1, ro 2 1, rol 3 1, ro 4 1, rol 5 2]
  | 0x9008 => some [ro 0 32]
  | 0x900C => some [ro 0 32]
  | 0x9010 => some [ro 0 16]
  | 0xA000 => some [rwh 2 22]
  | 0xA004 => some [rw 0 32]
  | 0xA008 => some [rw 0 1]
  | 0xA00C => some [ro 0 1, rwh 1 2]
  | 0xA020 => some (logFields [ro 0 29])
  | _ => none

/-- Fields of a word of the module indirect space; `none` when Table 16.4 has no target there. -/
def modIFields (off : Nat) : Option (List Fld) :=
  if 0x100000 ≤ off ∧ off < 0x100800 then
    (if off % 0x40 = 0 then some [rwd 0 6, rwd 8 6, rwd 16 6]
     else if off % 0x40 = 4 then some [ro 0 8, ro 8 8, ro 16 16] else some [ro 0 32])
  else if 0x200000 ≤ off ∧ off < 0x210000 then
    (match off with
     | 0x200000 => some [rw 0 5]
     | 0x200004 => some [rw 0 24]
     | 0x200010 => some [rw 0 10, rw 16 10]
     | 0x200014 => some [rw 0 10, rw 16 10]
     | 0x200018 => some [rw 0 10, rw 16 10]
     | 0x20001C => some [rw 0 10, rw 16 10]
     | 0x200020 => some [ro 0 16]
     | _ => some [ro 0 32])
  else none

/-- Fields of a direct register of a channel's region. -/
def chFields (off : Nat) : Option (List Fld) :=
  if inArr off 0x1400 4 256 then some [rw 0 1, rwd 1 6, ro 8 12, rol 20 1, ro 21 1]
  else if inArr off 0x1100 8 36 then some [rol 0 32]
  else if inArr off 0x1104 8 36 then some [rol 0 1]
  else if inArr off 0x2000 4 64 then some [rw 0 1, ro 1 1, rol 2 2, ro 4 3]
  else if inArr off 0x2100 4 10 || inArr off 0x3100 4 6 || inArr off 0x4400 4 16 || inArr off 0x5100 4 7
    || inArr off 0x6900 4 8 || inArr off 0x7010 4 7 || inArr off 0x8100 4 10 || inArr off 0x9100 4 10
    || inArr off 0xA100 4 8 || inArr off 0xC100 4 3 || inArr off 0xD100 4 7 || inArr off 0xE100 4 2 then some counter
  else if inArr off 0x4100 16 16 then some [rw 0 1, rwd 1 7, rw 8 1, rol 9 2]
  else if inArr off 0x4104 16 16 then some [rwd 0 15]
  else if inArr off 0x4108 16 16 then some [ro 0 28]
  else if inArr off 0x410C 16 16 then some [ro 0 13]
  else if inArr off 0x4200 4 128 then some [rw 0 24]
  else if inArr off 0x6000 4 32 then some [ro 0 32]
  else if inArr off 0x6400 4 32 then some [rwd 0 32]
  else if inArr off 0x7100 4 36 then some [ro 0 15]
  else if inArr off 0x9010 4 16 then some [rw 0 2, ro 2 2, rw 4 1, ro 5 1, ⟨6, 1, .ro, true⟩, ro 7 1]
  else if inArr off 0xB000 4 15 then some [⟨0, 32, .ro, true⟩]
  else if inArr off 0xB040 4 15 then some [wp 0 32]
  else if inArr off 0xB080 4 15 || inArr off 0xB0C0 4 15 then some [rw 0 32]
  else match off with
  | 0x0000 => some [ro 0 2, ro 8 8]
  | 0x0004 => some [rwh 0 1, rwh 1 2]
  | 0x0008 => some [ro 0 5, rol 5 1, ro 8 12]
  | 0x000C => some [ro 0 16]
  | 0x1000 => some [rw 0 1, rwd 1 2]
  | 0x1004 => some [ro 0 11, ro 16 11, rol 27 1]
  | 0x1008 => some counter
  | 0x100C => some [ro 0 32]
  | 0x1010 => some [ro 0 4]
  | 0x1020 => some counter
  | 0x1024 => some counter
  | 0x1028 => some (logFields [ro 0 23])
  | 0x102C => some counter
  | 0x1030 => some counter
  | 0x2140 => some (logFields [ro 0 16])
  | 0x3000 => some [rw 0 11]
  | 0x3004 => some [ro 0 12, wp 31 1]
  | 0x3140 => some (logFields [ro 0 31])
  | 0x4000 => some [rw 0 4]
  | 0x4004 => some [ro 0 13, rol 13 2, ro 16 12]
  | 0x4008 => some [rwd 0 32]
  | 0x400C => some [rwd 0 32]
  | 0x4010 => some [rw 0 26]
  | 0x4014 => some [ro 0 29]
  | 0x4018 => some [ro 0 32]
  | 0x4020 => some counter
  | 0x4024 => some counter
  | 0x4028 => some (logFields [ro 0 31])
  | 0x5000 => some [rw 0 20]
  | 0x5004 => some [rwd 0 16, ro 16 3]
  | 0x5008 => some [rwd 0 16, ro 16 3]
  | 0x500C => some [ro 0 3, rol 3 1, ro 4 1, ro 16 16]
  | 0x5010 => some [wp 0 6]
  | 0x5014 => some [rwd 0 16]
  | 0x5018 => some [rwd 0 32]
  | 0x501C => some [rwd 0 30]
  | 0x5020 => some [ro 0 16]
  | 0x5024 => some [ro 0 32]
  | 0x5028 => some [ro 0 30]
  | 0x6800 => some [wp 0 1]
  | 0x6804 => some [rw 0 16]
  | 0x6808 => some [ro 0 1, rol 1 1, ro 2 6, ro 16 16]
  | 0x680C => some [ro 0 8, ro 8 13]
  | 0x7000 => some [rw 0 2, rw 8 8]
  | 0x7004 => some [rw 0 17]
  | 0x7008 => some [ro 0 11, rol 11 1]
  | 0x7030 => some (logFields [ro 0 25])
  | 0x7034 => some [ro 0 24, ro 31 1]
  | 0x8000 => some [rw 0 3, rw 8 5, rw 16 5, rw 24 5]
  | 0x8004 => some [rw 0 6, rw 8 16]
  | 0x8008 => some [ro 0 11, rol 11 2, ro 16 5, ro 24 5]
  | 0x800C => some [ro 0 19]
  | 0x8140 => some (logFields [ro 0 13])
  | 0x9000 => some [rw 0 2]
  | 0x9050 => some [wp 0 1, rw 4 4, rw 8 3]
  | 0x9054 => some [ro 0 3, ro 4 13]
  | 0x9140 => some (logFields [ro 0 20])
  | 0xA000 => some [wp 0 16]
  | 0xA004 => some [ro 0 32]
  | 0xA008 => some [ro 0 6, ro 8 7]
  | 0xA00C => some [wp 0 1, rw 1 1]
  | 0xA010 => some [⟨0, 32, .ro, true⟩]
  | 0xA140 => some (logFields [ro 0 24])
  | 0xB200 => some counter
  | 0xC000 => some [rwh 2 22]
  | 0xC004 => some [rw 0 32]
  | 0xC008 => some [rw 0 1]
  | 0xC00C => some [ro 0 1, rwh 1 2]
  | 0xC020 => some (logFields [ro 0 29])
  | 0xD000 => some [rw 0 1, rwh 1 2, rw 8 8]
  | 0xD004 => some [ro 0 2]
  | 0xD140 => some (logFields [ro 0 3])
  | 0xE000 => some [rw 0 20]
  | 0xE004 => some [rw 0 16]
  | 0xE008 => some [rw 0 20]
  | 0xE00C => some [rw 0 20]
  | 0xE010 => some [ro 0 24, rol 24 2]
  | _ => none

/-- Fields of a word of a channel's indirect space; `none` when Table 16.4 has no target there. A write of software's lands in the
reserved bits of block 32's BLKMAP entry as in those of any register: DESIGN CHOICE (log entry 62). -/
def chIFields (off : Nat) : Option (List Fld) :=
  if 0x100000 ≤ off ∧ off < 0x102400 then
    (match blkIdx off 0x100000 with
     | some (_, b) => if b = 32 then some [ro 0 11, ro 11 1, rol 16 2] else some [rw 0 1, rwd 1 10, ro 11 1, rol 16 2]
     | none => some [ro 0 32])
  else if 0x200000 ≤ off ∧ off < 0x210000 then
    let q := off % 0x400
    if q < 0x180 ∧ q % 4 = 0 then
      some (if q = 0 then [rwd 0 7, rwd 8 12]
        else if q = 4 then [rwd 0 17]
        else if q = 8 ∨ q = 0xC then [rwd 0 11, rwd 16 11]
        else if q = 0x18 then [rwd 0 15]
        else if 0x20 ≤ q ∧ q < 0x30 then [rwd 0 13]
        else if 0x30 ≤ q ∧ q < 0x40 then [ro 0 32]
        else if 0x40 ≤ q then [rwd 0 29] else [rwd 0 32])
    else some [ro 0 32]
  else if 0x300000 ≤ off ∧ off < 0x300100 then some [ro 0 30, ro 31 1]
  else if 0x400000 ≤ off ∧ off < 0x402400 then
    (if (blkIdx off 0x400000).isSome then some [ro 0 13, ro 16 8] else some [ro 0 32])
  else if 0x500000 ≤ off ∧ off < 0x502400 then
    (if (blkIdx off 0x500000).isSome then some [rwh 0 5, ro 5 17, rol 22 1, ro 23 5] else some [ro 0 32])
  else if 0x800000 ≤ off then some []
  else none

/-- Fields of any register. -/
def regFields (region : Nat) (ind : Bool) (off : Nat) : Option (List Fld) :=
  if region = 0 then (if ind then modIFields off else modFields off)
  else (if ind then chIFields off else chFields off)

/-- Whether a region has a block at a control-area offset (Table 16.1, Table 16.23). -/
def blockExists (region off : Nat) : Bool :=
  decide (off / 0x1000 ≤ (if region = 0 then 0xA else 0xE))

/-- The mask of all fields of a class. -/
def clsMask (c : Cls) (l : List Fld) : Word :=
  l.foldl (fun m f => if f.cls = c then m ||| fmask f.lo f.n else m) 0

/-- The mask of the "+H" fields that software may also write. -/
def hMask (l : List Fld) : Word :=
  l.foldl (fun m f => if f.h && (f.cls == .rw || f.cls == .rwd) then m ||| fmask f.lo f.n else m) 0

/-- The mask of the reserved bits: those of no field. -/
def rsvMask (l : List Fld) : Word := ~~~ l.foldl (fun m f => m ||| fmask f.lo f.n) 0

end Sys2Proof.Machine
end

