-- ==== Sys2Proof/Machine/Ops.lean ====
section
/-! DEFINITION. The named operations that every command uses: the clock, the register store, counters and capture
logs, one channel's part of the state, module time, and the memories of a channel. -/

namespace Sys2Proof.Machine

/-! ## Time (log entry 1) -/

/-- One nanosecond, one microsecond, one millisecond. -/
def nsT (n : Nat) : Nat := 12 * n
/-- Microseconds. -/
def usT (n : Nat) : Nat := 12000 * n
/-- Milliseconds. -/
def msT (n : Nat) : Nat := 12000000 * n
/-- One host-link cycle of 1.25 ns. -/
def linkCycle : Nat := 15
/-- One manager-core cycle (600 MHz). -/
def mgrCycle : Nat := 20

/-- The clock moves on to the time at which a happening takes place, and never back (log entry 2). -/
def State.atTime (s : State) (t : Nat) : State := { s with now := max s.now t }

/-! ## Register store -/

/-- The stored word of a register. -/
def State.reg (s : State) (k : Nat) : Word := sget regReset s.regs k
/-- Store a word of a register. -/
def State.setReg (s : State) (k : Nat) (v : Word) : State := { s with regs := sset regReset s.regs k v }
/-- A field of a register. -/
def State.field (s : State) (k lo n : Nat) : Nat := fld (s.reg k) lo n
/-- One bit of a register. -/
def State.bit (s : State) (k i : Nat) : Bool := wbit (s.reg k) i
/-- Hardware stores a field. -/
def State.setField (s : State) (k lo n v : Nat) : State := s.setReg k (setFld (s.reg k) lo n v)
/-- Hardware stores a bit. -/
def State.setB (s : State) (k i : Nat) (b : Bool) : State := s.setField k i 1 (b2n b)
/-- The host-link cycle of the present time. -/
def State.linkNow (s : State) : Nat := s.now / linkCycle
/-- The word of a register as the searches and frames of this host-link cycle see it: the one before a write of this cycle
(R26, R188, R219, R238). -/
def State.regAt (s : State) (k : Nat) : Word :=
  match s.late.find? (fun p => p.1 == k && p.2.1 == s.linkNow) with
  | some p => p.2.2
  | none => s.reg k
/-- One bit of it. -/
def State.bitAt (s : State) (k i : Nat) : Bool := wbit (s.regAt k) i
/-- A register whose writes act from the next host-link cycle on is written: its word before this cycle is kept. -/
def State.keepOld (s : State) (k : Nat) : State :=
  { s with late := (s.late.filter (fun p => p.1 != k)) ++ [(k, s.linkNow, s.regAt k)] }
/-- A counter counts `n` more, with saturation. -/
def State.count (s : State) (k n : Nat) : State := s.setReg k (satAdd (s.reg k) n)
/-- A counter counts when a condition holds. -/
def State.countIf (s : State) (p : Bool) (k : Nat) : State := if p then s.count k 1 else s
/-- A capture log takes its fields while LOG_VALID is clear, and sets it. -/
def State.capture (s : State) (k v : Nat) : State :=
  if s.bit k 31 then s else s.setReg k (BitVec.ofNat 32 (v % 2 ^ 31 + 2 ^ 31))

/-- A port is up: UP, or in a recovery, which keeps everything (R386). -/
def LinkPort.isUp (p : LinkPort) : Bool := p.state == .up || p.state == .recovery

/-! ## One channel -/

/-- Channel `c`. -/
def State.chan (s : State) (c : Ch) : Chan := s.ch.get c
/-- Replace channel `c`. -/
def State.setChan (s : State) (c : Ch) (x : Chan) : State := { s with ch := s.ch.set c x }
/-- Change channel `c`. -/
def State.modChan (s : State) (c : Ch) (f : Chan → Chan) : State := s.setChan c (f (s.chan c))
/-- Change a channel's flow engine. -/
def State.modFlow (s : State) (c : Ch) (f : FlowEngine → FlowEngine) : State :=
  s.modChan c (fun x => { x with flow := f x.flow })
/-- Change the context numbered `n`. -/
def State.modCtx (s : State) (c : Ch) (n : Nat) (f : Ctx → Ctx) : State :=
  s.modChan c (fun x => { x with ctxs := modFirst (fun k => k.num == n) f x.ctxs })
/-- The context numbered `n`. -/
def Chan.ctx? (x : Chan) (n : Nat) : Option Ctx := x.ctxs.find? (fun k => k.num == n)

/-! ## Module time (R156, R207) -/

/-- The flow tick (R156). -/
def State.flowTick (s : State) : Nat := (s.time.seconds * 1000 + s.time.nanos / 1000000) % 2 ^ 32
/-- Module time in nanoseconds since its origin. -/
def State.timeNs (s : State) : Nat := s.time.seconds * 1000000000 + s.time.nanos

/-! ## Free values (log entry 8) -/

/-- The next free value, and the state in which it has been used. -/
def State.free (s : State) : BitVec 64 × State := (Config.freeBits s.freeCount, { s with freeCount := s.freeCount + 1 })

/-! ## The calendar (chapter 11) -/

/-- Cycles since the calendar of a channel started. -/
def State.calCycle (s : State) (c : Ch) : Nat := (s.now - (s.chan c).calStart) / 12
/-- The type code of slot `i` in the table that starts at register `base` of a channel. -/
def State.slotCode (s : State) (c : Ch) (base i : Nat) : Nat := s.field (chR c (base + 4 * (i % 256 / 8))) (4 * (i % 8)) 4
/-- What the live calendar does in the cycle numbered `n` (R309, R311). The pass that ends IDLE uses every slot that is no SCRUB
slot (R348); before it, a job still uses its MIG slots in IDLE (Table 13.4, log entry 39). -/
def State.liveSlot (s : State) (c : Ch) (n : Nat) : Nat :=
  let code := s.slotCode c 0x6000 n
  match (s.chan c).power with
  | .on => code
  | .idle => if code = 2 then 2 else if (s.chan c).maint.resume then 3 else if code = 4 then 4 else 5
  | _ => 5
/-- The first of the 256 next cycles, from cycle `n` on, whose slot has type `ty`. -/
def State.nextSlot (s : State) (c : Ch) (ty n : Nat) : Option Nat :=
  ((List.range 256).map (n + ·)).find? (fun i => s.liveSlot c i == ty)
/-- The time at which cycle `n` of a channel's calendar begins. -/
def State.cycleTime (s : State) (c : Ch) (n : Nat) : Nat := (s.chan c).calStart + 12 * n
/-- The first cycle from `from_` on that a command of the calendar may take: one slot serves one command. -/
def State.freeCycle (s : State) (c : Ch) (from_ : Nat) : Nat :=
  match (s.chan c).lastSlot with
  | none => from_
  | some l => max from_ (l + 1)
/-- The first calendar cycle that begins at or after a time. -/
def State.cycleAt (s : State) (c : Ch) (t : Nat) : Nat := (t - (s.chan c).calStart + 11) / 12
/-- The next unused slot of a type, at or after now. -/
def State.takeSlot (s : State) (c : Ch) (ty : Nat) : Option Nat := s.nextSlot c ty (s.freeCycle c (s.cycleAt c s.now))
/-- A slot is used: the clock stands at its cycle. -/
def State.useSlot (s : State) (c : Ch) (n : Nat) : State :=
  (s.atTime (s.cycleTime c n)).modChan c (fun x => { x with lastSlot := some n })
/-- The first wrap (slot 0) at least `d` cycles after now. -/
def State.wrapAfter (s : State) (c : Ch) (d : Nat) : Nat := s.cycleTime c (roundUp (s.cycleAt c s.now + d) 256)
/-- SEARCH slots among `n` cycles from cycle `i` on. -/
def State.searchSlots (s : State) (c : Ch) (i n : Nat) : Nat :=
  ((List.range n).filter (fun j => s.liveSlot c (i + j) == 0)).length
/-- The revolution within the tide period. -/
def State.tidePos (s : State) (c : Ch) : Nat := (s.now - (s.chan c).tideStart) / nsT 256

/-! ## Memories of a channel -/

/-- Key of a word of the array. -/
def wordKey (bank block word : Nat) : Nat := (bank * 33 + block) * 4096 + word
/-- Key of an AD pair. -/
def pairKey (bank block pair : Nat) : Nat := (bank * 33 + block) * 2048 + pair
/-- An erased word: all zero (R30), with the zero checks of a zero message (R38). -/
def emptyWord : WordCell := ⟨0, 0, 0, 0, 0, 0, false⟩
/-- An erased range unit. -/
def emptyUnit : UnitCell := ⟨⟨0, 0, 0, false⟩, ⟨0, 0, 0, false⟩, ⟨0, 0, 0, false⟩⟩
/-- Bitwise majority of three copies (R37). -/
def maj {n : Nat} (a b c : BitVec n) : BitVec n := (a &&& b) ||| (a &&& c) ||| (b &&& c)
/-- A word of the array. -/
def ArrayMem.word (a : ArrayMem) (k : Nat) : WordCell := sget (fun _ => emptyWord) a.words k
/-- Store a word. -/
def ArrayMem.setWord (a : ArrayMem) (k : Nat) (w : WordCell) : ArrayMem := { a with words := sset (fun _ => emptyWord) a.words k w }
/-- The three copies of a range unit. -/
def ArrayMem.unit3 (a : ArrayMem) (k : Nat) : UnitCell := sget (fun _ => emptyUnit) a.units k
/-- Store a range unit. -/
def ArrayMem.setUnit3 (a : ArrayMem) (k : Nat) (u : UnitCell) : ArrayMem := { a with units := sset (fun _ => emptyUnit) a.units k u }
/-- An AD pair. -/
def ArrayMem.adPair (a : ArrayMem) (k : Nat) : AdCell := sget (fun _ => ⟨0, 0⟩) a.ads k
/-- Store an AD pair. -/
def ArrayMem.setAdPair (a : ArrayMem) (k : Nat) (v : AdCell) : ArrayMem := { a with ads := sset (fun _ => ⟨0, 0⟩) a.ads k v }
/-- The ECF in effect: the bitwise majority of the copies (R37). -/
def WordCell.ecf (w : WordCell) : BitVec 24 := maj w.ecf0 w.ecf1 w.ecf2
/-- The range unit in effect: the bitwise majority of the copies (R57). -/
def UnitCell.eff (u : UnitCell) : RangeUnit :=
  { lo := maj u.u0.lo u.u1.lo u.u2.lo, hi := maj u.u0.hi u.u1.hi u.u2.hi, lane := maj u.u0.lane u.u1.lane u.u2.lane,
    en := (u.u0.en && u.u1.en) || (u.u0.en && u.u2.en) || (u.u1.en && u.u2.en) }
/-- A unit written in its three copies. -/
def unit3 (u : RangeUnit) : UnitCell := ⟨u, u, u⟩
/-- A word with fresh checks and its ECF in three copies (R37, R38, R45). -/
def mkWord (data mask : BitVec 80) (ecf : BitVec 24) : WordCell :=
  ⟨data, mask, ecf, ecf, ecf, rsChecks (toBytes 10 data.toNat ++ toBytes 10 mask.toNat), false⟩
/-- An AD pair with fresh checks (R81, R82). -/
def mkAd (ad : BitVec 64) : AdCell := ⟨ad, rsChecks (toBytes 8 ad.toNat)⟩
/-- A unit of HBM; what an unlisted one reads as: zero (R30; log entry 9). -/
def Chan.hbmSlot (x : Chan) (i : Nat) : HbmSlot := sget (fun _ => ⟨0, 0⟩) x.hbm i
/-- Store a unit of HBM. -/
def Chan.setHbm (x : Chan) (i : Nat) (v : HbmSlot) : Chan := { x with hbm := sset (fun _ => ⟨0, 0⟩) x.hbm i v }
/-- The sideband of a record: two fresh codeword checks, then byte 6 and its copy (Table 05.3). -/
def mkSb (data : BitVec 512) (b6 : BitVec 8) : BitVec 64 :=
  let l := toBytes 64 data.toNat
  BitVec.ofNat 64 (((((rsChecks (l.take 32)).toNat * 2 ^ 24 + (rsChecks (l.drop 32)).toNat) * 256 + b6.toNat) * 256) + b6.toNat)
/-- A 64-byte unit with fresh checks and bytes 6 and 7 zero (R130, R253). -/
def mkUnit64 (data : BitVec 512) : HbmSlot := ⟨data, mkSb data 0⟩
/-- What decoding both codewords of a 64-byte unit gives: the data as delivered, symbols corrected, and the
first uncorrectable codeword, if any (R161, R162). -/
def decode64 (data : BitVec 512) (sb : BitVec 64) : BitVec 512 × Nat × Option Nat :=
  let l := toBytes 64 data.toNat
  let r0 := rsDecode (l.take 32) (sb.extractLsb' 40 24)
  let r1 := rsDecode (l.drop 32) (sb.extractLsb' 16 24)
  let m0 := match r0 with | .corrected m => m | _ => l.take 32
  let m1 := match r1 with | .corrected m => m | _ => l.drop 32
  let n := (match r0 with | .corrected _ => 1 | _ => 0) + (match r1 with | .corrected _ => 1 | _ => 0)
  let bad := match r0, r1 with
    | .uncorrectable, _ => some 0
    | _, .uncorrectable => some 1
    | _, _ => none
  (BitVec.ofNat 512 (ofBytes (m0 ++ m1)), n, bad)

end Sys2Proof.Machine
end

