-- ==== Sys2Proof/Machine/Flags.lean ====
section
/-! DEFINITION. The status flags of the block: event sources, their pending bits, the once-per-tide-period rule, and
the event record queue (R456 to R462). -/

namespace Sys2Proof.Machine

/-- Source number of offset `o` of channel `c` (R456). -/
def chSrc (c : Ch) (o : Nat) : Nat := 256 + 480 * c.val + o

/-- Offsets of channel sources raised at most once per tide period. -/
def onceOffsets : List Nat :=
  [8, 19, 20, 21, 22, 23, 24, 65, 66, 70, 128, 131, 195, 196, 199, 203, 256, 257, 293, 324, 352, 353, 355, 385, 386, 387,
    416]
/-- Module sources raised at most once per tide period. -/
def onceModule : List Nat := [5, 35, 36, 38, 39, 68, 69, 96, 97, 98, 137, 192, 194, 198]

/-- Whether a source is raised at most once per tide period (R458). -/
def isOnce (src : Nat) : Bool :=
  if src < 256 then onceModule.contains src else onceOffsets.contains ((src - 256) % 480)

/-- Register key and bit of a source in a bit register array at `mb` (module) or `cb` (channel). -/
def evtBit (src mb cb : Nat) : Nat × Nat :=
  if src < 256 then (modR (mb + 4 * (src / 32)), src % 32)
  else
    let o := (src - 256) % 480
    (regKey (1 + (src - 256) / 480) false (cb + 4 * (o / 32)), o % 32)

/-- Put a record in a queue: behind all records, but before those of the same cycle that have a higher source number; ESEQ
numbers follow the queue (R461). -/
def enqueue (q : List EventRec) (r : EventRec) : List EventRec :=
  let later (e : EventRec) : Bool := e.at_ == r.at_ && decide (r.source < e.source) && e.source != 196
  let tail := (q.reverse.takeWhile later).reverse
  let pre := q.take (q.length - tail.length)
  match tail with
  | [] => q ++ [r]
  | e :: _ => pre ++ { r with eseq := e.eseq } :: tail.map (fun e => { e with eseq := (e.eseq + 1) % 65536 })

/-- Put a record in the queue, or drop the last of its cycle (R461, R462). While the host link is down the record takes its ESEQ
and is discarded (R387, R461). -/
def State.queueEvent (s : State) (src info : Nat) : State :=
  let q := enqueue s.ev.queue ⟨s.ev.eseq, info % 2 ^ 20, src, s.time.seconds, s.time.nanos, s.now⟩
  if !s.host.isUp then { s.count (modR 0x4200) 1 with ev := { s.ev with eseq := (s.ev.eseq + 1) % 65536 } }
  else if 1024 ≤ s.ev.queue.length ∨ s.ev.ovf then
    { s.count (modR 0x4204) 1 with
      ev := { s.ev with queue := q.take s.ev.queue.length, ovf := true, dropped := min (s.ev.dropped + 1) 0xFFFFF } }
  else
    { s.count (modR 0x4200) 1 with ev := { s.ev with queue := q, eseq := (s.ev.eseq + 1) % 65536 } }

/-- Queue the overflow record once an entry is free and FRAME_EN is set (R462). While the host link is down it is discarded, as
other records are (R387, R461). -/
def State.overflowRecord (s : State) : State :=
  if s.ev.ovf ∧ s.ev.queue.length < 1024 ∧ s.bit (modR 0x4100) 0 then
    let s := s.setB (evtBit 196 0x4000 0xB000).1 (196 % 32) true
    let r : EventRec := ⟨s.ev.eseq, s.ev.dropped, 196, s.time.seconds, s.time.nanos, s.now⟩
    { s.count (modR 0x4200) 1 with
      ev := { s.ev with
        queue := if s.host.isUp then s.ev.queue ++ [r] else s.ev.queue
        eseq := (s.ev.eseq + 1) % 65536, ovf := false, dropped := 0 } }
  else s

/-- A raise that is not suppressed: the pending bit, and a record when the source is enabled (R457, R459). -/
def State.raiseNow (s : State) (src info : Nat) : State :=
  let p := evtBit src 0x4000 0xB000
  let f := evtBit src 0x4080 0xB080
  let s := s.setB p.1 p.2 true
  if s.bit (modR 0x4100) 0 ∧ s.bit f.1 f.2 then s.queueEvent src info else s

/-- Raise a source (R457 to R460). -/
def State.raise (s : State) (src info : Nat) : State :=
  if isOnce src then
    let p := sget (fun _ => (0, 0)) s.ev.seen src
    let s' := { s with ev := { s.ev with seen := sset (fun _ => (0, 0)) s.ev.seen src (p.1 + 1, p.2) } }
    if p.1 = 0 then s'.raiseNow src (min p.2 0xFFFFF)
    else if src < 256 then s'.count (modR 0x4208) 1
    else s'.count (regKey (1 + (src - 256) / 480) false 0xB200) 1
  else s.raiseNow src info

/-- Raise a module source. -/
def State.evM (s : State) (src : Nat) (info : Nat := 0) : State := s.raise src info

/-- Raise offset `o` of channel `c`. A raise of the logic die is lost while the die-to-die link is down; offsets 448
to 479 are raised in the base die (R459). -/
def State.evC (s : State) (c : Ch) (o : Nat) (info : Nat := 0) : State :=
  if (s.chan c).causes.getLsbD 0 && decide (o < 448) then s else s.raise (chSrc c o) info

/-- Raise a channel source when a condition holds. -/
def State.evCIf (s : State) (p : Bool) (c : Ch) (o : Nat) (info : Nat := 0) : State := if p then s.evC c o info else s
/-- Raise a module source when a condition holds. -/
def State.evMIf (s : State) (p : Bool) (src : Nat) (info : Nat := 0) : State := if p then s.evM src info else s

/-- A new tide period begins for the sources that `mine` names: their counts become those of the previous period
(R458, R460). -/
def State.newPeriod (s : State) (mine : Nat → Bool) : State :=
  let seen := s.ev.seen.filterMap (fun p =>
    if mine p.1 then (if p.2.1 = 0 then none else some (p.1, (0, p.2.1))) else some p)
  { s with ev := { s.ev with seen := seen } }

/-- Sources of channel `c`. -/
def isChanSrc (c : Ch) (src : Nat) : Bool := decide (256 ≤ src) && decide ((src - 256) / 480 = c.val)

/-- INFO of a block (Table 18.1). -/
def blockInfo (bank block : Nat) : Nat := bank * 64 + block

end Sys2Proof.Machine
end

