-- ==== Sys2Proof/Machine/Operands.lean ====
section
/-! DEFINITION. Operand forms: the frames of chapter 15, the images of chapters 02 and 03, the fields of a profile
body (chapter 04), of a flow record (chapter 05) and of a request key (R101 to R106). -/

namespace Sys2Proof.Machine

/-! ## Frames from the host -/

/-- Length in bytes of a key by KLEN or KEY_LEN (Table 15.2). -/
def keyBytes (code : Nat) : Nat := match code with | 0 => 10 | 1 => 20 | 2 => 40 | _ => 80

/-- The SEARCH header (Table 15.2). -/
def searchHead (f : SearchFrame) : BitVec 64 :=
  (0x10#8) ++ BitVec.ofNat 3 f.hf ++ BitVec.ofNat 2 f.ch ++ BitVec.ofNat 6 f.profile ++ BitVec.ofNat 6 f.domain
    ++ f.klen ++ f.pstat ++ BitVec.ofBool f.pinValid ++ f.tag ++ f.pin

/-- The bytes of a SEARCH frame (R396). -/
def searchBytes (f : SearchFrame) : List Byte :=
  toBytes 8 (searchHead f).toNat ++ toBytes (keyBytes f.klen.toNat) f.key.toNat

/-- The CANCEL frame (Table 15.3). -/
def cancelBytes (hf : Hf) (tag : BitVec 16) : List Byte :=
  toBytes 8 (0x11 * 2 ^ 56 + hf.val * 2 ^ 53 + tag.toNat * 2 ^ 16)

/-- Length in bytes of a frame of VC0 or VC2 from its first 4 bytes, for the opcodes of Table 15.1. -/
def rxFrameLen (vc : Nat) (l : List Byte) : Option Nat :=
  let w := bytesAt l 0 8
  match vc, bytesAt l 0 1 with
  | 0, 0x10 => some (8 + keyBytes (natBits w 37 2))
  | 0, 0x11 => some 8
  | 2, 0x20 => some 8
  | 2, 0x21 => some 12
  | 2, 0x22 => some (8 + 4 * natBits w 15 7)
  | 2, 0x23 => some (8 + 64 * (natBits w 28 4 + 1))
  | 2, 0x24 => some 8
  | 2, 0x25 => some (8 + 32 * (natBits w 27 5 + 1))
  | 2, 0x26 => some 8
  | _, _ => none

/-- A COMPLETION frame (Table 15.9). -/
def completionBytes (hf : Hf) (fstat : Nat) (rtag : BitVec 16) (fopc : Nat) (data : List Byte) : List Byte :=
  toBytes 8 (0x30 * 2 ^ 56 + hf.val * 2 ^ 53 + fstat * 2 ^ 49 + rtag.toNat * 2 ^ 32 + fopc * 2 ^ 24 + data.length) ++ data

/-- An MBX_RESPONSE frame (Table 15.11) around a response. -/
def mbxResponseBytes (hf : Nat) (c : Ch) (mbx : Nat) (resp : List Byte) : List Byte :=
  toBytes 8 (0x31 * 2 ^ 56 + hf * 2 ^ 53 + c.val * 2 ^ 51 + mbx * 2 ^ 47 + resp.length) ++ resp

/-- An EVENT frame (Table 15.12). -/
def eventBytes (r : EventRec) : List Byte :=
  toBytes 8 (0x40 * 2 ^ 56 + r.eseq * 2 ^ 32 + r.info * 2 ^ 12 + r.source) ++ toBytes 4 r.seconds ++ toBytes 4 r.nanos

/-- A FLOW_EXPORT frame (Table 15.12) of one or two records. -/
def exportBytes (c : Ch) (ft : Nat) (xseq tick : Nat) (recs : List (BitVec 512)) : List Byte :=
  toBytes 8 (0x41 * 2 ^ 56 + c.val * 2 ^ 54 + ft * 2 ^ 50 + (if recs.length = 2 then 2 ^ 49 else 0) + xseq * 2 ^ 32 + tick)
    ++ (recs.map (fun r => toBytes 64 r.toNat)).flatten

/-! ## Results -/

/-- A lookup that misses, or is not performed (R92). -/
def missRec (degraded ext : Bool) : LookupRec :=
  { hit := false, degraded := degraded, adErr := false, extPresent := ext, extLate := false, extErr := false,
    prio := 0, index := 0x1FFFFFFF, ad := 0 }

/-- The 16 bytes of lookup record `k` (Table 03.4). -/
def lookupBytes (k : Nat) (r : LookupRec) : List Byte :=
  toBytes 4 (r.prio.toNat + b2n r.hit * 2 ^ 20 + b2n r.degraded * 2 ^ 21 + b2n r.adErr * 2 ^ 22 + b2n r.extPresent * 2 ^ 23
      + b2n r.extLate * 2 ^ 24 + b2n r.extErr * 2 ^ 25 + k * 2 ^ 26)
    ++ toBytes 4 r.index.toNat ++ toBytes 8 r.ad.toNat

/-- Code of a result status (Table 15.4). -/
def statusCode : RStatus → Nat
  | .ok => 0 | .parseReject => 1 | .denied => 2 | .cancelled => 3 | .channelDown => 4

/-- The 16 bytes of a flow part (Table 15.5). -/
def flowBytes (p : FlowPart) : List Byte :=
  toBytes 1 (p.fstatus.toNat * 16 + p.loc.toNat * 4) ++ toBytes 1 p.state.toNat ++ toBytes 6 0 ++ toBytes 8 p.action.toNat

/-- The 16 bytes of a snapshot (Table 15.6). -/
def snapBytes (p : FlowPart) : List Byte :=
  toBytes 5 p.pkt.toNat ++ toBytes 6 p.bytes.toNat ++ toBytes 4 p.lastSeen.toNat ++ [0]

/-- The RESULT header (Table 15.4). -/
def resultHead (hf : Hf) (dom : Fin 64) (tag : BitVec 16) (r : Result) : Nat :=
  0x18 * 2 ^ 56 + hf.val * 2 ^ 53 + statusCode r.status * 2 ^ 50 + r.recs.length * 2 ^ 47 + b2n r.flow.isSome * 2 ^ 46
    + b2n (r.flow.isSome && r.snap) * 2 ^ 45 + b2n (r.recs.any (·.degraded)) * 2 ^ 44 + b2n r.flowLate * 2 ^ 43
    + b2n r.learnFail * 2 ^ 42 + b2n r.epochRetired * 2 ^ 41 + b2n r.parseExc * 2 ^ 40 + b2n r.linkReplay * 2 ^ 39
    + b2n r.cancelledFlag * 2 ^ 38 + dom.val * 2 ^ 32 + tag.toNat * 2 ^ 16 + r.epochUsed.toNat

/-- The bytes of a RESULT frame (R398). -/
def resultBytes (hf : Hf) (dom : Fin 64) (tag : BitVec 16) (r : Result) : List Byte :=
  toBytes 8 (resultHead hf dom tag r)
    ++ (r.recs.zipIdx.map (fun p => lookupBytes p.2 p.1)).flatten
    ++ (match r.flow with
        | none => []
        | some p => flowBytes p ++ (if r.snap then snapBytes p else []))
    ++ (r.ext.map (fun e => toBytes 64 e.toNat)).flatten

/-- A result of a status other than OK: no content (R95, R399). -/
def bareResult (st : RStatus) : Result :=
  { status := st, recs := [], flow := none, snap := false, flowLate := false, learnFail := false, epochRetired := false,
    parseExc := false, linkReplay := false, cancelledFlag := st == .cancelled, epochUsed := 0, ext := [] }

/-- The flow part of work that did not run, was dropped or failed: every field but FSTATUS is 0 (Table 05.6). -/
def zeroPart (fstatus : BitVec 4) : FlowPart :=
  { fstatus := fstatus, loc := 0, state := 0, action := 0, pkt := 0, bytes := 0, lastSeen := 0 }

/-! ## Profile bodies (Tables 04.7 to 04.15) -/

/-- The reset body: PB_PARSE is 0x29, the rest 0. -/
def resetBody : List Word := [0, 0x29] ++ List.replicate 94 0
/-- Word `i` of a body. -/
def pw (b : List Word) (i : Nat) : Word := b.getD i 0
/-- NLOOK. -/
def pbNlook (b : List Word) : Nat := fld (pw b 0) 0 3
/-- Word of PB_FLOW. -/
def pbFlow (b : List Word) : Word := pw b 6
/-- FLOW_OP. -/
def pbFlowOp (b : List Word) : Nat := fld (pbFlow b) 0 3
/-- Lookup descriptor `k`. -/
def pbLd (b : List Word) (k : Nat) : Word := pw b (8 + k)
/-- TABLE of lookup `k`. -/
def ldTable (b : List Word) (k : Nat) : Nat := fld (pbLd b k) 0 8
/-- STAGE of lookup `k`. -/
def ldStage (b : List Word) (k : Nat) : Nat := fld (pbLd b k) 8 2
/-- EXT_AD of lookup `k`. -/
def ldExt (b : List Word) (k : Nat) : Bool := wbit (pbLd b k) 10
/-- Key map of lookup `k`: 16 extracts. -/
def pbKm (b : List Word) (k : Nat) : List Word := (b.drop (16 + 16 * k)).take 16
/-- The flow key map. -/
def pbFkm (b : List Word) : List Word := (b.drop 80).take 16
/-- SRC of an extract. -/
def exSrc (e : Word) : Nat := fld e 26 3
/-- The lookups whose AD a key map reads. -/
def kmDeps (km : List Word) : List Nat := (km.filter (fun e => decide (4 ≤ exSrc e))).map (fun e => exSrc e - 4)
/-- The number of stages S (R111). -/
def pbStages (b : List Word) : Nat := if pbNlook b = 0 then 1 else ldStage b (pbNlook b - 1) + 1
/-- Whether a profile has flow work or extended AD reads. -/
def pbSlow (b : List Word) : Bool :=
  pbFlowOp b != 0 || (List.range (pbNlook b)).any (fun k => ldExt b k)
/-- The effective L_NS (R175). -/
def pbLns (b : List Word) : Nat :=
  let l := fld (pw b 0) 9 11
  if l = 0 then (if pbSlow b then 650 else 130) else l
/-- REL_MODE is ordered-early. -/
def pbEarly (b : List Word) : Bool := wbit (pw b 0) 8
/-- SEARCH slots of a profile (R113). -/
def pbSlots (b : List Word) : Nat := pbStages b

/-- Whether a field of the body holds a value that its table marks invalid (R111). -/
def pbFieldsOk (b : List Word) : Bool :=
  decide (pbNlook b ≤ 4) && decide (pbFlowOp b ≤ 5) && decide (fld (pbFlow b) 9 2 ≠ 3)
    && (b.drop 16).all (fun e => exSrc e != 3)

/-- A profile body is valid (R111). -/
def pbValid (b : List Word) : Bool :=
  let n := pbNlook b
  pbFieldsOk b && !(n == 0 && pbFlowOp b == 0)
    && ((List.range n).map (ldTable b)).Nodup
    && (n == 0 || ldStage b 0 == 0)
    && (List.range (n - 1)).all (fun k => ldStage b (k + 1) == ldStage b k || ldStage b (k + 1) == ldStage b k + 1)
    && (List.range n).all (fun k => (kmDeps (pbKm b k)).all (fun m => decide (m < n) && decide (ldStage b m < ldStage b k)))
    && (pbFlowOp b == 0 || (kmDeps (pbFkm b)).all (fun m => decide (m < n)))
    && (fld (pbFlow b) 9 2 == 0 || decide (fld (pbFlow b) 11 2 < n))
    && (pbEarly b || decide (128 + 86 * (pbStages b - 1) ≤ pbLns b))

/-- The tables that searches of a profile can reach (R121). -/
def pbTables (b : List Word) : List Nat :=
  (List.range (min (pbNlook b) 4)).map (ldTable b) ++ (if wbit (pw b 1) 16 then [fld (pw b 1) 8 8] else [])

/-! ## Keys (R101 to R106) -/

/-- The request key as the profile sees it: the low 8 × KEY_LEN bits of what arrived (R102). -/
def effKey (f : SearchFrame) (keyLen : Nat) : Nat :=
  natBits f.key.toNat 0 (8 * min (keyBytes f.klen.toNat) (keyBytes keyLen))

/-- Source bits `lo` to `lo + n - 1` of an extract source (R104, R105). -/
def srcBits (src rkey const : Nat) (ad : Nat → Nat) (lo n : Nat) : Nat :=
  if src = 1 then natBits rkey lo n
  else if src = 2 then natBits const lo n
  else if 4 ≤ src then natBits (ad (src - 4)) lo n else 0

/-- Overwrite `n` bits of a number at bit `lo`. -/
def overwrite (v lo n x : Nat) : Nat :=
  v - natBits v lo n * 2 ^ lo + (x % 2 ^ n) * 2 ^ lo

/-- A lookup key of width `w` bits (R103, R104): identity copy, then extracts 0 to 15 in order. -/
def formKey (w : Nat) (ident : Bool) (km : List Word) (rkey const : Nat) (ad : Nat → Nat) : Nat :=
  km.foldl (fun key e =>
      if exSrc e = 0 then key
      else
        let n := fld e 20 6 + 1
        overwrite key (fld e 10 10) n (srcBits (exSrc e) rkey const ad (fld e 0 10) n) % 2 ^ w)
    (if ident then rkey % 2 ^ w else 0)

/-- The four lane values (R106). -/
def lanesOf (b : List Word) (rkey : Nat) : List Nat :=
  let one (w : Word) (lo : Nat) : Nat := if wbit w (lo + 10) then natBits rkey (fld w lo 10) 16 else 0
  [one (pw b 2) 0, one (pw b 2) 16, one (pw b 3) 0, one (pw b 3) 16]

/-- PB_CONST. -/
def pbConst (b : List Word) : Nat := (pw b 5).toNat * 2 ^ 32 + (pw b 4).toNat

/-! ## Images (Tables 02.4 and 02.7) -/

/-- A word from its 24-byte image (R45). -/
def wordOfImage (l : List Byte) : WordCell :=
  mkWord (BitVec.ofNat 80 (bytesAt l 0 10)) (BitVec.ofNat 80 (bytesAt l 10 10)) (BitVec.ofNat 24 (bytesAt l 20 3))

/-- The 24-byte image of a word (R45). -/
def wordImage (w : WordCell) : List Byte :=
  toBytes 10 w.data.toNat ++ toBytes 10 w.mask.toNat ++ toBytes 3 w.ecf.toNat ++ [0]

/-- The two units of a 12-byte range image (R55). -/
def unitsOfImage (l : List Byte) : RangeUnit × RangeUnit :=
  let b := bytesAt l 8 1
  (⟨BitVec.ofNat 16 (bytesAt l 0 2), BitVec.ofNat 16 (bytesAt l 2 2), BitVec.ofNat 2 (b / 2), b % 2 = 1⟩,
   ⟨BitVec.ofNat 16 (bytesAt l 4 2), BitVec.ofNat 16 (bytesAt l 6 2), BitVec.ofNat 2 (b / 32), b / 16 % 2 = 1⟩)

/-- The 12-byte range image of two units (R55). -/
def rangeImage (u v : RangeUnit) : List Byte :=
  toBytes 2 u.lo.toNat ++ toBytes 2 u.hi.toNat ++ toBytes 2 v.lo.toNat ++ toBytes 2 v.hi.toNat
    ++ toBytes 1 (b2n u.en + 2 * u.lane.toNat + 16 * b2n v.en + 32 * v.lane.toNat) ++ [0, 0, 0]

/-- VALID, E0, E1 and PRIORITY of an ECF (Table 02.2). -/
def ecfValid (e : BitVec 24) : Bool := e.getLsbD 0
/-- The epoch bit of slot `s`. -/
def ecfE (e : BitVec 24) (s : Nat) : Bool := e.getLsbD (1 + s)
/-- PRIORITY. -/
def ecfPrio (e : BitVec 24) : Nat := e.toNat / 16
/-- An ECF from its fields. -/
def mkEcf (valid e0 e1 : Bool) (prio : Nat) : BitVec 24 := BitVec.ofNat 24 (b2n valid + 2 * b2n e0 + 4 * b2n e1 + 16 * prio)

/-- The global word index (Table 03.1). -/
def globalIndex (pos ch bank block word : Nat) : BitVec 29 :=
  BitVec.ofNat 29 (pos * 2 ^ 26 + ch * 2 ^ 24 + bank * 2 ^ 18 + block * 2 ^ 12 + word)

/-! ## Flow records (Table 05.2) -/

/-- KEY field. -/
def frKey (d : BitVec 512) : Nat := natBits d.toNat 192 320
/-- PKT_CNT. -/
def frPkt (d : BitVec 512) : Nat := natBits d.toNat 152 40
/-- BYTE_CNT. -/
def frBytes (d : BitVec 512) : Nat := natBits d.toNat 104 48
/-- LAST_SEEN. -/
def frSeen (d : BitVec 512) : Nat := natBits d.toNat 72 32
/-- STATE. -/
def frState (d : BitVec 512) : Nat := natBits d.toNat 64 8
/-- ACTION. -/
def frAction (d : BitVec 512) : Nat := natBits d.toNat 0 64
/-- A record from its fields. -/
def mkFlow (key pkt bytes seen state action : Nat) : BitVec 512 :=
  BitVec.ofNat 512 (key % 2 ^ 320 * 2 ^ 192 + min pkt (2 ^ 40 - 1) * 2 ^ 152 + min bytes (2 ^ 48 - 1) * 2 ^ 104
    + seen % 2 ^ 32 * 2 ^ 72 + state % 256 * 2 ^ 64 + action % 2 ^ 64)
/-- Sideband byte 6 from OCC, AGE_CLASS and STATIC (Table 05.3). -/
def mkB6 (occ ageClass : Nat) (isStatic : Bool) : BitVec 8 :=
  BitVec.ofNat 8 (occ + 4 * ageClass + 32 * b2n isStatic)
/-- OCC, AGE_CLASS and STATIC of a sideband. -/
def sbOcc (sb : BitVec 64) : Nat := natBits sb.toNat 8 2
/-- AGE_CLASS. -/
def sbAge (sb : BitVec 64) : Nat := natBits sb.toNat 10 3
/-- STATIC. -/
def sbStatic (sb : BitVec 64) : Bool := sb.getLsbD 13
/-- Byte 7 equals byte 6 (R163). -/
def sbAgrees (sb : BitVec 64) : Bool := natBits sb.toNat 0 8 == natBits sb.toNat 8 8

end Sys2Proof.Machine
end

