-- ==== Sys2Proof/Machine/Array.lean ====
section
/-! DEFINITION. The ternary array: block map, tables, excluded blocks, the match predicate (R59) and priority
resolution (R73 to R77). -/

namespace Sys2Proof.Machine

/-- BLKMAP entry. -/
def blkR (c : Ch) (bank block : Nat) : Nat := chI c (0x100000 + 0x100 * bank + 4 * block)
/-- TBL_CFG entry. -/
def tblR (c : Ch) (t : Nat) : Nat := chR c (0x1400 + 4 * t)
/-- BLK_CAL entry. -/
def calR (c : Ch) (bank block : Nat) : Nat := chI c (0x500000 + 0x100 * bank + 4 * block)
/-- BLK_SCRUB entry. -/
def scrubR (c : Ch) (bank block : Nat) : Nat := chI c (0x400000 + 0x100 * bank + 4 * block)
/-- TABLE of a BLKMAP word. -/
def bmTable (w : Word) : Nat := fld w 3 8
/-- WIDTH of a BLKMAP word. -/
def bmWidth (w : Word) : Nat := fld w 1 2

/-- The allocated blocks of a channel, as (bank, block, BLKMAP word), in ascending order: EN is clear at reset, so
every one of them is listed in the register store. -/
def State.allocBlocks (s : State) (c : Ch) : List (Nat × Nat × Word) :=
  s.regs.filterMap (fun p =>
    if chI c 0x100000 ≤ p.1 ∧ p.1 < chI c 0x102400 ∧ wbit p.2 0 then
      (blkIdx (p.1 % 2 ^ 24) 0x100000).map (fun q => (q.1, q.2, p.2))
    else none)

/-- The allocated blocks of a table. -/
def State.tableBlocks (s : State) (c : Ch) (t : Nat) : List (Nat × Nat × Word) :=
  (s.allocBlocks c).filter (fun q => bmTable q.2.2 == t)

/-- An enabled block is invalid (R65). -/
def State.blkInvalid (s : State) (c : Ch) (bank block : Nat) (w : Word) : Bool :=
  let t := s.reg (tblR c (bmTable w))
  !wbit t 0 || bmWidth w != fld t 1 2 || !wbit t (3 + bank / 9) || (decide (24 ≤ block) && decide (block ≤ 31) && bmWidth w == 0)

/-- Some word of the block is poisoned (R328, Table 02.9). -/
def ArrayMem.blkPoisoned (a : ArrayMem) (bank block : Nat) : Bool :=
  a.words.any (fun p => p.1 / 4096 == bank * 33 + block && p.2.poison)

/-- An allocated block is excluded: some cause of Table 02.9 is present (R67). -/
def State.blkExcluded (s : State) (c : Ch) (bank block : Nat) (w : Word) : Bool :=
  s.parity.contains (blkR c bank block) || s.parity.contains (tblR c (bmTable w)) || s.parity.contains (chR c 0x1000)
    || s.blkInvalid c bank block w || s.bit (calR c bank block) 22 || (s.chan c).arr.blkPoisoned bank block

/-- EXCL of a block; 0 for an unallocated one (R67). -/
def State.excl (s : State) (c : Ch) (bank block : Nat) : Bool :=
  let w := s.reg (blkR c bank block)
  wbit w 0 && s.blkExcluded c bank block w

/-- TBL_CFG.DEGRADED: a block of the table is excluded. -/
def State.tblDegraded (s : State) (c : Ch) (t : Nat) : Bool :=
  (s.tableBlocks c t).any (fun q => s.blkExcluded c q.1 q.2.1 q.2.2)

/-- The events of R72 and R100 for what changed between two states of a channel's blocks. -/
def State.blockEvents (old s : State) (c : Ch) : State :=
  let all := ((old.allocBlocks c) ++ (s.allocBlocks c)).map (fun q => (q.1, q.2.1))
  let inv (x : State) (q : Nat × Nat) : Bool :=
    let w := x.reg (blkR c q.1 q.2)
    wbit w 0 && x.blkInvalid c q.1 q.2 w
  let s' := all.dedup.foldl (fun acc q =>
    let e0 := old.excl c q.1 q.2
    let e1 := s.excl c q.1 q.2
    ((acc.evCIf (!e0 && e1) c 3 (blockInfo q.1 q.2)).evCIf (e0 && !e1) c 4 (blockInfo q.1 q.2)).evCIf
      (!inv old q && inv s q) c 5 (blockInfo q.1 q.2)) s
  (all.map (fun q => bmTable (s.reg (blkR c q.1 q.2)))).dedup.foldl (fun acc t =>
    acc.evCIf (!old.tblDegraded c t && s.tblDegraded c t) c 12 t) s'

/-! ## The match predicate (R59) -/

/-- Words per entry of a WIDTH code (Table 02.3). -/
def widthWords (w : Nat) : Nat := 2 ^ w

/-- One word matches 80 bits of the key (R33): every masked position holds the key's bit. -/
def wordMatches (w : WordCell) (key : BitVec 80) : Bool := (w.mask &&& (w.data ^^^ key)) == 0

/-- An enabled range unit matches (R53). -/
def unitMatches (u : RangeUnit) (lanes : List Nat) : Bool :=
  !u.en || (decide (u.lo.toNat ≤ lanes.getD u.lane.toNat 0) && decide (lanes.getD u.lane.toNat 0 ≤ u.hi.toNat))

/-- The conditions of R59 on an entry's own words and units; its block serves the lookup's table. -/
def entryMatches (a : ArrayMem) (bank block width e key : Nat) (lanes : List Nat) (slot : Nat) (range : Bool) : Bool :=
  let n := widthWords width
  let w0 := wordKey bank block (e * n)
  (List.range n).all (fun j => ecfValid (a.word (w0 + j)).ecf)
    && ecfE (a.word w0).ecf slot
    && (List.range n).all (fun j => wordMatches (a.word (w0 + j)) (BitVec.ofNat 80 (key >>> (80 * j))))
    && (!(range && decide (2 ≤ n)) || (List.range n).all (fun u => unitMatches (a.unit3 (w0 + u)).eff lanes))

/-- `a` wins over `b` (R73, R74), within one channel: index order is bank, block, word. -/
def Cand.beats (a b : Cand) : Bool :=
  if a.prio ≠ b.prio then decide (b.prio < a.prio)
  else decide (wordKey a.bank a.block a.word < wordKey b.bank b.block b.word)

/-- The first words of the entries of a block that have any word listed: an erased entry never matches (R42). -/
def ArrayMem.listedEntries (a : ArrayMem) (bank block width : Nat) : List Nat :=
  ((a.words.filter (fun p => p.1 / 4096 == bank * 33 + block)).map (fun p => p.1 % 4096 / widthWords width)).dedup

/-- The outcome of a near buoy with a key, from its content and key bits [79:0] (R335, R337). -/
def BuoyCell.nearMatches (b : BuoyCell) (key : Nat) : Bool := (b.nearMask &&& (b.nearData ^^^ BitVec.ofNat 80 key)) == 0

/-- What one block gives to a lookup: its winner, its number of matching entries, and its near buoy's due outcome (R77, R337,
R338). -/
def State.blockResult (s : State) (c : Ch) (bank block : Nat) (w : Word) (key : Nat) (lanes : List Nat) (slot : Nat) :
    BlockRes :=
  let a := (s.chan c).arr
  let es := (a.listedEntries bank block (bmWidth w)).filter
    (fun e => entryMatches a bank block (bmWidth w) e key lanes slot (decide (24 ≤ block)))
  { bank := bank, block := block, cnt := es.length
    near := (sget (fun _ => (⟨0, 0, 0, 0⟩ : BuoyCell)) a.buoys (bank * 33 + block)).nearMatches key
    win := bestBy Cand.beats (es.map (fun e =>
      let f := e * widthWords (bmWidth w)
      ⟨bank, block, f, ecfPrio (a.word (wordKey bank block f)).ecf, bmWidth w⟩)) }

/-- The block-local entry number of a block's winner; 0 on no hit (R338). -/
def BlockRes.winNo (b : BlockRes) : Nat := match b.win with | some a => a.word / widthWords a.width | none => 0

/-- The blocks precharged for a lookup of table `t`: enabled and not excluded (R68). -/
def State.liveBlocks (s : State) (c : Ch) (t : Nat) : List (Nat × Nat × Word) :=
  if s.bit (chR c 0x1000) 0 && s.bit (tblR c t) 0 then
    (s.tableBlocks c t).filter (fun q => !s.blkExcluded c q.1 q.2.1 q.2.2)
  else []

/-- The block results of a lookup (R59, R68, R77). -/
def State.lookupBlocks (s : State) (c : Ch) (t key : Nat) (lanes : List Nat) (slot : Nat) : List BlockRes :=
  (s.liveBlocks c t).map (fun q => s.blockResult c q.1 q.2.1 q.2.2 key lanes slot)

/-- DEGRADED of a lookup at the start of its SEARCH slot (R96). -/
def State.lookupDegraded (s : State) (c : Ch) (t : Nat) : Bool :=
  !s.bit (chR c 0x1000) 0 || (s.bit (tblR c t) 0 && s.tblDegraded c t)

end Sys2Proof.Machine
end

