-- ==== Sys2Proof/Machine/Base.lean ====
section
/-! DEFINITION. What the base die does for every command: rights (R426 to R429), admission (R25), mirrors (R188),
completions (R402, R403), frames taken from the link, and the link-side queues. -/

namespace Sys2Proof.Machine

/-- A word of the HFAT; a register in its safe state has no rights (R427). -/
def State.hfat (s : State) (off : Nat) : Word := if s.parity.contains (modR off) then 0 else s.reg (modR off)
/-- Offset of the HFAT page of host function `h` and channel `c` (Table 16.6). -/
def hfatOff (h : Hf) (c : Ch) (o : Nat) : Nat := 0x7000 + 0x200 * h.val + 0x60 * c.val + o
/-- HFAT_SRCH bit of a table. -/
def State.maySearch (s : State) (h : Hf) (c : Ch) (t : Nat) : Bool := wbit (s.hfat (hfatOff h c (4 * (t / 32)))) (t % 32)
/-- HFAT_WRT bit of a table. -/
def State.mayWrite (s : State) (h : Hf) (c : Ch) (t : Nat) : Bool := wbit (s.hfat (hfatOff h c (0x20 + 4 * (t / 32)))) (t % 32)
/-- HFAT_FLOW bit of a flow table. -/
def State.mayFlow (s : State) (h : Hf) (c : Ch) (t : Nat) : Bool := wbit (s.hfat (hfatOff h c 0x40)) t
/-- HFAT_FLOW.MBX_A or MBX_B for a mailbox of the host function. -/
def State.mayMbx (s : State) (h : Hf) (c : Ch) (mbx : Nat) : Bool :=
  decide (mbx / 2 = h.val) && wbit (s.hfat (hfatOff h c 0x40)) (16 + mbx % 2)
/-- READ or WRITE bit of a block of a region (R428); a block that does not exist has no right bit and passes. -/
def State.mayReg (s : State) (h : Hf) (region blk : Nat) (write : Bool) : Bool :=
  let b := blk + (if write then 16 else 0)
  if region = 0 then
    (if 0xA < blk then true else wbit (s.hfat (0x7000 + 0x200 * h.val + 0x180)) b)
  else if 0xE < blk then true else wbit (s.hfat (hfatOff h (Fin.ofNat 4 (region - 1)) 0x44)) b
/-- SPAD_RD or SPAD_WR. -/
def State.maySpad (s : State) (h : Hf) (c : Ch) (write : Bool) : Bool := wbit (s.hfat (hfatOff h c 0x44)) (if write then 31 else 15)

/-- CH_STATUS.ADMIT (Table 01.13). -/
def State.admits (s : State) (c : Ch) : Bool :=
  s.bit (chR c 0x0004) 0 && (s.chan c).power == .on && (s.chan c).causes == 0

/-- Whether the searches of this host-link cycle are admitted: a write of ADMIT_EN in the cycle does not act yet (R26). -/
def State.admitsAt (s : State) (c : Ch) : Bool :=
  s.bitAt (chR c 0x0004) 0 && (s.chan c).power == .on && (s.chan c).causes == 0

/-- MIRROR_CH of a REL_MIRROR word of channel `c`, when redirection is enabled (Table 06.12). -/
def mirrorIn (c : Ch) (w : Word) : Option Ch :=
  let m : Ch := Fin.ofNat 4 (fld w 0 2)
  if wbit w 2 && m != c then some m else none

/-- REL_MIRROR of a channel: its mirror when redirection is enabled (Table 06.12). -/
def State.mirrorOf (s : State) (c : Ch) : Option Ch := mirrorIn c (s.reg (modR (0x2010 + 4 * c.val)))

/-- REL_MIRROR[c].ACTIVE. -/
def State.mirrorActive (s : State) (c : Ch) : Bool := !s.admits c && (s.mirrorOf c).isSome

/-- MIRROR_REDIRECT for every mirror that becomes active between two states (R192). -/
def State.mirrorEvents (old s : State) : State :=
  ([0, 1, 2, 3] : List Ch).foldl (fun acc c => acc.evMIf (!old.mirrorActive c && s.mirrorActive c) 99) s

/-- The channel that serves a search of this host-link cycle for channel `c` (R188): one step only. -/
def State.routeOf (s : State) (c : Ch) : Ch :=
  if s.admitsAt c then c else (mirrorIn c (s.regAt (modR (0x2010 + 4 * c.val)))).getD c

/-- A search for channel `c` has been routed to `run`: it counts when it was redirected, and MIRROR_UNAVAILABLE is raised when
the mirror does not admit either (R188, R192). -/
def State.noteRoute (s : State) (c run : Ch) : State :=
  let s := s.countIf (run != c && s.admitsAt run) (modR 0x2110)
  s.evMIf (run != c && !s.admitsAt run) 100

/-- The base die's copy of the reset body. -/
def BaseProfile.reset : BaseProfile := { enabled := false, slots := 1, early := false, lNs := 130, tables := [], flowTable := none, exts := [] }
/-- The base die's record of a profile (R429). -/
def State.baseProf (s : State) (c : Ch) (p : Nat) : BaseProfile := sget (fun _ => BaseProfile.reset) (s.chan c).profs p

/-- The HFAT check of a search at acceptance (R429). -/
def State.searchRight (s : State) (h : Hf) (c : Ch) (p : Nat) : Bool :=
  let r := s.baseProf c p
  !r.enabled || (r.tables.all (fun t => s.maySearch h c t) && (match r.flowTable with | none => true | some t => s.mayFlow h c t))

/-- Contexts of a channel reserved for group searches (R221). -/
def State.groupCtx (s : State) : Nat := min (s.field (modR 0x6004) 4 12) 2048
/-- CASC_CTRL.EN. -/
def State.cascEn (s : State) : Bool := s.bit (modR 0x6000) 0
/-- The cascade is in its safe state (R240). -/
def State.cascSafe (s : State) : Bool :=
  s.parity.any (fun k => k == modR 0x6000 || k == modR 0x6004 || (decide (modR 0x6010 ≤ k) && decide (k < modR 0x6030)))
/-- The module bypasses the group searches of this host-link cycle: BYPASS, or the safe state (R238, R240). -/
def State.bypassing (s : State) : Bool := s.bitAt (modR 0x6000) 1 || s.cascSafe
/-- The module takes part in a group: EN, or a safe state in which EN itself may have flipped (R240). -/
def State.cascOn (s : State) : Bool := s.cascEn || s.parity.contains (modR 0x6000)
/-- CASC_CFG.LAST. -/
def State.cascLast (s : State) : Nat := s.field (modR 0x6004) 0 3
/-- A profile is a group profile of a channel for the searches of this host-link cycle (R219). -/
def State.groupProfile (s : State) (c : Ch) (p : Nat) : Bool := s.bitAt (modR (0x6010 + 8 * c.val + 4 * (p / 32))) (p % 32)
/-- Contexts that group searches hold in a channel. -/
def Chan.groupCharges (x : Chan) : Nat := (x.charges.filter (·.group)).length
/-- CASC_INFLIGHT of a channel: at the head its group searches until their merged result is there (R221), elsewhere those that
the channel runs. -/
def State.groupInflight (s : State) (c : Ch) : Nat :=
  if s.casc.pos = 0 then (s.casc.parts.filter (fun p => p.ch == c)).length else (s.chan c).groupCharges

/-- Slots in the admission account A[c] (R383). -/
def Chan.account (x : Chan) : Nat := x.charges.foldl (fun a k => a + k.account) 0

/-- Change the charge of a search. -/
def Chan.modCharge (x : Chan) (gsn : Nat) (fwd : Bool) (f : Charge → Charge) : Chan :=
  { x with charges := modFirst (fun k => k.gsn == gsn && k.forwarded == fwd) f x.charges }

/-- Oldest slot account entry of a search leaves A[c] when a SEARCH slot of it starts. -/
def Charge.slotStarts (k : Charge) : Charge := { k with account := k.account - 1 }

/-- Insert into a sorted list without repeats. -/
def insertNat (a : Nat) : List Nat → List Nat
  | [] => [a]
  | b :: t => if a < b then a :: b :: t else if a = b then b :: t else b :: insertNat a t

/-! ## Frames of the host port -/

/-- Flits of a virtual channel whose bytes have all left its buffer (R379). -/
def LinkPort.freed (p : LinkPort) (vc : Nat) : Nat :=
  let kept := (p.rx.getD vc []).length
    + ((p.arrived.filter (fun a => a.vc == vc)).map (fun a => roundUp a.bytes.length 4)).foldl (· + ·) 0
  (60 * p.rcvd.getD vc 0 - kept) / 60

/-- The bits of a header that its table leaves reserved: the cascade header has 4 bytes (Table 08.1), the frames of VC0 and VC2
have 8 (Tables 15.2, 15.3, 15.7, 15.10, R407, R408). -/
def rsvBits (casc : Bool) (opc : Nat) : Nat :=
  if casc then 2 ^ 10 - 1
  else match opc with
  | 0x11 => (2 ^ 21 - 1) * 2 ^ 32 + (2 ^ 16 - 1)
  | 0x20 => 2 ^ 48
  | 0x21 => 2 ^ 48
  | 0x22 => 7 * 2 ^ 48 + (2 ^ 15 - 1)
  | 0x23 => 7 * 2 ^ 48 + (2 ^ 9 - 1)
  | 0x24 => 7 * 2 ^ 48 + (2 ^ 9 - 1)
  | 0x25 => (2 ^ 19 - 1) * 2 ^ 32 + (2 ^ 27 - 1)
  | 0x26 => (2 ^ 5 - 1) * 2 ^ 48
  | _ => 0

/-- A received frame with the reserved bits of its header read as 0: they are ignored (R391). -/
def clearRsv (casc : Bool) (b : List Byte) : List Byte :=
  let n := if casc then 4 else 8
  let w := ofBytes (b.take n)
  toBytes n (w - (w &&& rsvBits casc (bytesAt b 0 1))) ++ b.drop n

/-- Take the next whole frame that a port delivered on a virtual channel, when its bytes begin with `head`: the frame
leaves the buffer, which frees buffer credit, and its replay mark is given (R377, R379). Otherwise nothing is taken: a
frame's command stands for itself (log entry 6). -/
def LinkPort.take (p : LinkPort) (casc : Bool) (vc : Nat) (head : List Byte) : LinkPort × Option Arrived :=
  match p.arrived.find? (fun a => a.vc == vc) with
  | none => (p, none)
  | some a =>
    if (clearRsv casc a.bytes).take head.length == head then
      ({ p with arrived := dropFirst (fun b => b.vc == vc) p.arrived }, some a)
    else (p, none)

/-- A flit of the frame that was taken had been accepted after a NAK (R377). -/
def replayed (a : Option Arrived) : Bool := match a with | some a => a.replay | none => false

/-- Take a frame of the host port. -/
def State.takeFrame (s : State) (vc : Nat) (head : List Byte) : State × Option Arrived :=
  let r := s.host.take false vc head
  ({ s with host := r.1 }, r.2)

/-- The completion queue holds at most 256 completions (R403). -/
def State.completionRoom (s : State) : Bool := decide (s.egr.completions.length < 256)

/-- Queue a COMPLETION (R402, Table 15.9). While the link is down it is discarded (R387). -/
def State.complete (s : State) (hf : Hf) (target fstat : Nat) (rtag : BitVec 16) (fopc : Nat) (data : List Byte)
    (bell : Option (Nat × Nat) := none) : State :=
  let s := s.countIf (fstat != 0) (modR 0x1204)
  if !s.host.isUp then s else
  { s with egr := { s.egr with
      completions := s.egr.completions ++ [⟨hf, target, completionBytes hf fstat rtag fopc data, bell⟩] } }

/-- Keep the place of a completion that the slow domain has still to answer (R402, R424). -/
def State.reserveCompletion (s : State) (hf : Hf) (target : Nat) : State :=
  if !s.host.isUp then s else { s with egr := { s.egr with completions := s.egr.completions ++ [⟨hf, target, [], none⟩] } }

/-- The completion of an IND_DATA read takes its place in the queue. -/
def State.answerCompletion (s : State) (hf : Hf) (target : Nat) (bytes : List Byte) : State :=
  let l := modFirst (fun (k : Completion) => k.hf == hf && k.target == target && k.bytes.isEmpty) (fun k => { k with bytes := bytes }) s.egr.completions
  { s with egr := { s.egr with completions := l } }

/-- A result is handed to the egress arbiter (R177); 10 ns to the first flit (Table 01.4). While the link is down it is
discarded and counted (R387). -/
def State.queueResult (s : State) (dom : Nat) (bytes : List Byte) : State :=
  if !s.host.isUp then s.count (modR 0x1130) 1 else
  { s with egr := { s.egr with vc1 := s.egr.vc1 ++ [⟨dom, bytes, s.now + nsT 10⟩] } }

/-! ## Cascade ports as transmitters (R365 to R372, R388) -/

/-- A flit with its CRC (R369, R370). -/
def mkFlit (ty seq : Nat) (payload : List Byte) : BitVec 512 :=
  let b := toBytes 2 (ty * 2 ^ 13 + seq % 2 ^ 13) ++ padTo 60 payload
  BitVec.ofNat 512 (ofBytes b * 2 ^ 16 + (crc16 b).toNat)

/-- Send a data flit: it takes the next SEQ and one flit of buffer credit, and is kept until it is acknowledged
(R372, R379). -/
def LinkPort.sendData (p : LinkPort) (now vc : Nat) (bytes : List (Byte × Bool)) : LinkPort :=
  let marks := (bytes.zipIdx.filter (fun q => q.1.2)).map (·.2)
  { p with
    txNext := (p.txNext + 1) % 8192
    sent := p.sent.set vc (p.sent.getD vc 0 + 1)
    replayBuf := p.replayBuf ++ [⟨p.txNext, mkFlit vc p.txNext (bytes.map (·.1)), now, marks⟩] }

/-- A port may send a new data flit on a virtual channel: UP, inside the window, with credit (R372, R379). -/
def LinkPort.maySend (p : LinkPort) (vc : Nat) : Bool :=
  p.state == .up && decide (p.replayBuf.length < 4096) && decide (p.sent.getD vc 0 < p.hostCr.getD vc 0)

/-- A cascade port sends what its credit and window permit, at most `n` flits (R225, R372, R379, R393). -/
def LinkPort.pump (now : Nat) : Nat → LinkPort → LinkPort
  | 0, p => p
  | n + 1, p =>
    if p.txq.isEmpty || !p.maySend 0 then p
    else LinkPort.pump now n { p.sendData now 0 (p.txq.take 60) with txq := p.txq.drop 60 }

/-- A frame as stream bytes, padded to 4 (R392), with the first byte of its result header marked. -/
def streamOf (b : List Byte) (mark : Option Nat) : List (Byte × Bool) :=
  (padTo (roundUp b.length 4) b).zipIdx.map (fun p => (p.1, mark == some p.2))

/-- Queue a frame on a cascade port; it leaves as credit permits. -/
def LinkPort.queueFrame (p : LinkPort) (now : Nat) (b : List Byte) (mark : Option Nat) : LinkPort :=
  let q := { p with txq := p.txq ++ streamOf b mark }
  q.pump now (q.txq.length / 60 + 1)

/-- Queue a WASH frame on the upstream port: its result frame starts at byte 4. -/
def State.sendUp (s : State) (b : List Byte) : State := { s with up := s.up.queueFrame s.now b (some 4) }
/-- Queue a frame on the downstream port; it leaves from time `t` on. -/
def State.sendDn (s : State) (t : Nat) (b : List Byte) : State := { s with dn := s.dn.queueFrame t b none }

/-- A cascade header (Table 08.1). -/
def cascHeader (kind : Nat) (h : CascHdr) : List Byte :=
  toBytes 4 (kind * 2 ^ 30 + h.ch.val * 2 ^ 28 + h.gsn.toNat * 2 ^ 14 + h.pos.toNat * 2 ^ 11 + b2n h.missing * 2 ^ 10)

/-- Open a part for a group search (R226). -/
def State.openPart (s : State) (p : CascPart) : State :=
  { s with casc := { s.casc with
      parts := s.casc.parts ++ [p]
      substituted := s.casc.substituted.filter (fun g => g != p.gsn) } }

/-- Change the part of a group search. -/
def State.modPart (s : State) (gsn : Nat) (f : CascPart → CascPart) : State :=
  let ps := modFirst (fun (p : CascPart) => p.gsn == gsn) f s.casc.parts
  { s with casc := { s.casc with parts := ps } }

/-- An empty part (R227): a miss record for every lookup, and a flow part with TABLE_ERR when a position in `lost` owns
the flow. -/
def CascPart.empty (p : CascPart) (degraded : Bool) (lost : Nat → Bool) : Result :=
  { bareResult .ok with
    recs := p.exts.map (fun e => missRec degraded e), ext := (p.exts.filter id).map (fun _ => 0),
    flow := (match p.owner with | some o => if lost o then some (zeroPart 9) else none | none => none) }

/-- An empty part is substituted for all positions below (R239). -/
def State.substitute (s : State) (p : CascPart) : State :=
  let pos := s.casc.pos
  let e := p.empty true (fun o => decide (pos < o))
  let s := (s.count (modR 0x6104) 1).evM 68
  let s := s.modPart p.gsn (fun q => { q with below := some (e, true) })
  { s with casc := { s.casc with substituted := insertNat p.gsn s.casc.substituted } }

/-- An outcome whose next state is `s`. -/
abbrev Out := Host.Outcome State Fault Refusal

end Sys2Proof.Machine
end

