-- ==== Sys2Proof/Machine/Search.lean ====
section
/-! DEFINITION. The path of one search: SEARCH, ACCEPTANCE, CHANNEL_INGRESS, SEARCH_SLOT, LOOKUP_DONE,
EXT_AD_READ_DONE, RESULT_ASSEMBLY_DONE (chapters 01 to 06). -/

namespace Sys2Proof.Machine

/-! ## Arrival and acceptance -/

/-- Slot credits of a channel that no search waiting in VC0 has brought along. -/
def State.creditsLeft (s : State) (c : Ch) : Nat :=
  (s.chan c).slotOut - (s.vc0.map (fun v => match v with
    | .search f _ n => if f.ch = c then n else 0
    | .cancel _ _ => 0)).foldl (· + ·) 0

/-- SEARCH: the frame is queued for acceptance in arrival order (R396, R383). It brings the slot credits of its channel that its
profile's SLOTS needs (R380); one that it lacks is a violation when it arrives (R383). -/
def execSearch (f : SearchFrame) (s : State) : Out :=
  let r := s.takeFrame 0 (toBytes 8 (searchHead f).toNat)
  let s := r.1
  let need := (s.baseProf f.ch f.profile).slots
  let left := s.creditsLeft f.ch
  let s := (s.countIf (decide (left < need)) (modR 0x1124)).evMIf (decide (left < need)) 37
  let at_ := match r.2 with | some a => a.at_ | none => s.now
  .next { s with vc0 := s.vc0 ++ [.search { f with replay := f.replay || replayed r.2 } at_ (min left need)] }

/-- The lowest release record that is free. At the head a record whose number a part of a group search still carries is not
(R190, R226). -/
def State.freeRec? (s : State) : Option Nat :=
  (List.range 16384).find? (fun i => s.rels.all (fun r => r.gsn != i) && (s.casc.pos != 0 || s.casc.parts.all (fun p => p.gsn != i)))
/-- Its number. -/
def State.freeRec (s : State) : Nat := s.freeRec?.getD 0

/-- Key of an ordering domain (R172). -/
def domKey (hf : Hf) (dom : Fin 64) : Nat := hf.val * 64 + dom.val
/-- The release unit's counters of a domain. -/
def State.domain (s : State) (k : Nat) : DomainRec := sget (fun _ => ⟨0, 0, 0⟩) s.domains k
/-- Store them. -/
def State.setDomain (s : State) (k : Nat) (d : DomainRec) : State :=
  let m := sset (fun _ => (⟨0, 0, 0⟩ : DomainRec)) s.domains k d
  { s with domains := m }

/-- Open a release record (R173). REL_RECORDS_FULL is raised when it is the last free one. -/
def State.openRecord (s : State) (f : SearchFrame) (c : Ch) (early : Bool) (lNs : Nat) (group : Bool) (res : Option Result) :
    State :=
  let d := s.domain (domKey f.hf f.domain)
  let tagBusy := s.rels.any (fun r => r.hf == f.hf && r.tag == f.tag)
  let s := (s.countIf tagBusy (modR 0x2118)).evMIf tagBusy 96
  let r : RelRec :=
    { gsn := s.freeRec, hf := f.hf, dom := f.domain, seq := d.next, tag := f.tag, profile := f.profile,
      ch := c, acceptedAt := s.now, early := early, lNs := lNs, atAcceptance := res.isSome, group := group,
      replay := f.replay, result := res, completeAt := s.now }
  let s := s.setDomain (domKey f.hf f.domain) { d with next := d.next + 1 }
  let s : State := { s with rels := s.rels ++ [r], vc0 := s.vc0.drop 1 }
  s.evMIf (decide (s.rels.length = 16384)) 101

/-- The slot credits that an accepted search brought along stop being outstanding, and the group credit of a search whose
profile is a group profile of its channel (R380, R381). -/
def State.useCredits (s : State) (f : SearchFrame) (n : Nat) : State :=
  let g := b2n (s.cascOn && decide (s.casc.pos = 0) && s.groupProfile f.ch f.profile)
  s.modChan f.ch (fun x => { x with slotOut := x.slotOut - n, grpOut := x.grpOut - g })

/-- What decides whether the VC0 search at the head may be accepted now. -/
structure Accept where
  ch : Ch
  slots : Nat
  early : Bool
  lNs : Nat
  disabled : Bool
  group : Bool
  unfit : Bool
  status : Option RStatus

/-- PROF_CTRL.CFG_PARITY of a profile (R418). -/
def State.profParity (s : State) (c : Ch) (p : Nat) : Bool :=
  s.parity.any (fun k => decide (chI c (0x200000 + 0x400 * p) ≤ k) && decide (k < chI c (0x200000 + 0x400 * (p + 1))))

/-- Routing, rights and mode of a search (R120, R188, R219, R223, R428, R429). -/
def State.judge (s : State) (f : SearchFrame) : Accept :=
  let c := s.routeOf f.ch
  let p := s.baseProf c f.profile
  let denied := !s.searchRight f.hf c f.profile
  let down := !s.admitsAt c
  let grp := s.cascOn && decide (s.casc.pos = 0) && s.groupProfile c f.profile && !denied && !down
  let unfit := grp && decide (1 < p.slots)
  let fixed130 := !p.enabled || unfit || s.profParity c f.profile
  { ch := c, slots := p.slots, early := !fixed130 && p.early, lNs := if fixed130 then 130 else p.lNs,
    disabled := !p.enabled || unfit, group := grp && !unfit, unfit := unfit,
    status := if denied then some .denied else if down then some .channelDown else none }

/-- The SEARCH slots of a channel in the 40 ns after a channel ingress 12 ns from now (R383). -/
def State.slotsAhead (s : State) (c : Ch) : Nat := s.searchSlots c (s.cycleAt c (s.now + nsT 12)) 40

/-- Flits that a frame of `n` bytes takes. -/
def flitsFor (n : Nat) : Nat := (n + 59) / 60

/-- The downstream port holds buffer credit for a KEY frame with `n` key bytes behind what it has still to send (R237, R381). -/
def State.keyCredit (s : State) (n : Nat) : Bool :=
  decide (s.dn.sent.getD 0 0 + flitsFor (s.dn.txq.length + roundUp (12 + n) 4) ≤ s.dn.hostCr.getD 0 0)

/-- A group search runs in this module's own channel: not while it bypasses (R238, R240). -/
def State.runsHere (s : State) (a : Accept) : Bool := a.status.isNone && !(a.group && s.bypassing)

/-- The admission hold of R383: no room in the admission account. -/
def State.admissionHold (s : State) (a : Accept) : Bool :=
  s.runsHere a && decide (s.slotsAhead a.ch < (s.chan a.ch).account + a.slots)

/-- Whether the search must wait: no free record, no uncharged or reserved context, no cascade credit for its KEY frame, or
the admission hold (R168, R173, R221, R237, R383). -/
def State.mustHold (s : State) (a : Accept) (f : SearchFrame) : Bool :=
  let x := s.chan a.ch
  s.freeRec?.isNone
    || (s.runsHere a && (decide (2048 ≤ x.charges.length)
        || (!a.group && s.cascEn && decide (2048 - s.groupCtx ≤ x.charges.length - x.groupCharges))))
    || (a.status.isNone && a.group && (decide (s.groupCtx ≤ s.groupInflight a.ch)
        || (s.dn.isUp && !s.cascSafe && decide (s.casc.pos ≠ s.cascLast) && !s.keyCredit (keyBytes f.klen.toNat))))
    || s.admissionHold a

/-- The current epoch slot and NUM of a channel. -/
def Chan.curSlot (x : Chan) : Nat := if x.ep.st1 == .current then 1 else 0
/-- EPOCH_SLOT[i].NUM. -/
def State.epochNum (s : State) (c : Ch) (i : Nat) : Nat := s.field (chR c (0x5004 + 4 * i)) 0 16

/-- The request as a group search carries it: its epoch pin rewritten (R230). -/
def State.groupPin (s : State) (c : Ch) (f : SearchFrame) : SearchFrame :=
  if f.pinValid then f else { f with pin := BitVec.ofNat 16 (s.epochNum c (s.chan c).curSlot), pinValid := true }

/-- The 96 words of a profile body. -/
def State.profBody (s : State) (c : Ch) (p : Nat) : List Word :=
  (List.range 96).map (fun i => s.reg (chI c (0x200000 + 0x400 * p + 4 * i)))
/-- The FT_CTRL word of a flow table. -/
def ftR (c : Ch) (t : Nat) : Nat := chR c (0x4100 + 16 * t)
/-- The flow engine is in its configuration-parity safe state (R142). -/
def State.flowSafe (s : State) (c : Ch) : Bool :=
  s.parity.contains (chR c 0x4000) || s.parity.contains (chR c 0x4008) || s.parity.contains (chR c 0x400C)
/-- FT_CTRL[t].CFG_PARITY. -/
def State.ftParity (s : State) (c : Ch) (t : Nat) : Bool := s.parity.contains (ftR c t) || s.parity.contains (ftR c t + 4)

/-- Key width in bits by FKEY_WIDTH, KEY_W or WIDTH. -/
def widthBits (code : Nat) : Nat := 80 * 2 ^ code

/-- The flow key of a search (R117). -/
def flowKeyOf (b : List Word) (f : SearchFrame) (ad : Nat → Nat) : Nat :=
  formKey (widthBits (fld (pbFlow b) 7 2)) (wbit (pbFlow b) 14) (pbFkm b) (effKey f (fld (pw b 0) 3 2)) (pbConst b) ad

/-- h1 or h2 of a flow key (R131). -/
def State.flowHash (s : State) (c : Ch) (second : Bool) (t key : Nat) : BitVec 32 :=
  crc32c (toBytes 4 (s.reg (chR c (if second then 0x400C else 0x4008))).toNat ++ [BitVec.ofNat 8 t]
    ++ toBytes (widthBits (s.field (ftR c t) 6 2) / 8) key)

/-- The owner position of a flow key in a group (R233). -/
def State.flowOwner (s : State) (h1 : BitVec 32) : Nat := (natBits h1.toNat 26 6 * (s.cascLast + 1)) >>> 6

/-- EXT_PRESENT flags of a profile's lookups. -/
def pbExts (b : List Word) : List Bool := (List.range (min (pbNlook b) 4)).map (fun k => ldExt b k)

/-- What the base die knows of a channel's profile bodies and flow hashes while the channel is OFF or wakes: what they were when
it went OFF (R227; log entry 60). -/
def State.withOffRegs (s : State) (c : Ch) : State :=
  if (s.chan c).power == .off || (s.chan c).power == .wake then { s with regs := (s.chan c).offRegs } else s

/-- The part of a group search (R226): its profile's lookups and the owner of its flow (R233), from the body that the
profile holds in the channel that runs it. -/
def State.newPart (s : State) (c run : Ch) (f : SearchFrame) (gsn : Nat) : CascPart :=
  let u := s.withOffRegs run
  let b := u.profBody run f.profile
  let h1 := u.flowHash run false (fld (pbFlow b) 3 4) (flowKeyOf b f (fun _ => 0))
  { gsn := gsn, ch := c, run := run, hf := f.hf, dom := f.domain, tag := f.tag, exts := pbExts b,
    owner := if pbFlowOp b = 0 then none else some (s.flowOwner h1), replay := f.replay, own := none, below := none }

/-- A KEY frame can go on to the next position (R225, R239, R240). -/
def State.keyGoesOn (s : State) : Bool := s.casc.pos != s.cascLast && s.dn.isUp && !(s.cascSafe && s.casc.pos == 0)

/-- Pass a KEY frame on to the next position at time `t`, or substitute an empty part for what cannot be reached (R219, R225,
R239, R240). -/
def State.passKey (s : State) (t : Nat) (h : CascHdr) (f : SearchFrame) (p : CascPart) : State :=
  if s.keyGoesOn then s.sendDn t (cascHeader 0 { h with pos := BitVec.ofNat 3 s.casc.pos } ++ searchBytes f)
  else if decide (s.casc.pos = s.cascLast) then s
  else s.substitute p

/-- An own input that no channel will give: the empty part of a module in bypass, or of one whose channel does not
take searches in (R227, R238). -/
def State.ownEmpty (s : State) (gsn : Nat) (degraded : Bool) : State :=
  let pos := s.casc.pos
  s.modPart gsn (fun p => { p with own := some (p.empty degraded (fun o => o == pos), true) })

/-- The empty part of a module in bypass (R227, R238, R240). -/
def State.bypassPart (s : State) (gsn : Nat) : State :=
  (s.count (modR 0x6108) 1).ownEmpty gsn (s.cascSafe || !s.bit (modR 0x6000) 2)

/-- The head forwards a group search downstream as a KEY frame, in the host-link cycle after its acceptance (R219, R230). A head
that bypasses adds its own empty part (R238). -/
def State.forwardGroup (s : State) (a : Accept) (f : SearchFrame) (gsn : Nat) : State :=
  let p := s.newPart a.ch a.ch f gsn
  let s := (s.countIf s.keyGoesOn (modR 0x6100)).openPart p
  let s := if s.bypassing then s.bypassPart gsn else s
  s.passKey (s.now + linkCycle) ⟨a.ch, BitVec.ofNat 14 gsn, 0, false⟩ f p

/-- The search at the head of VC0 is accepted: record opened, context charged, request sent to its channel. -/
def State.accept (s : State) (f : SearchFrame) (credits : Nat) (a : Accept) : State :=
  let s := s.noteRoute f.ch a.ch
  let s := (s.countIf a.unfit (modR 0x6114)).evMIf a.unfit 69
  let s := s.useCredits f credits
  match a.status with
  | some st => s.openRecord f a.ch a.early a.lNs false (some (bareResult st))
  | none =>
    let gsn := s.freeRec
    let f' := if a.group then s.groupPin a.ch f else f
    let here := s.runsHere a
    let s := s.openRecord f a.ch a.early a.lNs a.group none
    let s := if here then s.modChan a.ch (fun x => { x with
      charges := x.charges ++ [⟨gsn, false, a.group, a.slots, f.profile⟩]
      ingress := x.ingress ++ [(.search f' gsn a.group false a.disabled a.slots, s.now + nsT 12)] }) else s
    if a.group then s.forwardGroup a f' gsn else s

/-! ## Cancel (R181 to R186) -/

/-- A cancelled search's result; one decided otherwise keeps its status (R186, R95). -/
def cancelResult (r : Result) : Result := if r.status = .ok then bareResult .cancelled else r

/-- Pass a CANCEL frame on to the next position (R225, R228). -/
def State.passCancel (s : State) (h : CascHdr) : State :=
  if !s.keyGoesOn then s
  else (s.count (modR 0x611C) 1).sendDn s.now (cascHeader 1 { h with pos := BitVec.ofNat 3 s.casc.pos })

/-- A cancel follows its search into a channel: it takes 12 ns to cross; behind a request that is still crossing it acts in the
request's first cycle (R182). -/
def Chan.pushCancel (x : Chan) (gsn : Nat) (fwd : Bool) (now : Nat) : Chan :=
  let mine : Ingress × Nat → Bool := fun p => match p.1 with
    | .search _ g _ f _ _ => g == gsn && f == fwd
    | .cancel _ _ => false
  let pre := x.ingress.takeWhile (fun p => !mine p)
  match x.ingress.drop pre.length with
  | [] => { x with ingress := x.ingress ++ [(.cancel gsn fwd, now + nsT 12)] }
  | p :: post => { x with ingress := pre ++ p :: (.cancel gsn fwd, p.2) :: post }

/-- L in host-link cycles (R174). -/
def lCycles (lNs : Nat) : Nat := (lNs * 4 + 4) / 5

/-- R_own of a record (Table 06.2). -/
def RelRec.own (r : RelRec) : Nat :=
  if r.early then (if r.atAcceptance then r.acceptedAt else r.completeAt) else r.acceptedAt + linkCycle * lCycles r.lNs

/-- The time at which the last of these records of one domain, in sequence order, is released, when all of them are complete
(R174, R176). -/
def releaseTime : Nat → List RelRec → Option Nat
  | prev, [] => some prev
  | prev, r :: t => if r.result.isNone then none else releaseTime (max (max r.own prev) r.completeAt) t

/-- A record is released in this host-link cycle or was due before it. -/
def State.releaseDue (s : State) (r : RelRec) : Bool :=
  let d := s.rels.filter (fun q => domKey q.hf q.dom == domKey r.hf r.dom)
  let upTo := d.takeWhile (fun q => q.gsn != r.gsn) ++ [r]
  match releaseTime (s.domain (domKey r.hf r.dom)).lastAt upTo with
  | some t => decide (t / linkCycle ≤ s.linkNow)
  | none => false

/-- A cancel that finds no unreleased search (R181). -/
def State.cancelMiss (s : State) (known : Bool) : State := (s.count (if known then modR 0x210C else modR 0x2108) 1).evM 97

/-- A cancel acts on the oldest unreleased search of its host function with its tag (R181, R182). One that comes in the cycle in
which the result is released has no effect (R411). -/
def State.applyCancel (s : State) (hf : Hf) (tag : BitVec 16) : State :=
  if !s.bit (modR 0x2000) 0 then s.count (modR 0x2108) 1
  else
    match s.rels.find? (fun r => r.hf == hf && r.tag == tag && !s.releaseDue r) with
    | none =>
      s.cancelMiss (s.oldTags.contains (hf.val * 65536 + tag.toNat) || s.rels.any (fun r => r.hf == hf && r.tag == tag))
    | some r =>
      match r.result with
      | some res => { s with rels := modFirst (fun q => q.gsn == r.gsn) (fun q => { q with result := some (cancelResult res) }) s.rels }
      | none =>
        let s := s.modChan r.ch (fun x => x.pushCancel r.gsn false s.now)
        if r.group then
          s.passCancel ⟨r.ch, BitVec.ofNat 14 r.gsn, 0, false⟩
        else s

/-- CANCEL: acts at once, or waits behind the VC0 frames before it (R383, R389). -/
def execCancel (hf : Hf) (tag : BitVec 16) (s : State) : Out :=
  let s := (s.takeFrame 0 (cancelBytes hf tag)).1
  if s.vc0 = [] then .next (s.applyCancel hf tag) else .next { s with vc0 := s.vc0 ++ [.cancel hf tag] }

/-- ACCEPTANCE: the next VC0 frame, in the next host-link cycle, and 90 ns after its first bit was at the pins: 70 ns in the
receiver, 12 ns for the fields, 8 ns for the access check (R12, R14, R16). A search that waits for the admission hold counts
a cycle (R383). A cancel that has reached the front acts. -/
def execAcceptance (s : State) : Out :=
  match s.vc0 with
  | [] => .next s
  | .cancel hf tag :: t => .next ({ s with vc0 := t }.applyCancel hf tag)
  | .search f at_ credits :: _ =>
    let s := s.atTime (roundUp (max s.now (at_ + nsT (70 + 12 + 8))) linkCycle)
    let a := s.judge f
    let held := s.admissionHold a
    if s.mustHold a f then .next (((s.countIf held (modR 0x1120)).evMIf held 38).atTime (s.now + linkCycle))
    else .next (s.accept f credits a)

/-! ## Channel ingress -/

/-- The parse-status action of a search (R102, R107, R108, R110): 0 as is, 1 exception, 2 miss, 3 reject. -/
def parseAction (b : List Word) (f : SearchFrame) : Nat :=
  let short := decide (keyBytes f.klen.toNat < keyBytes (fld (pw b 0) 3 2))
  let pol := if short then fld (pw b 1) 4 2
    else match f.pstat.toNat with
    | 0 => 0
    | 1 => fld (pw b 1) 0 2
    | 2 => fld (pw b 1) 2 2
    | 3 => fld (pw b 1) 4 2
    | _ => fld (pw b 1) 6 2
  if pol = 1 ∧ (!wbit (pw b 1) 16 ∨ pbNlook b = 0) then 2 else pol

/-- Slack water of a slot that began at `start` with `us` µs has ended: its time has passed, or `ended` says that END_SLACK was
written, and no context holds the slot (R199). -/
def State.slackOver (s : State) (c : Ch) (slot start us : Nat) (ended : Bool) : Bool :=
  (ended || decide (start + usT us ≤ s.now)) && !(s.chan c).ctxs.any (fun k => k.action != 3 && k.epochSlot == slot)

/-- The current slot and the state of the other as a context allocated in this cycle sees them: a commit due in the cycle has
taken effect, and slack water that ends in it has ended (R203). -/
def State.epochView (s : State) (c : Ch) : Nat × EpState :=
  let e := (s.chan c).ep
  let cur := (s.chan c).curSlot
  let st := if cur = 0 then e.st1 else e.st0
  let slack (slot start us : Nat) (ended : Bool) : EpState := if s.slackOver c slot start us ended then .retiring else .slack
  match e.commitAt with
  | some t => if t ≤ s.now then (1 - cur, slack cur t (s.field (chR c 0x5000) 0 16) false) else (cur, st)
  | none => (cur, if st = .slack then slack (1 - cur) e.slackStart e.slackUs e.endSlack else st)

/-- Epoch selection (R201, R202, R230, R231): slot, EPOCH_USED, retired, and the EPOCH_CNT index of the outcome. -/
def State.selectEpoch (s : State) (c : Ch) (pinEn group : Bool) (f : SearchFrame) : Nat × Nat × Bool × Option Nat :=
  let x := s.chan c
  let cur := (s.epochView c).1
  let oth := 1 - cur
  let othSt := (s.epochView c).2
  let pin := f.pin.toNat
  let ctrl := s.reg (chR c 0x5000)
  let par := s.parity.any (fun k => k == chR c 0x5004 || k == chR c 0x5008 || k == chR c 0x5014 || k == chR c 0x5018 || k == chR c 0x501C)
  if (pinEn || group) && f.pinValid then
    if par then (cur, s.epochNum c cur, true, none)
    else if pin = s.epochNum c cur then (cur, pin, false, some 0)
    else if pin = s.epochNum c oth ∧ othSt = .slack then (oth, pin, false, some 1)
    else if pin = s.epochNum c oth ∧ othSt = .staged ∧ wbit ctrl 16 ∧ fld ctrl 17 3 = f.hf.val then (oth, pin, false, some 4)
    else if group ∧ pin = s.epochNum c oth ∧ othSt = .staged ∧ (x.ep.armed ∨ x.ep.commitAt.isSome) then (oth, pin, false, none)
    else (cur, s.epochNum c cur, true, none)
  else (cur, s.epochNum c cur, false, none)

/-- Flow work ends TABLE_ERR at ingress (R142). -/
def State.flowTableErr (s : State) (c : Ch) (b : List Word) : Bool :=
  let t := fld (pbFlow b) 3 4
  !s.bit (chR c 0x4000) 0 || s.flowSafe c || !s.bit (ftR c t) 0 || s.ftParity c t || fld (pbFlow b) 7 2 != s.field (ftR c t) 6 2

/-- A group profile's flow conditions are broken (R223). -/
def groupFlowUnfit (b : List Word) : Bool :=
  fld (pbFlow b) 9 2 != 0 || !(kmDeps (pbFkm b)).isEmpty
    || (pbFlowOp b != 4 && decide (4 ≤ fld (pw b 7) 15 3))

/-- The lookups of a new context: those that its action performs are still to start; the others have miss records. -/
def newLooks (b : List Word) (action : Nat) (none_ : Bool) : List Look :=
  (List.range (min (pbNlook b) 4)).map (fun k =>
    let run := !none_ && (action == 0 || (action == 1 && k == 0))
    { table := if action = 1 then fld (pw b 1) 8 8 else ldTable b k, stage := if action = 1 then 0 else ldStage b k,
      groups := 0, started := false, performed := false, finished := !run, failed := !run, degraded := false,
      ext := ldExt b k, key := 0, blocks := [], record := missRec false (ldExt b k), doneAt := 0 })

/-- The extended AD sections of a new context (R90): a read that cannot run has its section zero at once. -/
def newExts (looks : List Look) : List ExtWork :=
  (looks.zipIdx.filter (fun p => p.1.ext)).map (fun p => { lookup := p.2, issuedAt := none, finished := p.1.finished, data := 0 })

/-- The lowest context number not in use. -/
def Chan.freeCtx (x : Chan) : Nat := ((List.range 2048).find? (fun i => x.ctxs.all (fun k => k.num != i))).getD 0

/-- The flow-slot deadline in ns after ingress, and whether R179 shortened it (R179, R236). -/
def State.deadlineNs (s : State) (c : Ch) (b : List Word) (group : Bool) : Nat × Bool :=
  let d := min (max (s.field (chR c 0x3000) 0 11) 400) 1200
  let l := pbLns b - 32 - (if group then 140 * s.cascLast else 0)
  if !pbEarly b && pbSlow b then (min d l, decide (l < d)) else (d, false)

/-- The context with nothing of a profile: how a disabled profile's search runs (R120). -/
def State.bareCtx (s : State) (c : Ch) (f : SearchFrame) (gsn : Nat) (group fwd : Bool) (slots : Nat) : Ctx :=
  let x := s.chan c
  { num := x.freeCtx, req := f, gsn := gsn, group := group, forwarded := fwd, usesBody := false, body := resetBody,
    action := 0, noLookups := true, retired := false, parseExc := false, epochSlot := x.curSlot,
    epochUsed := BitVec.ofNat 16 (s.epochNum c x.curSlot), ingressAt := s.now, deadline := s.now, phase := .assembling,
    readyAt := s.now + nsT 4, stage := 0, looks := [], exts := [], flow := .none, part := zeroPart 0, flowLate := false,
    learnFail := false, effect := false, conflicted := false, skipped := false, lastAdAt := 0, lastWorkAt := 0, slotsLeft := slots, busyTill := 0 }

/-- The flow phase at ingress: its end status when it is decided there (R109, R142, R202, R223, R233). -/
def State.flowAtIngress (s : State) (c : Ch) (b : List Word) (f : SearchFrame) (group quiet : Bool) : FlowPhase × BitVec 4 :=
  if pbFlowOp b = 0 then (.none, 0)
  else
    let unfit := group && groupFlowUnfit b
    let h1 := s.flowHash c false (fld (pbFlow b) 3 4) (flowKeyOf b f (fun _ => 0))
    if group && s.flowOwner h1 != s.casc.pos then (.none, 0)
    else if quiet then (.finished, 0)
    else if unfit || s.flowTableErr c b then (.finished, 9)
    else (.waiting, 0)

/-- The context of a search that uses its profile's body. -/
def State.bodyCtx (s : State) (c : Ch) (f : SearchFrame) (gsn : Nat) (group fwd : Bool) (slots : Nat) : Ctx :=
  let b := s.profBody c f.profile
  let action := parseAction b f
  let ep := if action = 3 then ((s.chan c).curSlot, 0, false, none) else s.selectEpoch c (wbit (pw b 0) 5) group f
  let missAll := ep.2.2.1 && wbit (pw b 0) 6
  let quiet := action != 0 || missAll
  let none_ := action == 2 || action == 3 || missAll
  let fl := if action = 3 then (.none, 0) else s.flowAtIngress c b f group quiet
  let looks := if action = 3 then [] else newLooks b action missAll
  let base := s.bareCtx c f gsn group fwd slots
  { base with
    usesBody := true, body := b, action := action, noLookups := none_, retired := ep.2.2.1
    parseExc := action == 1 || action == 2, epochSlot := ep.1, epochUsed := BitVec.ofNat 16 ep.2.1
    deadline := s.now + nsT (s.deadlineNs c b group).1
    phase := if none_ then .assembling else .forming
    readyAt := s.now + (if none_ then nsT 4 else nsT 14)
    looks := looks, exts := newExts looks, flow := fl.1, part := zeroPart fl.2 }

/-- Counters and events of a context's allocation (Table 04.5, Table 05.23, Table 06.8, Table 07.13). -/
def State.countIngress (s : State) (c : Ch) (f : SearchFrame) (k : Ctx) : State :=
  let ps := f.pstat.toNat
  let cnt (s : State) (p : Bool) (off ev : Nat) : State := (s.countIf p (chR c off)).evCIf p c ev
  let s := s.count (chR c 0x3100) 1
  let s := s.countIf (decide (1 ≤ ps ∧ ps ≤ 4)) (chR c (0x2100 + 4 * (ps - 1)))
  let s := cnt s (decide (5 ≤ ps)) 0x2110 21
  let hwm := (s.chan c).ctxs.length + 1
  let s := if s.field (chR c 0x3004) 0 12 < hwm then s.setField (chR c 0x3004) 0 12 hwm else s
  if k.usesBody then
    let keyBad := keyBytes f.klen.toNat != keyBytes (fld (pw k.body 0) 3 2)
    let s := cnt s keyBad 0x2114 20
    let s := cnt s (k.action == 3) 0x2124 22
    let ep := s.selectEpoch c (wbit (pw k.body 0) 5) k.group f
    let s := if k.action = 3 then s else match ep.2.2.2 with
      | some i => s.count (chR c (0x5100 + 4 * i)) 1
      | none => s
    let s := (s.countIf (k.retired && !wbit (pw k.body 0) 6) (chR c 0x5108)).countIf (k.retired && wbit (pw k.body 0) 6) (chR c 0x510C)
    let s := s.evCIf k.retired c 293
    let shortened := (s.deadlineNs c k.body k.group).2
    let s := cnt s shortened 0x3114 256
    let ended := k.flow == .finished
    let s := s.countIf (ended && k.part.fstatus == 0) (chR c 0x4428)
    let s := cnt s (ended && k.part.fstatus == 9) 0x4424 203
    s.countIf (ended && k.part.fstatus == 9 && k.group && groupFlowUnfit k.body) (modR 0x6118)
  else cnt s true 0x2118 19

/-- The record of a search that its channel runs as one of a disabled profile, though it was accepted under the profile's own
release rules: its release is fixed, at the L of the reset body (R120; DEDUCED, log entry 61). -/
def State.fixedRelease (s : State) (gsn : Nat) : State :=
  { s with rels := modFirst (fun q => q.gsn == gsn) (fun q => { q with early := false, lNs := 130 }) s.rels }

/-- CHANNEL_INGRESS: the request at the head of the crossing FIFO enters the channel, 12 ns after its acceptance and
in a cycle of its own; a context is allocated and its keys and lanes are formed (R13, R168). -/
def execChannelIngress (c : Ch) (s : State) : Out :=
  match (s.chan c).ingress with
  | (.search f gsn group fwd disabled slots, due) :: rest =>
    let last := (s.chan c).ctxs.foldl (fun m k => max m (k.ingressAt + 12)) 0
    let s := s.atTime (max due last)
    let use := !disabled && s.bit (chR c (0x2000 + 4 * f.profile.val)) 0 && !s.profParity c f.profile
    let k := if use then s.bodyCtx c f gsn group fwd slots else s.bareCtx c f gsn group fwd slots
    let s := s.countIngress c f k
    let s := if use || fwd then s else s.fixedRelease gsn
    .next (s.modChan c (fun x => { x with ingress := rest, ctxs := x.ctxs ++ [k] }))
  | _ => .next s

/-! ## Stages (R170, R171, R309) -/

/-- The flow work of a context is still to end. -/
def Ctx.flowPending (k : Ctx) : Bool := match k.flow with | .waiting => true | .arrived _ => true | _ => false
/-- A lookup of the present stage has not finished. -/
def Ctx.stageOpen (k : Ctx) : Nat := (k.looks.filter (fun l => l.stage == k.stage && !l.finished)).length
/-- The number of the last stage with a lookup to run. -/
def Ctx.lastStage (k : Ctx) : Nat := k.looks.foldl (fun m l => if l.finished then m else max m l.stage) k.stage
/-- The dependence counter (R170, Table 06.1), with held completions applied. -/
def Ctx.dep (k : Ctx) : Nat :=
  let work := b2n k.flowPending + (k.exts.filter (fun e => !e.finished)).length
  match k.phase with
  | .forming => 1
  | .ready => 0
  | .inLaunch => 0
  | .launched => k.stageOpen + (if k.lastStage = k.stage then work else 0)
  | .assembling => work
  | .cancelled => 0

/-- `a` enters the launch slot before `b` (R171). -/
def launchBefore (a b : Ctx) : Bool :=
  if (a.stage = 0) = (b.stage = 0) then decide (a.ingressAt < b.ingressAt) else decide (b.stage = 0)

/-- Contexts that wait for the launch slot. -/
def Chan.waiters (x : Chan) : List Ctx := x.ctxs.filter (fun k => k.phase == .forming || k.phase == .ready)

/-- A cancel of a context is due by time `t`: in its cancel cycle it wins (R182, R183). -/
def Chan.cancelDue (x : Chan) (k : Ctx) (t : Nat) : Bool :=
  k.action != 3 && x.ingress.any (fun p => match p.1 with
    | .cancel g f => g == k.gsn && f == k.forwarded && decide (p.2 ≤ t)
    | .search _ _ _ _ _ _ => false)

/-- Contexts that can take the launch slot by time `t`. -/
def Chan.candidates (x : Chan) (t : Nat) : List Ctx := x.waiters.filter (fun k => decide (k.readyAt ≤ t) && !x.cancelDue k t)

/-- The context that takes the empty launch slot by time `t`: when the first one is ready and the slot is empty, the one that
comes first among those ready then (R171). -/
def Chan.nextLaunch (x : Chan) (t : Nat) : Option Ctx :=
  let l := x.candidates t
  match l with
  | [] => none
  | k :: _ =>
    let at_ := max x.launchFree (l.foldl (fun m q => min m q.readyAt) k.readyAt)
    if t < at_ then none else bestBy launchBefore (l.filter (fun q => decide (q.readyAt ≤ at_)))

/-- The AD of lookup `m` as a source (R105). -/
def Ctx.adOf (k : Ctx) (m : Nat) : Nat :=
  match k.looks[m]? with
  | some l => if l.failed then 0 else l.record.ad.toNat
  | none => 0

/-- A lookup left not performed: the miss record, failed and finished (R92, R116). Its DEGRADED stays clear: DESIGN CHOICE (log
entry 62). -/
def Look.skip (l : Look) (groups : Nat) : Look :=
  { l with groups := groups, started := true, performed := false, finished := true, failed := true, record := missRec false l.ext }

/-- A lookup is not performed because a source lookup failed (R116). -/
def Ctx.chainSkips (k : Ctx) (i : Nat) : Bool :=
  (kmDeps (pbKm k.body i)).any (fun m => match k.looks[m]? with
    | some l => l.failed && (l.record.adErr || !wbit (pbLd k.body i) 12)
    | none => false)

/-- A bank group of lookup `i` is used by a lower-numbered lookup of the search, in this stage or an earlier one (R112). -/
def Ctx.conflicts (k : Ctx) (i : Nat) : Bool :=
  k.action == 0 && ((List.range i).any (fun m => match k.looks[m]?, k.looks[i]? with
    | some a, some b => decide (a.stage ≤ k.stage) && (a.groups &&& b.groups) != 0
    | _, _ => false))

/-- The key of lookup `i` (R103). -/
def State.lookupKey (s : State) (c : Ch) (k : Ctx) (i : Nat) : Nat :=
  match k.looks[i]? with
  | none => 0
  | some l => formKey (widthBits (s.field (tblR c l.table) 1 2)) (wbit (pbLd k.body i) 11) (pbKm k.body i)
      (effKey k.req (fld (pw k.body 0) 3 2)) (pbConst k.body) k.adOf

/-- LAUNCH_SLOT_FILL: the empty launch slot takes the keys and lanes of the context that comes first (R171). -/
def State.fillLaunch (s : State) (c : Ch) (t : Nat) : State :=
  let x := s.chan c
  match x.launch, x.nextLaunch t with
  | none, some k =>
    let l : Launch := { num := k.num, keys := (List.range k.looks.length).map (fun i => s.lookupKey c k i),
                        lanes := lanesOf k.body (effKey k.req (fld (pw k.body 0) 3 2)) }
    (s.modCtx c k.num (fun k => { k with phase := .inLaunch })).modChan c (fun x => { x with launch := some l })
  | _, _ => s

/-- A context in the launch slot whose cancel is due is removed (R183). -/
def State.dropLaunch (s : State) (c : Ch) : State :=
  let x := s.chan c
  match x.launch with
  | none => s
  | some l =>
    if (match x.ctx? l.num with | some k => x.cancelDue k s.now | none => true) then
      s.modChan c (fun x => { x with launch := none, launchFree := s.now })
    else s

/-- Start lookup `i` of the present stage with its key and the lane values of the launch slot (R103, R112, R116). -/
def State.startLookup (s : State) (c : Ch) (n : Nat) (q : Launch) (i : Nat) : State :=
  match (s.chan c).ctx? n with
  | none => s
  | some k =>
    match k.looks[i]? with
    | none => s
    | some l =>
      if l.stage ≠ k.stage ∨ l.finished then s
      else if k.conflicts i then
        let s := (s.countIf (!k.conflicted) (chR c 0x211C)).evC c 23
        let s := s.capture (chR c 0x2140) (k.req.profile.val + i * 64 + l.table * 256)
        s.modCtx c n (fun k => { k with conflicted := true, looks := modAt i (fun l => l.skip l.groups) k.looks })
      else if k.chainSkips i then
        let s := (s.countIf (!k.skipped) (chR c 0x2120)).evC c 24
        s.modCtx c n (fun k => { k with skipped := true, looks := modAt i (fun l => l.skip l.groups) k.looks })
      else
        let key := q.keys.getD i 0
        let bl := s.lookupBlocks c l.table key q.lanes k.epochSlot
        let d := s.lookupDegraded c l.table
        let s := s.modChan c (fun x => { x with winBlk := x.winBlk + bl.length })
        s.modCtx c n (fun k => { k with looks := modAt i (fun l =>
          { l with started := true, performed := true, degraded := d, key := key, blocks := bl }) k.looks })

/-- GROUPS of every table of the present stage, read at the start of its SEARCH slot (R112). -/
def State.readGroups (s : State) (c : Ch) (n : Nat) : State :=
  s.modCtx c n (fun k => { k with looks := k.looks.map (fun l =>
    if l.stage = k.stage then { l with groups := s.field (tblR c l.table) 3 4 } else l) })

/-- Move on from a stage whose lookups have all finished: to the next stage, whose keys take 6 ns (R115), or to
result assembly. An extended AD section of a lookup that misses is zero at once (R90). -/
def Ctx.advance (k : Ctx) (now : Nat) : Ctx :=
  if k.phase ≠ .launched ∨ k.stageOpen ≠ 0 then k
  else
    let exts := k.exts.map (fun (e : ExtWork) =>
      if (match k.looks[e.lookup]? with | some l => l.finished | none => false) && e.issuedAt.isNone then { e with finished := true } else e)
    let k := { k with exts := exts }
    if k.looks.any (fun l => decide (k.stage < l.stage) && !l.finished) then
      { k with stage := k.stage + 1, phase := .ready, readyAt := now + nsT 6 }
    else { k with phase := .assembling }

/-- A ticket leaves the order of its buckets (R148, R182). -/
def State.dropTicket (s : State) (c : Ch) (id : Nat) : State :=
  s.modFlow c (fun e => { e with tickets := dropFirst (fun t => t.id == id) e.tickets })

/-- The flow work of a context leaves the order of its buckets. -/
def State.dropCtxFlow (s : State) (c : Ch) (k : Ctx) : State :=
  match k.flow with
  | .arrived id => s.dropTicket c id
  | _ => s

/-- Whether the flow work of a context may run (R117): false once a lookup that its key map reads has failed or its
condition is known to be false; true once all that is known; `none` before. -/
def Ctx.flowVerdict (k : Ctx) : Option Bool :=
  let look (m : Nat) (p : Look → Bool) : Bool := match k.looks[m]? with | some l => p l | none => false
  let deps := kmDeps (pbFkm k.body)
  let cond := fld (pbFlow k.body) 9 2
  let fcl := fld (pbFlow k.body) 11 2
  let condKnown := cond == 0 || look fcl (·.finished)
  let condTrue := cond == 0 || look fcl (fun l => l.record.hit == (cond == 1))
  if deps.any (fun m => look m (fun l => l.finished && l.failed)) then some false
  else if condKnown && !condTrue then some false
  else if condKnown && deps.all (fun m => look m (·.finished)) then some true
  else none

/-- FLOW_CNT index of a flow status (Table 05.23). -/
def flowCntIdx (fstatus : Nat) : Nat := match fstatus with | 0 => 10 | 1 => 0 | 2 => 1 | 3 => 2 | 4 => 3 | 5 => 4 | 6 => 5 | 7 => 6 | n => n

/-- The flow work of a context ends with a flow part (R141, Table 05.6): it is counted, its ticket leaves the order,
and events of the status are raised (R167). -/
def State.endFlow (s : State) (c : Ch) (k : Ctx) (part : FlowPart) : State :=
  let f := part.fstatus.toNat
  let s := (s.dropCtxFlow c k).count (chR c (0x4400 + 4 * flowCntIdx f)) 1
  let s := (s.evCIf (f == 6) c 195).evCIf (f == 7) c 196
  s.modCtx c k.num (fun k => { k with
    flow := .finished, part := part, flowLate := f == 6, learnFail := f == 7, lastWorkAt := s.now })

/-- Flow work whose condition has proved false ends NOT_RUN (R117, R147). -/
def State.flowCondition (s : State) (c : Ch) (n : Nat) : State :=
  match (s.chan c).ctx? n with
  | none => s
  | some k => if k.flowPending && k.flowVerdict == some false then s.endFlow c k (zeroPart 0) else s

/-- The time from which the launch slot can hold a context: now when it does, else when the first waiter is ready. -/
def State.launchStart (s : State) (c : Ch) : Nat :=
  let x := s.chan c
  match x.launch, x.waiters with
  | none, k :: l => max s.now (max x.launchFree (l.foldl (fun m q => min m q.readyAt) k.readyAt))
  | _, _ => s.now

/-- SEARCH_SLOT: the next SEARCH slot in which the launch slot holds a context starts that context's stage; the SEARCH slots
before it go unused, and so does the next one when no context waits (R309, R310). -/
def execSearchSlot (c : Ch) (s : State) : Out :=
  let from_ := s.freeCycle c (s.cycleAt c s.now)
  match s.nextSlot c 0 (s.freeCycle c (s.cycleAt c (s.launchStart c))) with
  | none => .next s
  | some n =>
    let empty := s.searchSlots c from_ (n - from_)
    let s := (((s.useSlot c n).count (chR c 0x690C) empty).dropLaunch c)
    let s := s.fillLaunch c s.now
    match (s.chan c).launch.bind (fun l => ((s.chan c).ctx? l.num).map (fun k => (l, k))) with
    | none => .next (s.count (chR c 0x690C) 1)
    | some (q, k) =>
      let waited := (List.range 64).filter (fun j => decide (s.cycleAt c k.readyAt ≤ n - 1 - j) && decide (j < n) && s.liveSlot c (n - 1 - j) != 0)
      let s := s.count (chR c 0x3110) waited.length
      let s := s.countIf (decide (0 < k.stage)) (chR c 0x310C)
      let s := s.modChan c (fun x => { (x.modCharge k.gsn k.forwarded Charge.slotStarts) with
        launch := none, launchFree := s.now, winSlot := x.winSlot + 1 })
      let s := s.modCtx c k.num (fun k => { k with phase := .launched, readyAt := s.now, slotsLeft := k.slotsLeft - 1 })
      let s := s.readGroups c k.num
      let s := (List.range k.looks.length).foldl (fun s i => s.startLookup c k.num q i) s
      .next ((s.modCtx c k.num (fun k => k.advance s.now)).flowCondition c k.num)

/-! ## Buoys and samples of a lookup (R336 to R338) -/

/-- A pass of a block is in progress. -/
def Chan.inPass (x : Chan) (bank block : Nat) : Bool := x.maint.cur.any (fun p => p.1 / 2 == bank && p.2.block == block)
/-- Queue a priority pass of a block, unless one is queued or a pass of it is in progress (R345). -/
def Chan.queuePass (x : Chan) (bank block : Nat) : Chan :=
  if x.maint.prio.contains (bank, block) || x.inPass bank block then x
  else { x with maint := { x.maint with prio := x.maint.prio ++ [(bank, block)] } }

/-- A buoy of a precharged block fails in a lookup (R336, R337); `near` is the outcome due from its near buoy. -/
def State.buoyFail (s : State) (c : Ch) (q : BlockSense) (near : Bool) : State :=
  let log (n : Nat) (s : State) : State := s.capture (chR c 0x8140) (q.block.val + q.bank.val * 64 + n * 4096)
  let old := s
  let s := if q.alwaysMiss then ((log 0 (s.count (chR c 0x8100) 1)).setB (calR c q.bank q.block) 22 true).evC c 64 else s
  let s := if q.nearMatch != near then (log 1 (s.count (chR c 0x8104) 1)).evC c 65 else s
  let s := if (s.chan c).inPass q.bank q.block then s
    else (s.modChan c (fun x => x.queuePass q.bank q.block)).setB (calR c q.bank q.block) 21 true
  old.blockEvents s c

/-- The sense outcomes that concern a lookup: its precharged blocks whose buoys failed, each with the outcome that was due from
the near buoy as the SEARCH slot found it (R337, R351). -/
def Look.fails (l : Look) (sense : List BlockSense) : List (BlockSense × Bool) :=
  sense.filterMap (fun q =>
    match l.blocks.find? (fun b => b.bank == q.bank.val && b.block == q.block.val) with
    | some b => if q.alwaysMiss || q.nearMatch != b.near then some (q, b.near) else none
    | none => none)

/-- Take a sample of a table from a lookup whose buoys were all right, when the last one is old enough (R338). The reference of a
block that was written in the cycle of the sample, or since the lookup's SEARCH slot, is not valid (R351; log entry 37). -/
def State.takeSample (s : State) (c : Ch) (k : Ctx) (l : Look) : State :=
  let m := (s.chan c).maint
  let revs := max (s.field (chR c 0x8004) 8 16) 1
  let last := sget (fun _ => 0) m.sampledAt l.table
  if !s.bit (chR c 0x8000) 2 || (last != 0 && decide (s.now < last + nsT (256 * revs))) then s
  else
    let refs := l.blocks.map (fun b =>
      { bank := b.bank, block := b.block, hit := b.win.isSome, cnt := b.cnt, win := b.winNo,
        valid := decide (sget (fun _ => 0) m.written (b.bank * 33 + b.block) < k.readyAt) : SampleRef })
    let smp : Sample := { key := l.key, lanes := lanesOf k.body (effKey k.req (fld (pw k.body 0) 3 2)), slot := k.epochSlot, refs := refs }
    let l8 := (smp :: sget (fun _ => []) m.samples l.table).take 8
    let s := s.count (chR c 0x8110) 1
    s.modChan c (fun x => { x with maint := { x.maint with
      samples := sset (fun _ => []) x.maint.samples l.table l8
      sampledAt := sset (fun _ => 0) x.maint.sampledAt l.table s.now } })

/-! ## Lookup completion (R73 to R92) -/

/-- The AD image value of a winner (R81): 32 bits of its pair at width 80, else the pair. -/
def adOfPair (width word : Nat) (ad : BitVec 64) : BitVec 64 :=
  if width ≠ 0 then ad
  else if word % 2 = 0 then ad &&& 0xFFFFFFFF else ad >>> 32

/-- Finish lookup `i`: choose the winner among the blocks whose buoys stood, read and check its AD (R74 to R86). A read of its
extended AD that the deadline has already dropped leaves EXT_LATE in a record that hits (R88). INFO of AD_UNCORRECTABLE is the
winner's block: DESIGN CHOICE (log entry 62). -/
def State.finishLookup (s : State) (c : Ch) (n i : Nat) (sense : List BlockSense) : State :=
  match (s.chan c).ctx? n with
  | none => s
  | some k =>
    match k.looks[i]? with
    | none => s
    | some l =>
      if !(l.started && l.performed && !l.finished && l.stage == k.stage) then s
      else
        let fails := l.fails sense
        let good := l.blocks.filter (fun b => !fails.any (fun q => b.bank == q.1.bank.val && b.block == q.1.block.val))
        let s := fails.foldl (fun s q => s.buoyFail c q.1 q.2) s
        let s := if fails = [] then s.takeSample c k l else s
        let deg := l.degraded || !fails.isEmpty
        match bestBy Cand.beats (good.filterMap (·.win)) with
        | none =>
          s.modCtx c n (fun k => { k with looks := modAt i (fun l =>
            { l with finished := true, failed := true, record := missRec deg l.ext, doneAt := s.now }) k.looks })
        | some w =>
          let cell := (s.chan c).arr.adPair (pairKey w.bank w.block (w.word / 2))
          let base : LookupRec := { missRec deg l.ext with
            hit := true, extLate := l.ext && l.record.extLate, prio := BitVec.ofNat 20 w.prio, index := globalIndex s.casc.pos c w.bank w.block w.word }
          let put (s : State) (r : LookupRec) : State := s.modCtx c n (fun k => { k with
            looks := modAt i (fun l => { l with finished := true, failed := r.adErr, record := r, doneAt := s.now }) k.looks
            exts := k.exts.map (fun e => if e.lookup = i ∧ !r.adErr ∧ !e.finished then { e with issuedAt := some s.now } else e) })
          match rsDecode (toBytes 8 cell.ad.toNat) cell.chk with
          | .clean => put s { base with ad := adOfPair w.width w.word cell.ad }
          | .corrected m =>
            put ((s.count (chR c 0x1020) 1).evC c 8) { base with ad := adOfPair w.width w.word (BitVec.ofNat 64 (ofBytes m)) }
          | .uncorrectable =>
            let s := (s.count (chR c 0x1024) 1).capture (chR c 0x1028) (w.word / 2 + w.block * 2 ^ 11 + w.bank * 2 ^ 17)
            put (s.evC c 9 (blockInfo w.bank w.block)) { base with adErr := true, extLate := false, extErr := l.ext }

/-- LOOKUP_DONE: sensing, priority trees and AD check of a launched stage end 40 ns after its SEARCH slot (R115,
Table 01.4). `sense` gives what the buoys of precharged blocks did. -/
def execLookupDone (c : Ch) (ctx : Fin 2048) (sense : List BlockSense) (s : State) : Out :=
  match (s.chan c).ctx? ctx with
  | none => .next s
  | some k =>
    if k.phase ≠ .launched then .next s
    else
      let s := s.atTime (k.readyAt + nsT 40)
      let s := (List.range k.looks.length).foldl (fun s i => s.finishLookup c ctx i sense) s
      .next ((s.modCtx c ctx (fun k => ({ k with lastAdAt := s.now }).advance s.now)).flowCondition c ctx)

/-- The conditions of R523: MODE NORMAL, no freeze, no retrain (which is MODE RECOVERY), and flow work within R151: at most the
128 operations that 800 M a second keep in flight over 160 ns. -/
def State.hbmTimely (s : State) (c : Ch) : Bool :=
  s.field (chR c 0xD000) 1 2 == 0 && !s.bit (chR c 0xD000) 0 && decide ((s.chan c).flow.tickets.length ≤ 128)

/-- The time by which an extended AD read that was issued is placed (R523). -/
def ExtWork.bound (e : ExtWork) : Nat := e.issuedAt.getD 0 + nsT 170

/-- The time at which a read whose data are there now was placed: now, and under the conditions of R523 no later than its bound. -/
def State.extAt (s : State) (c : Ch) (e : ExtWork) : Nat := if s.hbmTimely c then min s.now e.bound else s.now

/-- An extended AD read has come at a time: the record at the winner's AD pointer is checked and placed (R87 to R90). -/
def State.placeExt (s : State) (c : Ch) (k : Ctx) (lookup at_ : Nat) : State :=
  let p := natBits (k.adOf lookup) 0 23
  let slot := (s.chan c).hbmSlot (0x200000000 / 64 + p)
  let d := decode64 slot.data slot.sb
  let s := s.modChan c (fun x => { x with winExt := x.winExt + 1 })
  let fin (s : State) (v : BitVec 512) (err : Bool) : State := s.modCtx c k.num (fun k => { k with
    lastWorkAt := max k.lastWorkAt at_
    exts := k.exts.map (fun e => if e.lookup = lookup then { e with finished := true, data := v } else e)
    looks := if err then modAt lookup (fun l => { l with record := { l.record with extErr := true } }) k.looks else k.looks })
  let s := if d.2.1 = 0 then s else (s.count (chR c 0x4020) d.2.1).evC c 199
  match d.2.2 with
  | none => fin s d.1 false
  | some _ => fin ((s.count (chR c 0x1030) 1).evC c 11) 0 true

/-- EXT_AD_READ_DONE: a read that was issued comes, within the time of R523 and by the deadline (R88). -/
def execExtAdReadDone (c : Ch) (ctx : Fin 2048) (lookup : Fin 4) (s : State) : Out :=
  match (s.chan c).ctx? ctx with
  | none => .next s
  | some k =>
    match k.exts.find? (fun e => e.lookup == lookup.val) with
    | none => .next s
    | some e =>
      if e.issuedAt.isNone || e.finished || k.phase == .cancelled || decide (k.deadline < s.extAt c e) then .next s
      else .next (s.placeExt c k lookup (s.extAt c e))

/-! ## Result assembly -/

/-- The result of a context (R94 to R96, R141, R398, R399). -/
def Ctx.result (k : Ctx) : Result :=
  if k.action = 3 then bareResult .parseReject
  else
    { status := .ok, recs := k.looks.map (·.record), flow := if k.flow = .finished then some k.part else none,
      snap := wbit (pbFlow k.body) 13, flowLate := k.flowLate, learnFail := k.learnFail, epochRetired := k.retired,
      parseExc := k.parseExc, linkReplay := false, cancelledFlag := false, epochUsed := k.epochUsed,
      ext := k.exts.map (·.data) }

/-- When result assembly ends (R15). -/
def Ctx.assembledAt (k : Ctx) : Nat :=
  if k.noLookups then max (k.ingressAt + nsT 12) (if k.lastWorkAt = 0 then 0 else k.lastWorkAt + nsT 8)
  else if k.lastAdAt < k.lastWorkAt then k.lastWorkAt + nsT 8
  else if k.lastAdAt = 0 then k.readyAt + nsT 8
  else k.lastAdAt + nsT 10

/-- A context's result enters the channel-to-base-die FIFO, and the context is freed (R13, R169). -/
def State.egressCtx (s : State) (c : Ch) (k : Ctx) (r : Result) : State :=
  s.modChan c (fun x => { x with
    egress := x.egress ++ [⟨k.gsn, k.forwarded, r, s.now⟩]
    freed := x.freed ++ [(k.gsn, k.forwarded, s.now)]
    ctxs := dropFirst (fun q => q.num == k.num) x.ctxs })

/-- RESULT_ASSEMBLY_DONE: with DEP 0 the channel assembles the result, which is channel egress (R15, R170). -/
def execResultAssemblyDone (c : Ch) (ctx : Fin 2048) (s : State) : Out :=
  match (s.chan c).ctx? ctx with
  | none => .next s
  | some k =>
    if k.phase ≠ .assembling ∨ k.dep ≠ 0 then .next s
    else
      let t := s.atTime k.assembledAt
      if (t.chan c).cancelDue k t.now then .next s else .next (t.egressCtx c k k.result)

end Sys2Proof.Machine
end

