-- ==== Sys2Proof/Machine/Release.lean ====
section
/-! DEFINITION. Contexts after their work, cancels in the channel, the release unit and the credit generators
(chapters 06, 08, 14). -/

namespace Sys2Proof.Machine

/-- The time at which the step that a context is in at time `now` ends: its keys are formed, its launched stage is read out, its
result is assembled (R187, Table 01.4). -/
def Ctx.stepEnd (k : Ctx) (now : Nat) : Nat :=
  match k.phase with
  | .forming => k.readyAt
  | .ready => k.readyAt
  | .launched => if k.stageOpen = 0 then now else k.readyAt + nsT 40
  | .assembling => if k.dep = 0 then k.assembledAt else now
  | _ => now

/-- CANCEL_AT_CHANNEL: the cancel leaves the crossing FIFO; in that cycle every later step of its search is
suppressed (R182, R183, R186). The CANCELLED completion enters the crossing FIFO two cycles later (Table 06.3). -/
def execCancelAtChannel (c : Ch) (s : State) : Out :=
  match (s.chan c).ingress with
  | (.cancel gsn fwd, due) :: rest =>
    let s := (s.fillLaunch c (max s.now due - 1)).atTime due
    let s := s.modChan c (fun x => { x with ingress := rest })
    match (s.chan c).ctxs.find? (fun k => k.gsn == gsn && k.forwarded == fwd) with
    | none => .next s
    | some k =>
      if k.phase == .cancelled || k.action == 3 then .next s
      else
        let s := s.dropCtxFlow c k
        let s := s.modCtx c k.num (fun k => { k with phase := .cancelled, readyAt := s.now, busyTill := k.stepEnd s.now })
        .next (s.modChan c (fun x =>
          let held := match x.launch with | some l => l.num == k.num | none => false
          { x with
            launch := if held then none else x.launch, launchFree := if held then s.now else x.launchFree
            egress := x.egress ++ [⟨k.gsn, k.forwarded, bareResult .cancelled, s.now + nsT 2⟩] }))
  | _ => .next s

/-- CANCELLED_CONTEXT_FREED: no suppressed step is in progress any more; three cycles after the cancel cycle at the
earliest, 64 at the latest (R187, Table 06.3). The context counts now, by whether a commit of it had changed a record (R184). -/
def execCancelledContextFreed (c : Ch) (ctx : Fin 2048) (s : State) : Out :=
  match (s.chan c).ctx? ctx with
  | none => .next s
  | some k =>
    if k.phase ≠ .cancelled then .next s
    else
      let s := s.atTime (min (max (k.readyAt + nsT 3) k.busyTill) (k.readyAt + nsT 64))
      let s := s.modChan c (fun x => { x with
        freed := x.freed ++ [(k.gsn, k.forwarded, s.now)]
        ctxs := dropFirst (fun q => q.num == k.num) x.ctxs })
      if k.effect then
        let v := k.req.tag.toNat + k.req.hf.val * 2 ^ 16 + k.req.domain.val * 2 ^ 19 + k.req.profile.val * 2 ^ 25
        .next (((s.count (chR c 0x3108) 1).evC c 257).capture (chR c 0x3140) v)
      else .next (s.count (chR c 0x3104) 1)

/-- CONTEXT_FREE_CROSSED: the oldest freeing reaches the host-link domain; the charge and its slots in A[c] return
(R169, R383). -/
def execContextFreeCrossed (c : Ch) (s : State) : Out :=
  match (s.chan c).freed with
  | [] => .next s
  | (gsn, fwd, at_) :: rest =>
    let s := s.atTime at_
    .next (s.modChan c (fun x => { x with
      freed := rest, charges := dropFirst (fun k => k.gsn == gsn && k.forwarded == fwd) x.charges }))

/-! ## Release unit -/

/-- A record becomes complete with a result (R176). -/
def State.completeRecord (s : State) (gsn : Nat) (r : Result) : State :=
  match s.rels.find? (fun q => q.gsn == gsn && q.result.isNone) with
  | none => s.count (modR 0x2114) 1
  | some _ =>
    let rels := modFirst (fun (q : RelRec) => q.gsn == gsn && q.result.isNone)
      (fun q => { q with result := some r, completeAt := s.now }) s.rels
    { s with rels := rels }

/-- A module's own result of a group search joins its part (R226); CHANNEL_DOWN contributes an empty part (R227). -/
def State.ownPart (s : State) (gsn : Nat) (r : Result) : State :=
  let pos := s.casc.pos
  s.modPart gsn (fun p => if p.own.isSome then p
    else { p with own := some (if r.status = .channelDown then (p.empty true (fun o => o == pos), true) else (r, false)) })

/-- The search of a channel's result is a group search: forwarded to this module, or forwarded by it as the head. -/
def State.isGroupResult (s : State) (e : Egress) : Bool :=
  e.forwarded || (s.casc.pos == 0 && s.rels.any (fun r => r.gsn == e.gsn && r.group))

/-- RESULT_AT_RELEASE_UNIT: the oldest result of a channel has crossed, 12 ns after egress (Table 01.4): its record is
complete, or it is this module's own input of a group search. A result for which nothing waits is discarded (R190). -/
def execResultAtReleaseUnit (c : Ch) (s : State) : Out :=
  match (s.chan c).egress with
  | [] => .next s
  | e :: rest =>
    let s := (s.atTime (e.at_ + nsT 12)).modChan c (fun x => { x with egress := rest })
    if s.isGroupResult e then
      if s.casc.parts.any (fun p => p.gsn == e.gsn && p.own.isNone && p.run == c) then .next (s.ownPart e.gsn e.result)
      else .next (s.count (modR 0x2114) 1)
    else .next (s.completeRecord e.gsn e.result)

/-- RELEASE: the oldest record of an ordering domain, when it is complete, is released at T = max(R_own, T_prev), or
late, and handed to the egress arbiter (R174 to R178). -/
def execRelease (domain : Fin 512) (s : State) : Out :=
  match s.rels.find? (fun r => domKey r.hf r.dom == domain.val) with
  | none => .next s
  | some r =>
    match r.result with
    | none => .next s
    | some res =>
      let d := s.domain domain
      let t := max r.own d.lastAt
      let late := !r.early && decide (t < r.completeAt)
      let s := s.atTime (max t r.completeAt)
      let res := { res with linkReplay := res.linkReplay || r.replay }
      let s := (s.countIf late (modR 0x211C)).evMIf late 98
      let s := (s.count (modR 0x2100) 1).countIf (res.status == .cancelled) (modR 0x2104)
      let s := s.setDomain domain { d with released := d.released + 1, lastAt := s.now }
      let s : State := { s with
        rels := dropFirst (fun q => q.gsn == r.gsn) s.rels
        oldTags := insertNat (r.hf.val * 65536 + r.tag.toNat) s.oldTags }
      .next (s.queueResult domain (resultBytes r.hf r.dom r.tag res))

/-! ## Credits (R380 to R382) -/

/-- Slot credits outstanding for all channels. -/
def State.slotsOut (s : State) : Nat := (s.ch.toList.map (·.slotOut)).foldl (· + ·) 0

/-- The conditions of R380 for one more slot credit of a channel. -/
def State.slotCreditOk (s : State) (c : Ch) : Bool :=
  let x := s.chan c
  decide (x.slotOut < 2048 - x.charges.length) && decide (s.slotsOut < 16384 - s.rels.length)
    && !s.pwr.hold && decide (x.slotOut < max (s.field (modR 0x1040) 0 12) 64)

/-- `withhold` of R485 and R486: with GOV_EN set, while the bucket is empty or CAP_LOW; and in the ebb sequence, where the cap
is 0 (Table 19.4). -/
def State.govern (s : State) : State :=
  let h := (s.bit (modR 0x9000) 0 && (decide (s.pwr.bucket ≤ 0) || s.pwr.capLow)) || s.pwr.ebb.isSome
  let new := h && !s.pwr.hold
  let s : State := { s with pwr := { s.pwr with hold := h, heldWin := s.pwr.heldWin || h } }
  s.evMIf new 5

/-- A slot credit for channel `c` is charged to the governor's bucket (R485). -/
def State.chargeCredit (s : State) (c : Ch) : State :=
  let e := s.pwr.eEst.get c
  let s : State := { s with pwr := { s.pwr with
    bucket := s.pwr.bucket - e, charged := s.pwr.charged.set c (s.pwr.charged.get c + e) } }
  s.govern

/-- SEARCH slots of the table that starts at register `base`. -/
def State.searchCount (s : State) (c : Ch) (base : Nat) : Nat := ((List.range 256).filter (fun i => s.slotCode c base i == 0)).length

/-- The next cycle, from `n` on, whose slot may issue a credit: a SEARCH slot of the live calendar, or of the shadow that
waits for its wrap when that has fewer (R314). -/
def State.nextCreditSlot (s : State) (c : Ch) (n : Nat) : Option Nat :=
  if (s.chan c).maint.swapAt.isSome && decide (s.searchCount c 0x6400 < s.searchCount c 0x6000) && (s.chan c).power == .on then
    ((List.range 256).map (n + ·)).find? (fun i => s.slotCode c 0x6400 i == 0)
  else s.nextSlot c 0 n

/-- SLOT_CREDIT_ISSUE: the generator of channel `c` issues one credit in the channel's next SEARCH slot, for `c` or
for a channel that `c` mirrors, by rotating priority (R380). -/
def execSlotCreditIssue (c : Ch) (s : State) : Out :=
  let x := s.chan c
  let start := match x.lastCredit with | none => s.cycleAt c s.now | some l => max (s.cycleAt c s.now) (l + 1)
  match s.nextCreditSlot c start with
  | none => .next s
  | some n =>
    let serves (i : Nat) : Bool :=
      let b : Ch := Fin.ofNat 4 i
      (if s.mirrorActive b then s.mirrorOf b == some c else b == c) && s.slotCreditOk b
    match rotate x.creditRanks serves with
    | none => .next s
    | some (w, ranks) =>
      let s := (s.atTime (s.cycleTime c n)).modChan c (fun x => { x with lastCredit := some n, creditRanks := ranks })
      let b : Ch := Fin.ofNat 4 w
      .next ((s.modChan b (fun x => { x with slotOut := x.slotOut + 1, slotCr := (x.slotCr + 1) % 65536 })).chargeCredit b)

/-- GROUP_CREDIT_ISSUE: the head issues a group credit of a channel (R381): a reserved context is left, and the
downstream port holds buffer credit for a KEY frame of 92 bytes, two flits. -/
def execGroupCreditIssue (c : Ch) (s : State) : Out :=
  let x := s.chan c
  if s.cascEn && !s.pwr.hold && decide (s.casc.pos = 0) && decide (s.groupInflight c + x.grpOut + 1 ≤ s.groupCtx)
      && s.keyCredit 80 then
    .next (s.modChan c (fun x => { x with grpOut := x.grpOut + 1, grpCr := (x.grpCr + 1) % 65536 }))
  else .next s

end Sys2Proof.Machine
end

