-- ==== Sys2Proof/Machine/FlowOps.lean ====
section
/-! DEFINITION. The flow store's places and records: the coherent view of a record slot, error correction, the search
of R134, placement (R136), the flow operations (R137) and the order of buckets (R145). -/

namespace Sys2Proof.Machine

/-! ## Buckets and slots -/

/-- HBM slot index (offset / 64) of slot 0 of a bucket (R123). -/
def State.bucketSlot (s : State) (c : Ch) (t b : Nat) : Nat := s.field (ftR c t + 4) 0 15 * 4096 + 4 * b
/-- Buckets of a flow table. -/
def State.ftBuckets (s : State) (c : Ch) (t : Nat) : Nat := 2 ^ s.field (ftR c t) 1 5
/-- A table of double records (R124). -/
def State.ftDouble (s : State) (c : Ch) (t : Nat) : Bool := s.field (ftR c t) 6 2 == 3
/-- The two candidate buckets of hashes (R133). -/
def candidates (n : Nat) (h1 h2 : BitVec 32) : Nat × Nat :=
  let b1 := h1.toNat % n
  let b2 := h2.toNat % n
  (b1, if b1 = b2 then b1 ^^^ 1 else b2)
/-- The candidate buckets of a key in a flow table. -/
def State.flowBuckets (s : State) (c : Ch) (t key : Nat) : Nat × Nat :=
  candidates (s.ftBuckets c t) (s.flowHash c false t key) (s.flowHash c true t key)
/-- The slots of a bucket. -/
def slots4 (i : Nat) : List Nat := [i, i + 1, i + 2, i + 3]

/-- A record slot as the engine sees it: its line in the update cache, else HBM (R143). -/
def Chan.flowSlot (x : Chan) (i : Nat) : HbmSlot :=
  match x.flow.lines.find? (fun l => l.slot == i && l.arrived) with
  | some l => ⟨l.data, l.sb⟩
  | none => x.hbmSlot i

/-- Write a record slot: its line in the update cache, marked modified, else HBM. -/
def Chan.writeSlot (x : Chan) (now i : Nat) (v : HbmSlot) : Chan :=
  if x.flow.lines.any (fun l => l.slot == i && l.arrived) then
    let ls := modFirst (fun (l : CacheLine) => l.slot == i) (fun l =>
      { l with data := v.data, sb := v.sb, dirty := true, lastUse := now, changedAt := now }) x.flow.lines
    { x with flow := { x.flow with lines := ls } }
  else x.setHbm i v

/-- An unused pen entry. -/
def penNone : PenEntry := { data := 0, occ := 0, ageClass := 0, isStatic := false, table := 0, b1 := 0, b2 := 0, chk := 0, head := 0 }
/-- Pen entry `e`. -/
def Chan.penEntry (x : Chan) (e : Nat) : PenEntry := sget (fun _ => penNone) x.flow.pen e
/-- Store pen entry `e`. -/
def Chan.setPen (x : Chan) (e : Nat) (v : PenEntry) : Chan :=
  { x with flow := { x.flow with pen := sset (fun _ => penNone) x.flow.pen e v } }
/-- The sideband a pen entry would have in a slot. -/
def PenEntry.sb (p : PenEntry) : BitVec 64 :=
  let b6 := mkB6 p.occ.toNat p.ageClass.toNat p.isStatic
  p.chk ++ b6 ++ b6
/-- A pen entry from a slot's content. -/
def mkPen (v : HbmSlot) (t b1 b2 head : Nat) : PenEntry :=
  { data := v.data, occ := BitVec.ofNat 2 (sbOcc v.sb), ageClass := BitVec.ofNat 3 (sbAge v.sb), isStatic := sbStatic v.sb,
    table := t, b1 := b1, b2 := b2, chk := v.sb.extractLsb' 16 48, head := head }

/-! ## Errors (R161 to R164) -/

/-- A free slot: sideband bytes agree and OCC is 0 (R161, R163). -/
def HbmSlot.free (v : HbmSlot) : Bool := sbAgrees v.sb && sbOcc v.sb == 0
/-- Codeword found uncorrectable, if any. -/
def HbmSlot.badCw (v : HbmSlot) : Option Nat := (decode64 v.data v.sb).2.2
/-- An occupied slot with an uncorrectable codeword, or a sideband mismatch (R163). -/
def HbmSlot.bad (v : HbmSlot) : Bool := !v.free && (!sbAgrees v.sb || v.badCw.isSome)
/-- Codeword 0 is correct. -/
def HbmSlot.cw0 (v : HbmSlot) : Bool := v.badCw != some 0
/-- A slot with its correctable codewords corrected and their checks fresh, and the number corrected (R162). -/
def HbmSlot.fixed (v : HbmSlot) : HbmSlot × Nat :=
  if v.free then (v, 0)
  else
    let l := toBytes 64 v.data.toNat
    let one (m : List Byte) (k : BitVec 24) : List Byte × BitVec 24 × Nat := match rsDecode m k with
      | .corrected m' => (m', rsChecks m', 1)
      | _ => (m, k, 0)
    let a := one (l.take 32) (v.sb.extractLsb' 40 24)
    let b := one (l.drop 32) (v.sb.extractLsb' 16 24)
    (⟨BitVec.ofNat 512 (ofBytes (a.1 ++ b.1)), a.2.1 ++ b.2.1 ++ v.sb.extractLsb' 0 16⟩, a.2.2 + b.2.2)

/-- Corrected codewords are counted and reported (R162). -/
def State.countFixed (s : State) (c : Ch) (n : Nat) : State := if n = 0 then s else (s.count (chR c 0x4020) n).evC c 199

/-- Correct a record slot that is read. -/
def State.fixSlot (s : State) (c : Ch) (i : Nat) : State :=
  let v := ((s.chan c).flowSlot i).fixed
  if v.2 = 0 then s else (s.modChan c (fun x => x.writeSlot s.now i v.1)).countFixed c v.2
/-- Correct a bucket's slots that are read. -/
def State.fixBucket (s : State) (c : Ch) (i0 : Nat) : State := [i0, i0 + 1, i0 + 2, i0 + 3].foldl (fun s i => s.fixSlot c i) s
/-- Correct a pen entry that is read. -/
def State.fixPen (s : State) (c : Ch) (e : Nat) : State :=
  let p := (s.chan c).penEntry e
  let v := (⟨p.data, p.sb⟩ : HbmSlot).fixed
  if v.2 = 0 then s
  else (s.modChan c (fun x => x.setPen e { p with data := v.1.data, chk := v.1.sb.extractLsb' 16 48 })).countFixed c v.2

/-- A place of a record: a slot, found by way of b1 (`loc` 1) or b2 (2), or a pen entry; `tail` is the place of the
tail of a double record, else the same number. -/
inductive FPlace
  | slot (loc i : Nat)
  | pen (e tail : Nat)
deriving DecidableEq, Repr

/-- LOC of a place (R141). -/
def FPlace.loc : FPlace → Nat
  | .slot l _ => l
  | .pen _ _ => 3

/-- The content of a place. -/
def Chan.at (x : Chan) : FPlace → HbmSlot
  | .slot _ i => x.flowSlot i
  | .pen e _ => ⟨(x.penEntry e).data, (x.penEntry e).sb⟩

/-- An uncorrectable record is counted, captured and reported (R164, R154, R165). -/
def State.countBad (s : State) (c : Ch) (p : FPlace) : State :=
  let v := (s.chan c).at p
  let addr := match p with | .slot _ i => i | .pen e _ => e
  let pen := match p with | .slot _ _ => 0 | .pen _ _ => 1
  let log := addr % 2 ^ 28 + (v.badCw.getD 0) * 2 ^ 28 + b2n (!sbAgrees v.sb) * 2 ^ 29 + pen * 2 ^ 30
  ((s.count (chR c 0x4024) 1).capture (chR c 0x4028) log).evC c 200

/-! ## Finding a flow (R134, R163, R164) -/

/-- What a flow operation looks for: its table, key and candidate buckets. -/
structure FlowKey where
  table : Nat
  double : Bool
  key : Nat
  b1 : Nat
  b2 : Nat
  s1 : Nat
  s2 : Nat
deriving DecidableEq, Repr

/-- The search of a key in a table. -/
def State.flowKey (s : State) (c : Ch) (t key b1 b2 : Nat) : FlowKey :=
  { table := t, double := s.ftDouble c t, key := key, b1 := b1, b2 := b2, s1 := s.bucketSlot c t b1, s2 := s.bucketSlot c t b2 }

/-- KEY field of the single record or the head. -/
def FlowKey.headKey (q : FlowKey) : Nat := if q.double then q.key >>> 320 else q.key
/-- KEY field of the tail. -/
def FlowKey.tailKey (q : FlowKey) : Nat := q.key % 2 ^ 320

/-- The candidate places in the order of R134. -/
def Chan.places (x : Chan) (q : FlowKey) : List FPlace :=
  (slots4 q.s1).map (.slot 1 ·) ++ (slots4 q.s2).map (.slot 2 ·)
    ++ (x.flow.pen.filter (fun p => p.2.table == q.table && p.2.b1 == q.b1 && p.2.b2 == q.b2)).map (fun p =>
        .pen p.1 (match x.flow.pen.find? (fun r => r.2.occ == 3 && r.2.head == p.1) with | some r => r.1 | none => p.1))

/-- The tail place of a head. -/
def FPlace.tailOf : FPlace → FPlace
  | .slot l i => .slot l (i + 1)
  | .pen _ t => .pen t t

/-- The head of the record that a place belongs to: a tail belongs to its head's record. -/
def Chan.headOf (x : Chan) (p : FPlace) : FPlace :=
  let v := x.at p
  if sbAgrees v.sb && sbOcc v.sb == 3 then
    match p with
    | .slot l i => .slot l (i - 1)
    | .pen e t => .pen (x.penEntry e).head t
  else p

/-- The record of a place, as head or single, has the key in its KEY field. -/
def Chan.headMatches (x : Chan) (q : FlowKey) (p : FPlace) : Bool :=
  let v := x.at p
  sbAgrees v.sb && sbOcc v.sb == (if q.double then 2 else 1) && frKey v.data == q.headKey

/-- A readable record of a place is the flow; for a double record the tail matches too. -/
def Chan.isFlow (x : Chan) (q : FlowKey) (p : FPlace) : Bool :=
  !(x.at p).bad && x.headMatches q p
    && (!q.double || (let t := x.at p.tailOf; !t.bad && sbOcc t.sb == 3 && frKey t.data == q.tailKey))

/-- An uncorrectable record is excluded (R164); one in the slot of the tail of a matching head is not (R163). -/
def Chan.excludes (x : Chan) (q : FlowKey) (p : FPlace) : Bool :=
  let h := x.at (x.headOf p)
  let v := x.at p
  let tailOfMatch := match p with
    | .slot l i => q.double && i % 2 == 1 && !sbAgrees v.sb && x.headMatches q (.slot l (i - 1))
    | .pen _ _ => false
  h.cw0 && frKey h.data >>> 64 != q.headKey >>> 64 && !tailOfMatch

/-- What the search of R134 finds. -/
inductive Found
  | eccErr
  | absent
  | at_ (p : FPlace)
deriving DecidableEq, Repr

/-- The search of R134 over the candidate places. -/
def Chan.find (x : Chan) (q : FlowKey) : Found :=
  let ps := x.places q
  if ps.any (fun p => (x.at p).bad && !x.excludes q p) then .eccErr
  else match ps.find? (fun p => x.isFlow q p) with
    | some p => .at_ p
    | none => .absent

/-- The reads of a flow operation: corrections, and the report of every uncorrectable candidate (R162, R164): DRAM_UNCORR_CNT
counts each slot and pen entry: DESIGN CHOICE (log entry 62). -/
def State.readPlaces (s : State) (c : Ch) (q : FlowKey) : State :=
  let s := (s.fixBucket c q.s1).fixBucket c q.s2
  let s := ((s.chan c).places q).foldl (fun s p => match p with | .pen e _ => s.fixPen c e | .slot _ _ => s) s
  (((s.chan c).places q).filter (fun p => ((s.chan c).at p).bad)).foldl (fun s p => s.countBad c p) s

/-! ## Placement (R136) and writing -/

/-- The lowest free place of a bucket: a free slot, or for a double record an aligned pair of free slots. -/
def Chan.freeIn (x : Chan) (double : Bool) (i0 : Nat) : Option Nat :=
  if double then [i0, i0 + 2].find? (fun i => (x.flowSlot i).free && (x.flowSlot (i + 1)).free)
  else (slots4 i0).find? (fun i => (x.flowSlot i).free)

/-- The lowest unused pen entries: DESIGN CHOICE, R136 names no entry (log entry 10). -/
def Chan.freePen (x : Chan) (double : Bool) : Option (Nat × Nat) :=
  let free := (List.range 4096).filter (fun e => (x.penEntry e).occ == 0)
  match free with
  | a :: t => if double then (match t with | b :: _ => some (a, b) | [] => none) else some (a, a)
  | [] => none

/-- The first free place of R136. -/
def Chan.freePlace (x : Chan) (q : FlowKey) : Option FPlace :=
  match x.freeIn q.double q.s1 with
  | some i => some (.slot 1 i)
  | none => match x.freeIn q.double q.s2 with
    | some i => some (.slot 2 i)
    | none => (x.freePen q.double).map (fun p => .pen p.1 p.2)

/-- Write a record with a sideband at a place; a double record gets its tail (R129). -/
def Chan.putFlow (x : Chan) (now : Nat) (q : FlowKey) (p : FPlace) (data : BitVec 512) (age : Nat) (st : Bool) : Chan :=
  let h : HbmSlot := ⟨data, mkSb data (mkB6 (if q.double then 2 else 1) age st)⟩
  let td := mkFlow q.tailKey 0 0 0 0 0
  let t : HbmSlot := ⟨td, mkSb td (mkB6 3 age st)⟩
  match p with
  | .slot _ i =>
    let x := x.writeSlot now i h
    if q.double then x.writeSlot now (i + 1) t else x
  | .pen e e2 =>
    let x := x.setPen e (mkPen h q.table q.b1 q.b2 e)
    if q.double then x.setPen e2 (mkPen t q.table q.b1 q.b2 e) else x

/-- Free the record of a place. A freed slot is written all zero: a free slot with valid checks (R128). -/
def Chan.dropFlow (x : Chan) (now : Nat) (double : Bool) (p : FPlace) : Chan :=
  match p with
  | .slot _ i =>
    let x := x.writeSlot now i ⟨0, 0⟩
    if double then x.writeSlot now (i + 1) ⟨0, 0⟩ else x
  | .pen e e2 =>
    let x := x.setPen e penNone
    if double then x.setPen e2 penNone else x

/-- FT_FLOWS changes by one flow. -/
def State.addFlows (s : State) (c : Ch) (t : Nat) (up : Bool) : State :=
  let n := s.field (ftR c t + 8) 0 28
  s.setField (ftR c t + 8) 0 28 (if up then n + 1 else n - 1)

/-- Pen entries in use. -/
def Chan.penUsed (x : Chan) : Nat := x.flow.pen.length

/-- The pen's events between two states (R155, R167). -/
def State.penEvents (old s : State) (c : Ch) : State :=
  let a := (old.chan c).penUsed
  let b := (s.chan c).penUsed
  let high := decide (a < 3072) && decide (3072 ≤ b)
  let s := (s.evCIf high c 197).evCIf (decide (a < 4096) && decide (4096 ≤ b)) c 198
  let drained := decide (0 < a) && decide (b = 0) && (s.chan c).flow.penHigh
  let s := s.evCIf drained c 204
  s.modFlow c (fun e => { e with penHigh := (e.penHigh || high) && !drained })

/-! ## The flow operations (R137 to R141) -/

/-- Counting: one packet more, `len` bytes more, LAST_SEEN now. -/
def countFlow (d : BitVec 512) (len tick : Nat) : BitVec 512 :=
  mkFlow (frKey d) (frPkt d + 1) (frBytes d + len) tick (frState d) (frAction d)

/-- The length of R139. -/
def flowLen (b : List Word) (rkey : Nat) : Nat :=
  let a := pw b 7
  if pbFlowOp b = 4 then (if wbit a 31 then natBits rkey (fld a 21 10) 16 else 0)
  else if wbit a 10 then natBits rkey (fld a 0 10) 16 else 0

/-- What a hit does: the FSTATUS, the record after it, its AGE_CLASS, and whether it changed the record (Table 05.4). -/
def flowHit (b : List Word) (len tick : Nat) (d : BitVec 512) (age : Nat) : Nat × BitVec 512 × Nat × Bool :=
  let a := pw b 7
  match pbFlowOp b with
  | 2 => (1, countFlow d len tick, age, true)
  | 3 => (1, countFlow d len tick, age, true)
  | 4 =>
    if frState d = fld a 0 8 then
      let d1 := mkFlow (frKey d) (frPkt d) (frBytes d) (frSeen d) (fld a 8 8) (frAction d)
      (1, if wbit a 16 then countFlow d1 len tick else d1, if wbit a 17 then fld a 18 3 else age, true)
    else (5, d, age, false)
  | 5 => (1, mkFlow (frKey d) (frPkt d) (frBytes d) tick (frState d) (frAction d), age, true)
  | _ => (1, d, age, false)

/-- A flow part that shows a record. -/
def partOf (fstatus loc : Nat) (d : BitVec 512) : FlowPart :=
  { fstatus := BitVec.ofNat 4 fstatus, loc := BitVec.ofNat 2 loc, state := BitVec.ofNat 8 (frState d),
    action := BitVec.ofNat 64 (frAction d), pkt := BitVec.ofNat 40 (frPkt d), bytes := BitVec.ofNat 48 (frBytes d),
    lastSeen := BitVec.ofNat 32 (frSeen d) }

/-! ## The order of buckets (R144 to R146) -/

/-- The buckets that an operation names. -/
def Ticket.buckets (t : Ticket) : List Nat := t.b1 :: t.b2 :: t.extra
/-- Two operations share a bucket. -/
def Ticket.shares (a b : Ticket) : Bool := a.table == b.table && a.buckets.any (fun i => b.buckets.contains i)
/-- The record slots whose lines an operation needs. -/
def State.ticketSlots (s : State) (c : Ch) (t : Ticket) : List Nat :=
  if t.lines then (t.buckets.map (fun b => slots4 (s.bucketSlot c t.table b))).flatten else []
/-- No earlier operation on the same buckets is unfinished (R145). -/
def Chan.isFirst (x : Chan) (t : Ticket) : Bool :=
  (x.flow.tickets.takeWhile (fun k => k.id != t.id)).all (fun k => !k.shares t)
/-- The earliest time for a commit on a bucket: two cycles after the last one (R146). -/
def Chan.bucketReady (x : Chan) (slot : Nat) : Nat :=
  match x.flow.bucketCommits.find? (fun p => p.1 == slot / 4) with
  | some p => p.2 + nsT 2
  | none => 0
/-- The earliest commit time of a granted operation whose lines have come (R523, R146, R151). -/
def State.ticketTime (s : State) (c : Ch) (t : Ticket) (create : Bool) : Nat :=
  let x := s.chan c
  let base := max (t.linesAt + nsT 2) (x.flow.lastCommit + nsT 1)
  let b := t.buckets.foldl (fun m i => max m (x.bucketReady (s.bucketSlot c t.table i))) 0
  max (max base b) (if create then x.flow.lastCreate + nsT 5 else 0)
/-- A commit on bucket slots happens now (R146). -/
def State.noteCommit (s : State) (c : Ch) (slots : List Nat) (create : Bool) : State :=
  s.modFlow c (fun e =>
    let kept := e.bucketCommits.filter (fun p => decide (s.now < p.2 + nsT 2))
    { e with
      lastCommit := s.now, lastCreate := if create then s.now else e.lastCreate
      bucketCommits := slots.foldl (fun m i => sset (fun _ => 0) m (i / 4) s.now) kept })
/-- An operation takes its place in the order of its buckets (R145). -/
def State.addTicket (s : State) (c : Ch) (tk : Ticket) : State :=
  s.modFlow c (fun e => { e with tickets := e.tickets ++ [{ tk with id := e.nextTicket }], nextTicket := e.nextTicket + 1 })

/-- That of a search or of a mailbox command, by its key. -/
def State.openTicket (s : State) (c : Ch) (owner : FlowOwner) (t : Nat) (key : Nat) (joined : Bool) : State :=
  let b := s.flowBuckets c t key
  s.addTicket c
    { id := 0, owner := owner, table := t, key := BitVec.ofNat 640 key, h1 := s.flowHash c false t key, b1 := b.1, b2 := b.2
      extra := [], lines := true, arrivedAt := s.now, granted := none, linesAt := 0, joined := joined }

/-- That of a step on two buckets (or twice one) which names no key: one of aging, relocation, FLOW_FLUSH or FLOW_RELOCATE, in
the cycle in which it issues its request (R145). A step on a pen entry alone waits for no line. -/
def State.openStep (s : State) (c : Ch) (owner : FlowOwner) (t b1 b2 : Nat) (lines : Bool) : State :=
  s.addTicket c
    { id := 0, owner := owner, table := t, key := 0, h1 := 0, b1 := b1, b2 := b2, extra := [], lines := lines
      arrivedAt := s.now, granted := if lines then none else some s.now, linesAt := s.now, joined := false }

/-- The bucket of a record slot. -/
def State.bucketOf (s : State) (c : Ch) (t i : Nat) : Nat := (i - s.bucketSlot c t 0) / 4

end Sys2Proof.Machine
end

