-- ==== Sys2Proof/Machine/Flow.lean ====
section
/-! DEFINITION. The flow engine's commands: bucket arrival, line groups and lines, commits, deadlines, write-back,
relocation and aging (chapter 05). -/

namespace Sys2Proof.Machine

/-! ## Arrival and lines -/

/-- The time at which the hashes of a context are known, once its flow key is formed (R523, R115): 14 ns after
ingress, or 6 ns after the last AD that its key map reads; then 4 ns for the hashes. -/
def Ctx.hashAt (k : Ctx) : Option Nat :=
  if k.flow ≠ .waiting ∨ k.flowVerdict = some false then none
  else
    let deps := kmDeps (pbFkm k.body)
    if deps = [] then some (k.ingressAt + nsT 18)
    else
      let l := deps.filterMap (fun m => k.looks[m]?)
      if l.all (·.finished) then some (l.foldl (fun a x => max a x.doneAt) 0 + nsT 10) else none

/-- The flow operation that arrives first among two: earlier hashes, then earlier ingress (R145). -/
def arrivesBefore (a b : Ctx × Nat) : Bool :=
  if a.2 = b.2 then decide (a.1.ingressAt < b.1.ingressAt) else decide (a.2 < b.2)

/-- A learn joins when a learn of its key has arrived and not finished (R150). -/
def Chan.joins (x : Chan) (t key : Nat) : Bool :=
  x.flow.tickets.any (fun k => k.table == t && k.key.toNat == key && (match k.owner with
    | .ctx n => (match x.ctx? n with | some q => pbFlowOp q.body == 2 | none => false)
    | _ => false))

/-- FLOW_BUCKET_ARRIVAL: of the searches whose flow keys are formed, the first one's hashes become known; it takes its
place in the order of its two buckets (R145). -/
def execFlowBucketArrival (c : Ch) (s : State) : Out :=
  let x := s.chan c
  let cands := (x.ctxs.filter (fun k => k.phase != .cancelled)).filterMap (fun k => (k.hashAt).map (fun t => (k, t)))
  match bestBy arrivesBefore cands with
  | none => .next s
  | some (k, t) =>
    if k.deadline < t then .next s
    else
      let s := s.atTime t
      let table := fld (pbFlow k.body) 3 4
      let key := flowKeyOf k.body k.req k.adOf
      let joined := pbFlowOp k.body == 2 && (s.chan c).joins table key
      let id := (s.chan c).flow.nextTicket
      let s := (s.countIf joined (chR c 0x441C)).openTicket c (.ctx k.num) table key joined
      .next (s.modCtx c k.num (fun k => { k with flow := .arrived id }))

/-- The cache set of a slot (R143). -/
def cacheSet (slot : Nat) : Nat := slot % 1024

/-- A line is held while an unfinished operation needs it (R144); none that an operation is waiting on is evicted (R143). -/
def State.lineHeld (s : State) (c : Ch) (slot : Nat) : Bool :=
  (s.chan c).flow.tickets.any (fun t => (s.ticketSlots c t).contains slot)

/-- The slots of an operation that are not in the cache. -/
def State.missingSlots (s : State) (c : Ch) (t : Ticket) : List Nat :=
  (s.ticketSlots c t).filter (fun i => (s.chan c).flow.lines.all (fun l => l.slot != i))

/-- Every set that a group needs has room, beyond what earlier waiting groups have reserved (R144). -/
def State.groupFits (s : State) (c : Ch) (t : Ticket) : Bool :=
  let x := s.chan c
  let miss := s.missingSlots c t
  let earlier := ((x.flow.tickets.takeWhile (fun k => k.id != t.id)).filter (fun k => k.granted.isNone)).map (s.missingSlots c)
  (miss.map cacheSet).dedup.all (fun st =>
    let here := x.flow.lines.filter (fun l => cacheSet l.slot == st)
    let room := 16 - here.length
      + (here.filter (fun l => !s.lineHeld c l.slot)).length
    let reserved := (earlier.map (fun m => (m.filter (fun i => cacheSet i == st)).length)).foldl (· + ·) 0
    let need := (miss.filter (fun i => cacheSet i == st)).length
    decide (reserved + need ≤ room))

/-- A modified line goes back to HBM (R143). -/
def Chan.flushLine (x : Chan) (l : CacheLine) : Chan := if l.dirty then x.setHbm l.slot ⟨l.data, l.sb⟩ else x

/-- Bring one slot's line into the cache, evicting the least recently used line of a full set that no operation needs
(R143). Until it arrives, `changedAt` is the time of its request. -/
def State.fillLine (s : State) (c : Ch) (slot : Nat) : State :=
  let x := s.chan c
  let here := x.flow.lines.filter (fun l => cacheSet l.slot == cacheSet slot)
  let victim := if here.length < 16 then none
    else bestBy (fun (a b : CacheLine) => decide (a.lastUse < b.lastUse))
      (here.filter (fun l => !s.lineHeld c l.slot))
  let x := match victim with
    | none => x
    | some v =>
      let x := x.flushLine v
      { x with flow := { x.flow with lines := dropFirst (fun l => l.slot == v.slot) x.flow.lines } }
  let new : CacheLine := ⟨slot, 0, 0, false, false, s.now, s.now⟩
  s.setChan c { x with flow := { x.flow with lines := x.flow.lines ++ [new] } }

/-- Every line of an operation has arrived. -/
def State.linesHere (s : State) (c : Ch) (t : Ticket) : Bool :=
  (s.ticketSlots c t).all (fun i => (s.chan c).flow.lines.any (fun l => l.slot == i && l.arrived))

/-- Note the time at which the lines of granted operations became available. -/
def State.noteLines (s : State) (c : Ch) (t : Nat) : State :=
  s.modFlow c (fun e => { e with tickets := e.tickets.map (fun k =>
    if k.granted.isSome && k.lines && k.linesAt == 0 && s.linesHere c k then { k with linesAt := t } else k) })

/-- HBM answers for a line. An occupied slot is corrected on the way (R162). -/
def State.arriveLine (s : State) (c : Ch) (slot at_ : Nat) : State :=
  let v := (s.chan c).hbmSlot slot
  let s := s.modFlow c (fun e => { e with
    lines := modFirst (fun l => l.slot == slot) (fun l => { l with data := v.data, sb := v.sb, arrived := true }) e.lines })
  (s.fixSlot c slot).noteLines c at_

/-- Write one modified line back to HBM (R143). -/
def State.writeLine (s : State) (c : Ch) (slot : Nat) : State :=
  match (s.chan c).flow.lines.find? (fun l => l.slot == slot && l.dirty) with
  | none => s
  | some l => s.modChan c (fun x =>
      let x := x.flushLine l
      { x with flow := { x.flow with lines := modFirst (fun q => q.slot == slot) (fun q => { q with dirty := false }) x.flow.lines } })

/-- What has happened by now: lines requested 160 ns ago have arrived while the conditions of R523 hold, and modified lines go
back to HBM within 1 ms of their last change (R143). -/
def State.flowDue (s : State) (c : Ch) : State :=
  let lines := (s.chan c).flow.lines
  let come := if s.hbmTimely c then lines.filter (fun l => !l.arrived && decide (l.changedAt + nsT 160 ≤ s.now)) else []
  let s := come.foldl (fun s l => s.arriveLine c l.slot (l.changedAt + nsT 160)) s
  (lines.filter (fun l => l.dirty && decide (l.changedAt + msT 1 ≤ s.now))).foldl (fun s l => s.writeLine c l.slot) s

/-- LINE_GROUP_GRANT: the first waiting group, in the order of requests, whose sets have room gets its lines (R144);
lines in the cache are available in the next cycle, the others are requested from HBM. -/
def execLineGroupGrant (c : Ch) (s : State) : Out :=
  let s := s.flowDue c
  match (s.chan c).flow.tickets.find? (fun t => t.granted.isNone && s.groupFits c t) with
  | none => .next s
  | some t =>
    let own := s.ticketSlots c t
    let miss := s.missingSlots c t
    let s := s.modChan c (fun x => { x with winFlow := x.winFlow + (if miss = [] then 0 else 1) })
    let s := miss.dedup.foldl (fun s i => s.fillLine c i) s
    let s := s.modFlow c (fun e => { e with
      tickets := modFirst (fun k => k.id == t.id) (fun k => { k with granted := some s.now }) e.tickets
      lines := e.lines.map (fun l => if own.contains l.slot then { l with lastUse := s.now } else l) })
    .next (s.noteLines c (s.now + nsT 1))

/-- Record slots of a channel's flow region: 8 GiB of 64 bytes (R11). -/
def flowSlots : Nat := 2 ^ 27

/-- LINE_ARRIVAL: HBM answers for one line. -/
def execLineArrival (c : Ch) (slot : Nat) (s : State) : Out :=
  if flowSlots ≤ slot then .fault .noSuchFlowSlot
  else
    let s := s.flowDue c
    if (s.chan c).flow.lines.any (fun l => l.slot == slot && !l.arrived) then .next (s.arriveLine c slot s.now) else .next s

/-- CACHE_WRITEBACK: a modified line is written back to HBM (R143). -/
def execCacheWriteback (c : Ch) (slot : Nat) (s : State) : Out :=
  if flowSlots ≤ slot then .fault .noSuchFlowSlot else .next ((s.flowDue c).writeLine c slot)

/-! ## Commit -/

/-- When what a search's operation waits for is known: its condition and the AD that its action reads (R117, R140,
R523); `none` before. -/
def Ctx.flowReadyAt (k : Ctx) : Option Nat :=
  let look (m : Nat) : Nat := match k.looks[m]? with | some l => l.doneAt | none => 0
  let condAt := if fld (pbFlow k.body) 9 2 = 0 then 0 else look (fld (pbFlow k.body) 11 2)
  let src := fld (pw k.body 7) 15 3
  let reads := pbFlowOp k.body == 2 && decide (4 ≤ src)
  let adDone := match k.looks[src - 4]? with | some l => l.finished | none => true
  if k.flowVerdict ≠ some true ∨ (reads ∧ !adDone) then none
  else some (max condAt (if reads then look (src - 4) else 0))

/-- The action data of a learned flow (R140). -/
def Ctx.learnAction (k : Ctx) : Nat :=
  let src := fld (pw k.body 7) 15 3
  if 4 ≤ src then k.adOf (src - 4) else 0

/-- The outcome of a search's operation on what it found (R137, R155): the flow part, and the state after it. -/
def State.flowOp (s : State) (c : Ch) (k : Ctx) (q : FlowKey) (found : Found) : FlowPart × Bool × State :=
  let x := s.chan c
  let a := pw k.body 7
  let len := flowLen k.body (effKey k.req (fld (pw k.body 0) 3 2))
  match found with
  | .eccErr => (zeroPart 8, false, s)
  | .at_ p =>
    let v := x.at p
    let r := flowHit k.body len s.flowTick v.data (sbAge v.sb)
    let s' := if r.2.2.2 then s.setChan c (x.putFlow s.now q p r.2.1 r.2.2.1 (sbStatic v.sb)) else s
    (partOf r.1 p.loc r.2.1, r.2.2.2, s')
  | .absent =>
    if pbFlowOp k.body = 2 ∧ s.bit (chR c 0x4000) 1 then
      match x.freePlace q with
      | none => (zeroPart 7, false, s)
      | some p =>
        let d := mkFlow q.headKey 1 len s.flowTick (fld a 18 8) k.learnAction
        let s' := (s.setChan c (x.putFlow s.now q p d (fld a 11 3) false)).addFlows c q.table true
        (partOf (if p.loc = 3 then 4 else 3) p.loc d, true, s')
    else (zeroPart 2, false, s)

/-- An operation may commit: its lines are granted and here, and no earlier operation on its buckets is unfinished. -/
def State.ticketReady (s : State) (c : Ch) (t : Ticket) : Bool :=
  t.granted.isSome && s.linesHere c t && (s.chan c).isFirst t

/-- The operation must create a flow. -/
def State.mustCreate (s : State) (c : Ch) (k : Ctx) (q : FlowKey) (found : Found) : Bool :=
  found == .absent && pbFlowOp k.body == 2 && s.bit (chR c 0x4000) 1 && ((s.chan c).freePlace q).isSome

/-- FLOW_COMMIT: a search's operation that is first on its buckets, with its lines, condition and action known, takes
effect in one cycle (R146, R523), no later than its deadline (R148) and not in its cancel cycle (R182). -/
def execFlowCommit (c : Ch) (ticket : Nat) (s : State) : Out :=
  let s := s.flowDue c
  match (s.chan c).flow.tickets.find? (fun t => t.id == ticket) with
  | none => .next s
  | some tk =>
    match tk.owner with
    | .mailbox _ | .age | .agePen _ | .reloc _ => .next s
    | .ctx n =>
      match (s.chan c).ctx? n with
      | none => .next s
      | some k =>
        match k.flowReadyAt with
        | none => .next s
        | some ready =>
          if !s.ticketReady c tk then .next s
          else
            let q := s.flowKey c tk.table tk.key.toNat tk.b1 tk.b2
            let s1 := s.readPlaces c q
            let found := (s1.chan c).find q
            let create := s1.mustCreate c k q found
            let t := max (s.ticketTime c tk create) (ready + nsT 2)
            if k.deadline < max t s.now ∨ (s.chan c).cancelDue k (max t s.now) then .next s
            else
              let s1 := s1.atTime t
              let r := s1.flowOp c k q found
              let s2 := (r.2.2.noteCommit c [q.s1, q.s2] create).modCtx c n (fun k => { k with effect := k.effect || r.2.1 })
              .next (State.penEvents s1 (s2.endFlow c k r.1) c)

/-- Extended AD reads that were issued 170 ns before a search's deadline have come by it, under the conditions of R523. -/
def State.extDue (s : State) (c : Ch) (k : Ctx) : State :=
  let come := k.exts.filter (fun e => !e.finished && e.issuedAt.isSome && s.hbmTimely c && decide (e.bound ≤ k.deadline))
  come.foldl (fun s e => s.placeExt c k e.lookup e.bound) s

/-- FLOW_SLOT_DEADLINE: at a search's deadline its unfinished flow work is dropped whole (R148), and so is each of its
unfinished extended AD reads (R88). -/
def execFlowSlotDeadline (c : Ch) (ctx : Fin 2048) (s : State) : Out :=
  let s : State := match (s.chan c).ctx? ctx with
    | some k => if k.phase == .cancelled then s else s.extDue c k
    | none => s
  match (s.chan c).ctx? ctx with
  | none => .next s
  | some k =>
    let late := (k.exts.filter (fun e => !e.finished)).map (·.lookup)
    if k.phase == .cancelled || (!k.flowPending && late.isEmpty) then .next s
    else
      let s := s.atTime k.deadline
      let s := if k.flowPending then s.endFlow c k (zeroPart 6) else s
      let s := late.foldl (fun s _ => (s.count (chR c 0x102C) 1).evC c 10) s
      .next (s.modCtx c ctx (fun k => { k with
        lastWorkAt := s.now
        exts := k.exts.map (fun e => { e with finished := true })
        looks := k.looks.zipIdx.map (fun p => if late.contains p.2 then
          { p.1 with record := { p.1.record with extLate := true } } else p.1) }))

/-! ## The background engines (R145, R154, R158) -/

/-- The background engines of the flow store run: the flow engine is enabled and not in its safe state, and the channel is ON,
or IDLE in the pass that resumes it. They stop once a request for IDLE waits and no context is in use (R358). -/
def State.flowRuns (s : State) (c : Ch) : Bool :=
  let x := s.chan c
  s.bit (chR c 0x4000) 0 && !s.flowSafe c
    && (x.power == .on && !(x.req == some .idle && x.charges.isEmpty) || x.power == .idle && x.maint.resume)

/-- Operations of an engine. -/
def FlowOwner.isAge (o : FlowOwner) : Bool := o == .age
/-- Pen examinations. -/
def FlowOwner.isPen : FlowOwner → Bool
  | .agePen _ => true
  | _ => false
/-- Relocation turns. -/
def FlowOwner.isReloc : FlowOwner → Bool
  | .reloc _ => true
  | _ => false
/-- Operations of neither a search nor a mailbox command. -/
def FlowOwner.isEngine (o : FlowOwner) : Bool := o.isAge || o.isPen || o.isReloc

/-- Operations of a stopped engine leave the order of their buckets. -/
def Chan.dropEngine (x : Chan) (p : FlowOwner → Bool) : Chan :=
  { x with flow := { x.flow with tickets := x.flow.tickets.filter (fun t => !p t.owner) } }

/-- An operation may commit, no later than the engine's next request falls, if it has one. -/
def State.readyBy (s : State) (c : Ch) (next : Option Nat) (k : Ticket) : Bool :=
  s.ticketReady c k && (match next with
    | some u => decide (max s.now (s.ticketTime c k false) ≤ max s.now u)
    | none => true)

/-- The first operation of an engine that may commit by then. -/
def State.engineReady (s : State) (c : Ch) (p : FlowOwner → Bool) (next : Option Nat) : Option Ticket :=
  (s.chan c).flow.tickets.find? (fun k => p k.owner && s.readyBy c next k)

/-- A record of a slot has the key from which its buckets follow: KEY of the head, then KEY of the tail. -/
def Chan.residentKey (x : Chan) (double : Bool) (i : Nat) : Nat :=
  let h := frKey (x.flowSlot i).data
  if double then h * 2 ^ 320 + frKey (x.flowSlot (i + 1)).data else h

/-- The other candidate bucket of a resident record (R131, R133). -/
def State.otherBucket (s : State) (c : Ch) (t b : Nat) (double : Bool) (i : Nat) : Nat :=
  let p := s.flowBuckets c t ((s.chan c).residentKey double i)
  if p.1 = b then p.2 else p.1

/-- Which of the places of a double record is beyond correction: the head, else the tail. -/
def Chan.badPlace (x : Chan) (r : FPlace × Bool) : FPlace := if (x.at r.1).bad then r.1 else r.1.tailOf

/-- Correct a pen record that is read, with its tail. -/
def State.fixPenRecord (s : State) (c : Ch) (p : FPlace) : State :=
  match p with
  | .pen e e2 => if e = e2 then s.fixPen c e else (s.fixPen c e).fixPen c e2
  | .slot _ _ => s

/-! ## Relocation (R154) -/

/-- A displacement: the resident at a slot and the free slot it moves to. -/
structure Move where
  src : Nat
  dst : Nat
deriving DecidableEq, Repr

/-- Step 2: the first single record of b1 and then b2 whose other bucket has a free slot. -/
def State.displaceOne (s : State) (c : Ch) (q : FlowKey) : Option (Nat × Move) :=
  let x := s.chan c
  let cand (loc i : Nat) : Option (Nat × Move) :=
    let v := x.flowSlot i
    if v.bad || sbOcc v.sb != 1 then none
    else (x.freeIn false (s.bucketSlot c q.table (s.otherBucket c q.table (if loc = 1 then q.b1 else q.b2) false i))).map
      (fun j => (loc, ⟨i, j⟩))
  ((slots4 q.s1).map (cand 1) ++ (slots4 q.s2).map (cand 2)).findSome? id

/-- Step 3: whether the pair at a slot qualifies, with the moves that free it. -/
def State.displacePair (s : State) (c : Ch) (q : FlowKey) (loc i : Nat) : Option (Nat × Nat × List Move) :=
  let x := s.chan c
  let one (acc : Option (List Move)) (j : Nat) : Option (List Move) :=
    match acc with
    | none => none
    | some l =>
      let v := x.flowSlot j
      if v.free then some l
      else if v.bad || sbOcc v.sb != 1 then none
      else
        let o := s.bucketSlot c q.table (s.otherBucket c q.table (if loc = 1 then q.b1 else q.b2) false j)
        match (slots4 o).find? (fun m => (x.flowSlot m).free && m != i && m != i + 1 && l.all (fun k => k.dst != m)) with
        | some m => some (l ++ [⟨j, m⟩])
        | none => none
  ([i, i + 1].foldl one (some [])).map (fun l => (loc, i, l))

/-- Move a resident record, sideband and all. -/
def Chan.applyMove (x : Chan) (now : Nat) (m : Move) : Chan :=
  (x.writeSlot now m.dst (x.flowSlot m.src)).writeSlot now m.src ⟨0, 0⟩

/-- The pen record whose turn is next: round robin over the entries, heads and single records only, and none whose turn is not
over. -/
def Chan.penTurn (x : Chan) : Option (Nat × PenEntry) :=
  let heads := x.flow.pen.filter (fun p => p.2.occ != 3 && !x.flow.tickets.any (fun t => t.owner == .reloc p.1))
  match heads.find? (fun p => decide (x.flow.relocPtr ≤ p.1)) with
  | some p => some p
  | none => heads.head?

/-- The place of a pen record with its tail. -/
def Chan.penPlace (x : Chan) (e : Nat) : FPlace :=
  .pen e (match x.flow.pen.find? (fun r => r.2.occ == 3 && r.2.head == e) with | some r => r.1 | none => e)

/-- Where the pen record goes, and the displacements before it (R154 steps 1 to 3). -/
def State.relocPlan (s : State) (c : Ch) (q : FlowKey) : Option (FPlace × List Move) :=
  let x := s.chan c
  match x.freeIn q.double q.s1, x.freeIn q.double q.s2 with
  | some i, _ => some (.slot 1 i, [])
  | none, some i => some (.slot 2 i, [])
  | none, none =>
    if q.double then
      ([(1, q.s1), (1, q.s1 + 2), (2, q.s2), (2, q.s2 + 2)].findSome? (fun p => s.displacePair c q p.1 p.2)).map
        (fun r => (.slot r.1 r.2.1, r.2.2))
    else (s.displaceOne c q).map (fun r => (.slot r.1 r.2.src, [r.2]))

/-- A pen record goes to its place: displacements, the record with its sideband and tail, and its pen entries freed. -/
def Chan.relocate (x : Chan) (now : Nat) (double : Bool) (pen : FPlace) (plan : FPlace × List Move) : Chan :=
  let x := plan.2.foldl (fun x m => x.applyMove now m) x
  match pen, plan.1 with
  | .pen _ e2, .slot _ i =>
    let x := x.writeSlot now i (x.at pen)
    let x := if double then x.writeSlot now (i + 1) (x.at (.pen e2 e2)) else x
    x.dropFlow now double pen
  | _, _ => x

/-- The further buckets that a turn reads: the other buckets of the residents of b1 and b2 that it takes in turn, up to the first
that gives a plan. -/
def State.relocNeeds (s : State) (c : Ch) (q : FlowKey) : List Nat :=
  match s.relocPlan c q with
  | some (_, ms) => ms.map (fun m => s.bucketOf c q.table m.dst)
  | none =>
    let x := s.chan c
    let res (b i0 : Nat) : List Nat := ((slots4 i0).filter (fun i => !(x.flowSlot i).bad && sbOcc (x.flowSlot i).sb == 1)).map
      (fun i => s.otherBucket c q.table b false i)
    res q.b1 q.s1 ++ res q.b2 q.s2

/-- A turn that needs further buckets takes its place in their order too, where it stands in the order of b1 and b2, and waits
for their lines with the others as one group (R144, R145). -/
def State.widenTicket (s : State) (c : Ch) (id : Nat) (bs : List Nat) : State :=
  s.modFlow c (fun e => { e with
    tickets := modFirst (fun k => k.id == id) (fun k => { k with extra := (k.extra ++ bs).dedup, granted := none, linesAt := 0 }) e.tickets })

/-- A relocation turn takes effect (R154): what it reads is corrected; records beyond correction are counted, and stay; the pen
record goes to its place with the displacements before it, in one commit. -/
def State.relocCommit (s : State) (c : Ch) (tk : Ticket) (e : Nat) : State :=
  let p := (s.chan c).penEntry e
  if p.occ = 0 ∨ p.occ = 3 ∨ p.table ≠ tk.table ∨ p.b1 ≠ tk.b1 ∨ p.b2 ≠ tk.b2 ∨ s.ftParity c p.table ∨ !s.bit (ftR c p.table) 0 then
    s.dropTicket c tk.id
  else
    let q := { s.flowKey c p.table 0 p.b1 p.b2 with double := p.occ == 2 }
    let pl := (s.chan c).penPlace e
    let s := (tk.buckets.foldl (fun s b => s.fixBucket c (s.bucketSlot c p.table b)) s).fixPenRecord c pl
    let penBad := ((s.chan c).at pl).bad || (q.double && ((s.chan c).at pl.tailOf).bad)
    let needs := if penBad then [] else (s.relocNeeds c q).filter (fun b => !tk.buckets.contains b)
    if needs ≠ [] then s.widenTicket c tk.id needs
    else
      let resident := (s.ticketSlots c tk).dedup.filter (fun i => ((s.chan c).flowSlot i).bad)
      let s := (resident.map (FPlace.slot 1 ·) ++ (if penBad then [(s.chan c).badPlace (pl, q.double)] else [])).foldl
        (fun s r => s.countBad c r) s
      let s := s.dropTicket c tk.id
      match (if penBad then none else s.relocPlan c q) with
      | none => s
      | some plan =>
        let s1 := s.setChan c ((s.chan c).relocate s.now q.double pl plan)
        let s1 := (s1.count (chR c 0x4438) 1).count (chR c 0x443C) plan.2.length
        State.penEvents s (s1.noteCommit c ([q.s1, q.s2] ++ plan.2.map (fun m => m.dst - m.dst % 4)) false) c

/-- RELOCATION_TURN: what the relocation engine does next: a turn that may take effect does so; else, 64 ns after the last one, the
next pen record's turn takes its place in the order of its buckets (R145, R154). -/
def execRelocationTurn (c : Ch) (s : State) : Out :=
  let s := s.flowDue c
  if !s.flowRuns c || !s.bit (chR c 0x4000) 3 then .next (s.modChan c (fun x => x.dropEngine FlowOwner.isReloc))
  else
    let next := (s.chan c).penTurn
    let at_ := (s.chan c).flow.relocAt + nsT 64
    match s.engineReady c FlowOwner.isReloc (next.map (fun _ => at_)) with
    | some tk =>
      let s := s.atTime (s.ticketTime c tk false)
      .next (match tk.owner with | .reloc e => s.relocCommit c tk e | _ => s)
    | none =>
      match next with
      | none => .next s
      | some (e, p) =>
        let s := s.atTime at_
        let s := s.modFlow c (fun f => { f with relocPtr := e + 1, relocAt := s.now })
        .next (s.openStep c (.reloc e) p.table p.b1 p.b2 true)

/-! ## Aging (R156 to R160, R165) -/

/-- Enabled flow tables in ascending order, with their numbers of buckets. -/
def State.agedTables (s : State) (c : Ch) : List (Nat × Nat) :=
  ((List.range 16).filter (fun t => s.bit (ftR c t) 0)).map (fun t => (t, s.ftBuckets c t))

/-- The position `k` buckets after a position (table × 2^25 + bucket), over the enabled tables, wrapping. -/
def agePos (tabs : List (Nat × Nat)) (pos k : Nat) : Option (Nat × Nat) :=
  let total := tabs.foldl (fun a p => a + p.2) 0
  if total = 0 then none
  else
    let t := pos / 2 ^ 25
    let lin := tabs.foldl (fun a p => if p.1 < t then a + p.2 else if p.1 = t then a + min (pos % 2 ^ 25) p.2 else a) 0
    let n := (lin + k) % total
    (tabs.foldl (fun (acc : Option (Nat × Nat) × Nat) p => match acc with
      | (some r, m) => (some r, m)
      | (none, m) => if m < p.2 then (some (p.1, m), 0) else (none, m - p.2)) (none, n)).1

/-- FLOW_AGE_BUDGET as it acts. -/
def State.ageBudget (s : State) (c : Ch) : Nat := min (s.field (chR c 0x4010) 0 26) 33554432

/-- A readable record is expired (R157). -/
def State.expired (s : State) (c : Ch) (t : Nat) (v : HbmSlot) : Bool :=
  let limit := s.field (chR c (0x4200 + 0x20 * t + 4 * sbAge v.sb)) 0 24
  !sbStatic v.sb && limit != 0 && decide (limit ≤ (s.flowTick + 2 ^ 32 - frSeen v.data) % 2 ^ 32)

/-- Position of the aging sweep, `k` buckets after the first of the period. -/
def State.agePosition (s : State) (c : Ch) (k : Nat) : Nat :=
  match agePos (s.agedTables c) (s.chan c).flow.ageStart k with
  | none => (s.chan c).flow.ageStart
  | some (t, b) => t * 2 ^ 25 + b

/-- AGE_EN has been cleared (R159), or the channel leaves ON (R358): the sweep stands where it stopped for the rest of the
period. -/
def State.ageOff (s : State) (c : Ch) : State :=
  let pos := s.agePosition c (s.chan c).flow.ageDone
  let s := s.modChan c (fun x => x.dropEngine (fun o => o.isAge || o.isPen))
  if (s.chan c).flow.ageWasOff then s
  else s.modFlow c (fun e => { e with ageStart := pos, ageIssued := 0, ageDone := 0, ageWasOff := true })

/-- The records of a bucket, each with whether it is a double one: single records, heads with their tails, and slots of unknown
OCC. In a table of double records a head of unknown OCC goes with a tail that is beside it; any other slot of unknown OCC is a
record of its own: DESIGN CHOICE (log entry 62). -/
def Chan.bucketRecords (x : Chan) (double : Bool) (s0 : Nat) : List (FPlace × Bool) :=
  let occ (i : Nat) : Nat := if sbAgrees (x.flowSlot i).sb then sbOcc (x.flowSlot i).sb else 4
  (slots4 s0).filterMap (fun i =>
    let v := occ i
    let head := double && i % 2 == 1 && (occ (i - 1) == 2 || occ (i - 1) == 4 && v == 3)
    if v = 0 ∨ head ∨ v = 3 then none
    else some (.slot 1 i, v == 2 || double && v == 4 && i % 2 == 0 && occ (i + 1) == 3))

/-- A record of which some codeword is uncorrectable. -/
def Chan.recordBad (x : Chan) (r : FPlace × Bool) : Bool := (x.at r.1).bad || (r.2 && (x.at r.1.tailOf).bad)

/-- The export frame of a freed record (R160), numbered when it enters the queue (R409); discarded while the link is down
(R387). -/
def State.export (s : State) (c : Ch) (t : Nat) (recs : List (BitVec 512)) : State :=
  if !s.host.isUp then s.modChan c (fun x => { x with xseq := (x.xseq + 1) % 65536 }) else
  let x := s.chan c
  s.setChan c { x with
    xseq := (x.xseq + 1) % 65536
    flow := { x.flow with exports := x.flow.exports ++ [exportBytes c t x.xseq s.flowTick recs] } }

/-- Free one record: counters, its frame, and the freed place. FT_FLOWS goes down by one for a slot of unknown OCC too: DESIGN
CHOICE (log entry 62). -/
def State.freeRecord (s : State) (c : Ch) (t : Nat) (r : FPlace × Bool) (exported : Bool) : State :=
  let x := s.chan c
  let recs := (x.at r.1).data :: (if r.2 then [(x.at r.1.tailOf).data] else [])
  let s := if exported then s.export c t recs else s
  (s.setChan c ((s.chan c).dropFlow s.now r.2 r.1)).addFlows c t false

/-- Free the expired and the uncorrectable records among some, in one commit, if the export queue has room for every
frame (R158, R160, R165); else stop for the rest of the period. DRAM_UNCORR_CNT counts a record once, whichever of its entries
are bad: DESIGN CHOICE (log entry 62). -/
def State.ageRecords (s : State) (c : Ch) (t : Nat) (rs : List (FPlace × Bool)) : State × Bool :=
  let x := s.chan c
  let bad := rs.filter (fun r => x.recordBad r)
  let old := rs.filter (fun r => !x.recordBad r && s.expired c t (x.at r.1))
  let exp := s.bit (ftR c t) 8
  if exp && decide (2048 < x.flow.exports.length + old.length) then
    (s.modFlow c (fun e => { e with ageStopped := true }), false)
  else
    let s := bad.foldl (fun s r => (s.countBad c ((s.chan c).badPlace r)).freeRecord c t r false) s
    (old.foldl (fun s r => (s.freeRecord c t r exp).count (chR c 0x442C) 1) s, true)

/-- The start of revolution `rev` of the present tide period. -/
def Chan.revTime (x : Chan) (rev : Nat) : Nat := x.tideStart + nsT 256 * rev

/-- When the `k`-th bucket of a period's budget is requested: in its revolution, in consecutive cycles with the others of that
revolution (R158). -/
def State.ageTime (s : State) (c : Ch) (k : Nat) : Nat :=
  let x := s.chan c
  let budget := s.ageBudget c
  let rev := k * x.maint.tideRevs / budget
  x.revTime rev + nsT (k - (rev * budget + x.maint.tideRevs - 1) / x.maint.tideRevs)

/-- The sweep stops: its operations leave the order of their buckets. -/
def State.ageStop (s : State) (c : Ch) : State := s.modChan c (fun x => x.dropEngine (fun o => o.isAge || o.isPen))

/-- The sweep may work now. -/
def State.ageRuns (s : State) (c : Ch) : Bool :=
  s.flowRuns c && s.bit (chR c 0x4000) 2 && !(s.chan c).flow.ageWasOff && !(s.chan c).flow.ageStopped

/-- An examination of a bucket takes effect: its expired records and those beyond correction are freed in one commit (R158, R165);
without room for their frames the sweep stops for the rest of the period (R160). -/
def State.ageCommit (s : State) (c : Ch) (tk : Ticket) : State :=
  let done (s : State) : State := (s.dropTicket c tk.id).modFlow c (fun e => { e with ageDone := e.ageDone + 1 })
  if s.ftParity c tk.table || !s.bit (ftR c tk.table) 0 then done s
  else
    let s0 := s.bucketSlot c tk.table tk.b1
    let s := s.fixBucket c s0
    let r := s.ageRecords c tk.table ((s.chan c).bucketRecords (s.ftDouble c tk.table) s0)
    if r.2 then done (r.1.noteCommit c [s0] false) else r.1.ageStop c

/-- AGING_SWEEP_BUCKET: what the aging sweep does next with buckets: its first examination takes effect when it may (they take
effect in ascending order, log entry 30); else the next
bucket of the period's budget takes its place in the order of operations, at its time (R145, R158). A bucket of an enabled table
in its safe state counts as examined, and one that FLOW_CTRL.EN or the engine's safe state holds back counts as left:
DESIGN CHOICE (log entry 62). -/
def execAgingSweepBucket (c : Ch) (s : State) : Out :=
  let s := s.flowDue c
  if !s.ageRuns c then .next (s.ageStop c)
  else
    let k := (s.chan c).flow.ageIssued
    let next := if s.ageBudget c ≤ k then none else agePos (s.agedTables c) (s.chan c).flow.ageStart k
    let first := (s.chan c).flow.tickets.find? (fun q => q.owner.isAge)
    match first.filter (fun tk => s.readyBy c (next.map (fun _ => s.ageTime c k)) tk) with
    | some tk => .next ((s.atTime (s.ticketTime c tk false)).ageCommit c tk)
    | none =>
      match next with
      | none => .next s
      | some (t, b) =>
        let s := s.atTime (s.ageTime c k)
        .next ((s.openStep c .age t b b true).modFlow c (fun e => { e with ageIssued := k + 1 }))

/-- An examination of a pen entry takes effect. -/
def State.penCommit (s : State) (c : Ch) (tk : Ticket) (e : Nat) : State :=
  let p := (s.chan c).penEntry e
  if p.occ = 0 ∨ p.occ = 3 ∨ p.table ≠ tk.table ∨ s.ftParity c p.table then s.dropTicket c tk.id
  else
    let pl := (s.chan c).penPlace e
    let s := s.fixPenRecord c pl
    let r := s.ageRecords c p.table [(pl, p.occ == 2)]
    if r.2 then (State.penEvents s (r.1.noteCommit c [s.bucketSlot c tk.table tk.b1, s.bucketSlot c tk.table tk.b2] false) c).dropTicket c tk.id
    else r.1.ageStop c

/-- AGING_PEN_EXAMINE: what the sweep does next with pen entries: an examination that may take effect does so; else the next
entry's turn comes, in its revolution; a record takes its place in the order of its buckets (R145, R158). -/
def execAgingPenExamine (c : Ch) (s : State) : Out :=
  let s := s.flowDue c
  if !s.ageRuns c then .next (s.ageStop c)
  else
    let i := (s.chan c).flow.penDone
    let at_ := (s.chan c).revTime (i * (s.chan c).maint.tideRevs / 4096)
    match s.engineReady c FlowOwner.isPen (if i < 4096 then some at_ else none) with
    | some tk =>
      let s := s.atTime (s.ticketTime c tk false)
      .next (match tk.owner with | .agePen e => s.penCommit c tk e | _ => s)
    | none =>
      if 4096 ≤ i then .next s
      else
        let p := (s.chan c).penEntry i
        let s := (s.atTime at_).modFlow c (fun e => { e with penDone := i + 1 })
        if p.occ = 0 ∨ p.occ = 3 then .next s else .next (s.openStep c (.agePen i) p.table p.b1 p.b2 false)

end Sys2Proof.Machine
end

