-- ==== Sys2Proof/Machine/Cascade.lean ====
section
/-! DEFINITION. The cascade: frames on its ports, the backwash merge, ports up and down, and the merge arbiter
(chapter 08). -/

namespace Sys2Proof.Machine

/-- The port named by an operand. -/
def State.port (s : State) : Port → LinkPort
  | .host => s.host
  | .up => s.up
  | .down => s.dn

/-- Replace a port. -/
def State.setPort (s : State) (p : Port) (l : LinkPort) : State :=
  match p with
  | .host => { s with host := l }
  | .up => { s with up := l }
  | .down => { s with dn := l }

/-- A port at link up: SEQ starts at 0 in each direction, with the credits that the other side grants (Table 14.4,
R379). Whole frames received before stay. -/
def LinkPort.start (l : LinkPort) (now : Nat) (lanes : BitVec 16) (credits : List Nat) : LinkPort :=
  { LinkPort.reset with
    ctrlBy := roundUp now linkCycle + 32 * linkCycle, precodeTx := l.precodeTx, precodeRx := l.precodeRx, state := .up, lanes := lanes, failed := l.failed, reversed := l.reversed, hostCr := credits, arrived := l.arrived }

/-- A port that goes down: its replay buffer and queued bytes are discarded, and it trains again from step 1, or stays
down (R387). -/
def LinkPort.stop (l : LinkPort) (now : Nat) (train : Bool) : LinkPort :=
  { LinkPort.reset with
    state := if train then .train else .down, step := if train then 1 else 0, stepAt := now, trainAt := now,
    failed := l.failed, reversed := l.reversed, arrived := l.arrived }

/-! ## Ports (R218, R239) -/

/-- A cascade port has a neighbour: all but the head's upstream and the tail's downstream port (R216). -/
def State.connected (s : State) (p : Port) : Bool :=
  match p with
  | .host => true
  | .up => decide (s.casc.pos ≠ 0)
  | .down => decide (s.casc.pos ≠ s.cascLast)

/-- CASC_STATUS.REACH changes (R239, R241). -/
def State.setReach (s : State) (r : Nat) : State :=
  let t := s.evMIf (decide (s.casc.reach ≠ r)) 67
  { t with casc := { t.casc with reach := r } }

/-- Event of a cascade port's link bit (R241). -/
def portEvent : Port → Nat
  | .up => 64
  | _ => 65

/-- A cascade port goes down (R239, R387, R388). -/
def State.cascDown (s : State) (p : Port) : State :=
  let was := (s.port p).isUp
  let s := s.setPort p ((s.port p).stop s.now (s.cascEn && s.connected p))
  let s := s.evMIf was (portEvent p)
  match p with
  | .host => s
  | .up => { s with casc := { s.casc with merge := Quad.all [], cur := none, held := 0 } }
  | .down =>
    let s := s.setReach s.casc.pos
    if s.casc.pos = s.cascLast then s
    else (s.casc.parts.filter (fun q => q.below.isNone)).foldl (fun s q => s.substitute q) s

/-- CASC_PORT_DOWN: a cascade port goes down. -/
def execCascPortDown (p : Port) (s : State) : Out :=
  match p with
  | .host => .next s
  | _ => .next (s.cascDown p)

/-! ## Width (R368) -/

/-- Lanes of the widest set that all trained, at most `most` lanes, the lowest-numbered first. -/
def formWidth (trained : BitVec 16) (most : Nat) : Option (BitVec 16) :=
  let sets : List (Nat × BitVec 16) :=
    [(16, 0xFFFF), (8, 0x00FF), (8, 0xFF00), (4, 0x000F), (4, 0x00F0), (4, 0x0F00), (4, 0xF000)]
  (sets.find? (fun p => decide (p.1 ≤ most) && (trained &&& p.2 == p.2))).map (·.2)

/-- The most lanes that a cascade port uses: 4 with NARROW set (R218). -/
def State.cascLanes (s : State) : Nat := if s.bit (modR 0x6004) 16 then 4 else 8

/-- Flits of buffer that each side of a cascade port grants at link up: DESIGN CHOICE, that of VC0 (log entry 13). -/
def cascCredit : Nat := 2048

/-- CASC_PORT_UP: a cascade port ends its training with the lanes that trained. It comes up only when the neighbour reports the
right position (R218), at the width of R368. -/
def execCascPortUp (p : Port) (neighbourPos : BitVec 3) (lanes : BitVec 8) (s : State) : Out :=
  let n := neighbourPos.toNat
  let right := match p with
    | .host => false
    | .up => n + 1 == s.casc.pos
    | .down => n == s.casc.pos + 1
  if p = .host ∨ !s.cascEn ∨ !s.connected p ∨ (s.port p).isUp then .next s
  else if !right then
    .next ((s.setPort p ((s.port p).stop s.now false)).evM 66)
  else
    match formWidth (lanes.zeroExtend 16) s.cascLanes with
    | none => .next s
    | some w =>
    let s := (s.setPort p ((s.port p).start s.now w [cascCredit, 0, 0, 0, 0])).evM (portEvent p)
    match p with
    | .up => .next (if s.field (modR 0x3010) 1 2 = 1 ∨ s.field (modR 0x3010) 1 2 = 3 then s.setField (modR 0x3010) 1 2 0 else s)
    | _ => .next (s.setReach s.cascLast)

/-! ## KEY and CANCEL frames -/

/-- CASC_KEY_FRAME: a KEY frame arrives from upstream (R220, R222, R225, R238). -/
def execCascKeyFrame (h : CascHdr) (f : SearchFrame) (s : State) : Out :=
  let r := s.up.take true 0 (cascHeader 0 h ++ toBytes 8 (searchHead f).toNat)
  let s := { s with up := r.1 }
  let f := { f with replay := f.replay || replayed r.2 }
  let gsn := h.gsn.toNat
  if s.casc.pos = 0 ∨ !s.cascOn then .next s
  else
    let run := s.routeOf h.ch
    let p := s.newPart h.ch run f gsn
    let s := ((s.count (modR 0x6100) 1).openPart p).passKey s.now h f p
    if s.bypassing then .next (s.bypassPart gsn)
    else
    let s := s.noteRoute h.ch run
    if !s.admitsAt run then .next (s.ownEmpty gsn true)
    else
      let b := s.baseProf run f.profile
      .next (s.modChan run (fun x => { x with
        charges := x.charges ++ [⟨gsn, true, true, b.slots, f.profile⟩]
        ingress := x.ingress ++ [(.search f gsn true true (!b.enabled) b.slots, s.now + nsT 12)] }))

/-- CASC_CANCEL_FRAME: a cancel arrives from upstream; it is forwarded, and applied to the module's own context (R228). -/
def execCascCancelFrame (h : CascHdr) (s : State) : Out :=
  let s := { s with up := (s.up.take true 0 (cascHeader 1 h)).1 }
  if s.casc.pos = 0 ∨ !s.cascOn then .next s
  else
    let s := s.passCancel h
    match s.casc.parts.find? (fun p => p.gsn == h.gsn.toNat && p.own.isNone) with
    | none => .next s
    | some p => .next (s.modChan p.run (fun x => x.pushCancel p.gsn true s.now))

/-! ## The merge (R226) -/

/-- The records of a result, each with its extended AD section. -/
def resultSections (r : Result) : List (LookupRec × BitVec 512) :=
  (r.recs.foldl (fun (acc : List (LookupRec × BitVec 512) × List (BitVec 512)) k =>
    if k.extPresent then (acc.1 ++ [(k, acc.2.headD 0)], acc.2.drop 1) else (acc.1 ++ [(k, 0)], acc.2)) ([], r.ext)).1

/-- One record of the merge: of the records that hit, the one that wins by PRIORITY and then INDEX (R75). -/
def mergeRec (a b : LookupRec × BitVec 512) : LookupRec × BitVec 512 :=
  let deg := a.1.degraded || b.1.degraded
  let pick :=
    if a.1.hit && b.1.hit then
      (if a.1.prio.toNat ≠ b.1.prio.toNat then (if b.1.prio.toNat < a.1.prio.toNat then a else b)
       else if a.1.index.toNat ≤ b.1.index.toNat then a else b)
    else if b.1.hit then b else if a.1.hit then a
    else (missRec false a.1.extPresent, 0)
  ({ pick.1 with degraded := deg }, pick.2)

/-- Record by record; a part of another length contributes what it has. -/
def mergeRecs : List (LookupRec × BitVec 512) → List (LookupRec × BitVec 512) → List (LookupRec × BitVec 512)
  | [], l => l
  | l, [] => l
  | a :: s, b :: t => mergeRec a b :: mergeRecs s t

/-- The merge of a module's own input, nearer the head, with the part from below (Table 08.2). `aEmpty` tells that the
own input is an empty part, which carries no status and no epoch of its own; `mine` tells whether this module owns the flow, or
a position below it, or none of them. -/
def mergeResults (a b : Result) (aEmpty : Bool) (mine : Option Bool) : Result :=
  let st := if a.status = .cancelled ∨ b.status = .cancelled then .cancelled else if aEmpty then b.status else a.status
  let recs := mergeRecs (resultSections a) (resultSections b)
  let f := match mine with | some true => a | some false => b | none => bareResult .ok
  if st ≠ .ok then { bareResult st with linkReplay := a.linkReplay || b.linkReplay }
  else
    { status := st, recs := recs.map (·.1), ext := (recs.filter (fun p => p.1.extPresent)).map (·.2)
      flow := f.flow, snap := f.snap, flowLate := f.flowLate, learnFail := f.learnFail
      epochRetired := a.epochRetired || b.epochRetired, parseExc := a.parseExc || b.parseExc
      linkReplay := a.linkReplay || b.linkReplay, cancelledFlag := false
      epochUsed := if aEmpty then b.epochUsed else a.epochUsed }

/-- CASC_WASH_FRAME: a part arrives from downstream; one for a search already substituted is discarded (R226, R239). -/
def execCascWashFrame (h : CascHdr) (r : Result) (s : State) : Out :=
  let d := s.dn.take true 0 (cascHeader 2 h)
  let s := { s with dn := d.1 }
  let gsn := h.gsn.toNat
  if s.casc.substituted.contains gsn then
    let sub := s.casc.substituted.filter (fun g => g != gsn)
    let s := s.count (modR 0x610C) 1
    .next { s with casc := { s.casc with substituted := sub } }
  else
    .next (s.modPart gsn (fun p => if p.below.isSome then p
      else { p with below := some ({ r with linkReplay := r.linkReplay || replayed d.2 }, h.missing) }))

/-- Whether the flow of a group search is this position's, a lower module's, or neither (R226, R233). -/
def CascPart.ownsFlow (p : CascPart) (pos : Nat) : Option Bool :=
  match p.owner with
  | none => none
  | some o => if o = pos then some true else if pos < o then some false else none

/-- BACKWASH_MERGE: with both inputs present, the module's part goes upstream, or at the head into the release unit
(R226). The tail's part is its own result. -/
def execBackwashMerge (gsn : BitVec 14) (s : State) : Out :=
  match s.casc.parts.find? (fun p => p.gsn == gsn.toNat) with
  | none => .next s
  | some p =>
    let ready := if s.casc.pos = s.cascLast then p.own.map (fun a => (a.1, a.2))
      else match p.own, p.below with
      | some a, some b => some (mergeResults a.1 b.1 a.2 (p.ownsFlow s.casc.pos), a.2 || b.2)
      | _, _ => none
    match ready with
    | none => .next s
    | some m =>
      let r := { m.1 with linkReplay := m.1.linkReplay || p.replay }
      let ps := dropFirst (fun (q : CascPart) => q.gsn == p.gsn) s.casc.parts
      let s : State := { s with casc := { s.casc with parts := ps } }
      if s.casc.pos = 0 then .next (s.completeRecord p.gsn r)
      else if !s.up.isUp then .next s
      else
        let frame := cascHeader 2 ⟨p.ch, gsn, BitVec.ofNat 3 s.casc.pos, m.2⟩ ++ resultBytes p.hf p.dom p.tag r
        .next { s with casc := { s.casc with merge := s.casc.merge.set p.ch (s.casc.merge.get p.ch ++ [frame]) } }

/-- CASCADE_MERGE_GRANT: the merge arbiter grants the upstream transmitter for one WASH frame to a channel's merge
queue, by rotating priority (R225, R448, R449). With FREEZE set it makes no grant (R453); outside MODE NORMAL a frame
longer than HOLD_LIMIT is cut off at its end, which is its break point (R452). -/
def execCascadeMergeGrant (s : State) : Out :=
  if s.bit (modR 0x3010) 0 then .next s
  else
    match rotate s.casc.ranks (fun i => !(s.casc.merge.get (Fin.ofNat 4 i)).isEmpty) with
    | none => .next s
    | some (w, ranks) =>
      let c : Ch := Fin.ofNat 4 w
      match s.casc.merge.get c with
      | [] => .next s
      | fr :: rest =>
        let s : State := { s with casc := { s.casc with ranks := ranks, merge := s.casc.merge.set c rest } }
        let limit := max (s.field (modR 0x3010) 8 8) 1
        let cut := decide (s.field (modR 0x3010) 1 2 ≠ 0) && decide (limit < flitsFor fr.length)
        let s := if cut then ((s.count (modR 0x3110) 1).capture (modR 0x3140) (w + 1024)).evM 194 else s
        .next (s.sendUp fr)

end Sys2Proof.Machine
end

