-- ==== Sys2Proof/Machine/Egress.lean ====
section
/-! DEFINITION. The host egress arbiter: frames of VC1, VC3 and VC4 packed into flits, one host-link cycle at a time
(R392 to R394, R448 to R453). -/

namespace Sys2Proof.Machine

/-- The winner among domains by rotating priority (R521): those that have never won stand first, in number order; the
others follow in the order of their last wins. -/
def rotateDomains (ranks reqs : List Nat) : Option (Nat × List Nat) :=
  let fresh := bestBy (fun a b => decide (a < b)) (reqs.filter (fun d => !ranks.contains d))
  let w := match fresh with
    | some d => some d
    | none => ranks.find? (fun d => reqs.contains d)
  w.map (fun d => (d, ranks.filter (· != d) ++ [d]))

/-- The released results that are due, the oldest of each domain (R177, R450). -/
def EgressUnit.due (e : EgressUnit) (now : Nat) : List OutFrame :=
  (e.vc1.foldl (fun (acc : List OutFrame × List Nat) f =>
    if acc.2.contains f.req then acc
    else (if f.dueAt ≤ now then acc.1 ++ [f] else acc.1, acc.2 ++ [f.req])) ([], [])).1

/-- The first completion that may leave, and the rest: one behind an unanswered IND_DATA read of the same host function and
target waits (R402). `held` lists those passed. -/
def readyCompletion (held : List (Hf × Nat)) : List Completion → Option (Completion × List Completion)
  | [] => none
  | k :: t =>
    if k.bytes.isEmpty || held.contains (k.hf, k.target) then
      (readyCompletion (if k.bytes.isEmpty then (k.hf, k.target) :: held else held) t).map (fun p => (p.1, k :: p.2))
    else some (k, t)

/-- The oldest response of a channel, unless its doorbell COMPLETION is still queued (R406, R450). -/
def EgressUnit.response (e : EgressUnit) (c : Ch) : Option OutResponse :=
  match e.responses.find? (fun r => r.ch == c) with
  | none => none
  | some r =>
    if e.completions.any (fun k => match k.bell with | some (i, bells) => i == c.val && bells.testBit r.mbx | none => false)
    then none else some r

/-- Whether a requester of VC3 requests: the completion queue, then the four response queues. -/
def EgressUnit.req3 (e : EgressUnit) (i : Nat) : Bool :=
  if i = 0 then (readyCompletion [] e.completions).isSome else (e.response (Fin.ofNat 4 (i - 1))).isSome

/-- Whether a requester of VC4 requests: the event queue, then the four export queues. -/
def State.req4 (s : State) (i : Nat) : Bool :=
  if i = 0 then !s.ev.queue.isEmpty else !(s.chan (Fin.ofNat 4 (i - 1))).flow.exports.isEmpty

/-- The frame being sent on a virtual channel. -/
def EgressUnit.cur (e : EgressUnit) (vc : Nat) : Option Sending := if vc = 1 then e.cur1 else if vc = 3 then e.cur3 else e.cur4

/-- Replace it. -/
def EgressUnit.setCur (e : EgressUnit) (vc : Nat) (k : Option Sending) : EgressUnit :=
  if vc = 1 then { e with cur1 := k } else if vc = 3 then { e with cur3 := k } else { e with cur4 := k }

/-- No grant is held (EGR_STATUS.IDLE). -/
def EgressUnit.idle (e : EgressUnit) : Bool := e.cur1.isNone && e.cur3.isNone && e.cur4.isNone

/-- The bytes that put the next VC1 frame at a multiple of 16 of the stream (R394). -/
def padBytes (off : Nat) : List (Byte × Bool) := List.replicate ((16 - off % 16) % 16) (0, false)

/-- Grant the next frame of VC1. `off` is the stream offset of the next byte. The last bit of the result is at the pins 50 ns
later (R14, Table 01.4). -/
def State.grant1 (s : State) (off : Nat) : Option State :=
  match rotateDomains s.egr.ranks1 ((s.egr.due s.now).map (·.req)) with
  | none => none
  | some (d, ranks) =>
    match s.egr.vc1.find? (fun f => f.req == d) with
    | none => none
    | some f =>
      let e := { s.egr with ranks1 := ranks, vc1 := dropFirst (fun g => g.req == d) s.egr.vc1 }
      some { s with egr := { e.setCur 1 (some ⟨d, 0, padBytes off ++ streamOf f.bytes (some 0), none⟩) with pinAt := s.now + nsT 50 } }

/-- Grant the next frame of VC3. -/
def State.grant3 (s : State) : Option State :=
  match rotate s.egr.ranks3 s.egr.req3 with
  | none => none
  | some (w, ranks) =>
    let e := { s.egr with ranks3 := ranks }
    if w = 0 then
      match readyCompletion [] e.completions with
      | none => none
      | some (k, t) => some { s with egr := { e with completions := t, cur3 := some ⟨0x200, 0, streamOf k.bytes none, none⟩ } }
    else
      match e.response (Fin.ofNat 4 (w - 1)) with
      | none => none
      | some r =>
        let rest := dropFirst (fun q => q.ch == r.ch) e.responses
        let box := if r.final then some (r.ch.val, r.mbx) else none
        some { s with egr := { e with responses := rest, cur3 := some ⟨0x200 + w, 0, streamOf r.bytes none, box⟩ } }

/-- Grant the next frame of VC4. An entry of the event queue frees as its frame leaves (R462). -/
def State.grant4 (s : State) : Option State :=
  match rotate s.egr.ranks4 s.req4 with
  | none => none
  | some (w, ranks) =>
    if w = 0 then
      match s.ev.queue with
      | [] => none
      | r :: t =>
        let s : State := { s with
          ev := { s.ev with queue := t }
          egr := { s.egr with ranks4 := ranks, cur4 := some ⟨0x205, 0, streamOf (eventBytes r) none, none⟩ } }
        some s.overflowRecord
    else
      let c : Ch := Fin.ofNat 4 (w - 1)
      match (s.chan c).flow.exports with
      | [] => none
      | f :: t =>
        let s := s.modFlow c (fun e => { e with exports := t })
        some { s with egr := { s.egr with ranks4 := ranks, cur4 := some ⟨0x205 + w, 0, streamOf f none, none⟩ } }

/-- Grant the next frame of a virtual channel; none while FREEZE is set (R453). -/
def State.grantVc (s : State) (vc off : Nat) : Option State :=
  if s.bit (modR 0x3000) 0 then none
  else if vc = 1 then s.grant1 off else if vc = 3 then s.grant3 else s.grant4

/-- A frame ends: outside MODE NORMAL a frame that held more flits than HOLD_LIMIT is cut off at this break point
(R452); a final mailbox response has left. -/
def State.endFrame (s : State) (vc : Nat) (k : Sending) : State :=
  let limit := max (s.field (modR 0x3000) 8 8) 1
  let cut := decide (s.field (modR 0x3000) 1 2 ≠ 0) && decide (limit < k.held + 1)
  let s := if cut then ((s.count (modR 0x3108) 1).capture (modR 0x3140) k.req).evM 192 else s
  let e := s.egr.setCur vc none
  { s with egr := { e with gone := match k.box with | some b => e.gone ++ [b] | none => e.gone } }

/-- Fill a flit of a virtual channel with the bytes of its frames, one after another. -/
def State.fillFlit : Nat → State → Nat → List (Byte × Bool) → State × List (Byte × Bool)
  | 0, s, _, acc => (s, acc)
  | n + 1, s, vc, acc =>
    if 60 ≤ acc.length then (s, acc)
    else
      match s.egr.cur vc with
      | none =>
        match s.grantVc vc (s.egr.pos1 + acc.length) with
        | none => (s, acc)
        | some s' => State.fillFlit n s' vc acc
      | some k =>
        let m := 60 - acc.length
        let rest := k.left.drop m
        let acc' := acc ++ k.left.take m
        if rest = [] then State.fillFlit n (s.endFrame vc k) vc acc'
        else ({ s with egr := s.egr.setCur vc (some { k with held := k.held + 1, left := rest }) }, acc')

/-- Send one flit of a virtual channel, if it has a frame byte to carry (R393) and may send. -/
def State.sendFlit (s : State) (vc : Nat) : Option State :=
  if !s.host.maySend vc then none
  else
    let r := State.fillFlit 64 s vc []
    if r.2 = [] then none
    else
      let s := r.1
      some { s with
        host := s.host.sendData s.now vc r.2
        egr := if vc = 1 then { s.egr with pos1 := (s.egr.pos1 + 60) % 16 } else s.egr }

/-- A position for VC3 or VC4: rotating priority between the two (DESIGN CHOICE, log entry 14). -/
def State.sendOther (s : State) : Option State :=
  match s.egr.ranks34 with
  | a :: b :: _ =>
    match s.sendFlit a with
    | some s' => some { s' with egr := { s'.egr with ranks34 := [b, a] } }
    | none => match s.sendFlit b with
      | some s' => some { s' with egr := { s'.egr with ranks34 := [a, b] } }
      | none => none
  | _ => none

/-- Active lanes of a port. -/
def LinkPort.width (l : LinkPort) : Nat := ((List.range 16).filter (fun i => l.lanes.getLsbD i)).length

/-- Flit positions of cycle `k`: 100 Gb/s a lane, 512 bits a flit, 1.25 ns a cycle (R368, R410). -/
def flitPositions (width k : Nat) : Nat := (k + 1) * 125 * width / 512 - k * 125 * width / 512

/-! ## CTRL flits (R371, R375) -/

/-- Flits of buffer that a port grants on a virtual channel at link up. -/
def grantOf (p : Port) (vc : Nat) : Nat :=
  match p, vc with
  | .host, 0 => 2048
  | .host, 2 => 512
  | .host, _ => 0
  | _, 0 => cascCredit
  | _, _ => 0

/-- The payload of the STATUS or NAK flit that a port sends (Table 14.2): NAK while it waits for the expected SEQ. -/
def State.ctrlPayload (s : State) (p : Port) : List Byte :=
  let l := s.port p
  let host := p == .host
  let cr (v : Nat) : List Byte := toBytes 2 (if host || v == 0 then grantOf p v + l.freed v else 0)
  let chans (f : Chan → Nat) : List Byte := (s.ch.toList.map (fun x => toBytes 2 (if host then f x else 0))).flatten
  [if l.waiting then 2 else 1, BitVec.ofNat 8 (l.nakId * 16)] ++ toBytes 2 ((l.rxExpect + 8191) % 8192)
    ++ ([0, 1, 2, 3, 4].map cr).flatten ++ chans (·.slotCr) ++ chans (·.dwrCr) ++ chans (·.grpCr)

/-- The payload of the TRAIN flit that a port sends (Table 14.4 step 5): ROLE, POS, width, the precoding that its receiver asks
for, and link version 0x0001. -/
def State.trainPayload (s : State) (p : Port) : List Byte :=
  let l := s.port p
  [3, if p = .host then 1 else 2, BitVec.ofNat 8 s.casc.pos, BitVec.ofNat 8 l.width,
   BitVec.ofNat 8 (b2n (p == .host && s.bit (modR 0x1000) 5)), 0, 1]

/-- A port sends a CTRL flit with a payload at time `t`. The next is due 32 host-link cycles later. -/
def State.sendCtrl (s : State) (p : Port) (t : Nat) (payload : List Byte) : State :=
  s.setPort p { s.port p with lastCtrl := mkFlit 7 0 payload, lastCtrlAt := t, ctrlBy := t + 32 * linkCycle }

/-- The CTRL flits that a port that is UP had to send by now have been sent: one in every 32 host-link cycles (R375). -/
def State.ctrlDue (s : State) (p : Port) : State :=
  let l := s.port p
  if l.state == .up && decide (l.ctrlBy ≤ s.now) then
    s.sendCtrl p (l.ctrlBy + (s.now - l.ctrlBy) / (32 * linkCycle) * (32 * linkCycle)) (s.ctrlPayload p)
  else s

/-! ## One cycle -/

/-- Fill the positions of a cycle: VC1 first, one position of every eighth cycle and those VC1 leaves go to VC3 and
VC4 (R450). -/
def State.fillPositions : Nat → State → Bool → State
  | 0, s, _ => s
  | n + 1, s, other =>
    if other && n == 0 then
      match s.sendOther with
      | some s' => s'
      | none => (s.sendFlit 1).getD s
    else
      match s.sendFlit 1 with
      | some s' => State.fillPositions n s' other
      | none => match s.sendOther with
        | some s' => State.fillPositions n s' other
        | none => s

/-- EGR_STATUS.FROZEN. -/
def State.egrFrozen (s : State) : Bool := s.bit (modR 0x3000) 0 && s.egr.idle

/-- One host-link cycle of the egress arbiter, the next one (R450). A CTRL flit of the cycle takes one of its positions (R375,
R410). -/
def State.egressCycle (s : State) : State :=
  if s.host.state ≠ .up then s
  else
    let k := max (roundUp s.now linkCycle / linkCycle) (s.egr.cycle + 1)
    let old := s
    let s := s.atTime (k * linkCycle)
    let s := ({ s with egr := { s.egr with cycle := k } } : State).ctrlDue .host
    let s := State.fillPositions (flitPositions s.host.width k - b2n (s.host.lastCtrlAt == s.now)) s (k % 8 == 0)
    let waiting := (s.egr.due s.now).length
    let noCredit := decide (s.host.hostCr.getD 1 0 ≤ s.host.sent.getD 1 0)
    let stall := noCredit && (s.egr.cur1.isSome || decide (0 < waiting))
    let s := (s.countIf stall (modR 0x1128)).evMIf stall 39
    let s := if noCredit || s.bit (modR 0x3000) 0 then s else s.count (modR 0x3100) waiting
    s.evMIf (!old.egrFrozen && s.egrFrozen) 193

end Sys2Proof.Machine
end

