-- ==== Sys2Proof/Machine/Link.lean ====
section
/-! DEFINITION. The Suade link: received flits, acknowledgement, replay, training, recovery and link down
(chapter 14, R391 to R395). -/

namespace Sys2Proof.Machine

/-! ## Streams of a virtual channel (R392, R393, R395) -/

/-- Lookups, flow part, snapshot and extended sections make the length of a RESULT frame (Table 15.1). -/
def resultLen (l : List Byte) : Nat :=
  let h := bytesAt l 0 8
  let n := natBits h 47 3
  let ext := ((List.range n).filter (fun k => (bytesAt l (8 + 16 * k) 4).testBit 23)).length
  8 + 16 * n + 16 * natBits h 46 1 + 16 * natBits h 45 1 + 64 * ext

/-- What stands at the front of a stream. -/
inductive Front
  | more
  | bad
  | skip
  | frame (len : Nat)
deriving DecidableEq, Repr

/-- The frame at the front of a host stream: every frame has at least 8 bytes. -/
def hostFront (vc : Nat) (l : List Byte) : Front :=
  match rxFrameLen vc l with
  | none => .bad
  | some n => if l.length < 8 then .more else if l.length < roundUp n 4 then .more else .frame n

/-- The frame at the front of a cascade stream; a header of the reserved KIND 0b11 is discarded (R224). -/
def cascFront (l : List Byte) : Front :=
  match natBits (bytesAt l 0 1) 6 2 with
  | 0 =>
    if l.length < 12 then .more
    else
      let n := 12 + keyBytes (natBits (bytesAt l 4 8) 37 2)
      if l.length < roundUp n 4 then .more else .frame n
  | 1 => .frame 4
  | 2 =>
    if l.length < 12 then .more
    else if l.length < 12 + 16 * natBits (bytesAt l 4 8) 47 3 then .more
    else
      let n := 4 + resultLen (l.drop 4)
      if l.length < roundUp n 4 then .more else .frame n
  | _ => .skip

/-- Take the whole frames off a stream. `old` tells of the bytes left from earlier flits, `cur` of the present flit: whether it was
resent, and when it came. On a host stream a unit whose first byte is 0 is PAD; on a cascade stream, whose KEY headers may begin with 0, a
run of zeros to the end of the flit is (DEDUCED). Answers the frames, the rest, its mark, and a frame error. -/
def parseStream (host : Bool) (vc : Nat) : Nat → List Byte → Bool × Nat → Bool × Nat → List Arrived →
    List Arrived × List Byte × (Bool × Nat) × Bool
  | 0, l, old, _, acc => (acc, l, old, false)
  | n + 1, l, old, cur, acc =>
    match l with
    | [] => (acc, [], (false, 0), false)
    | b :: _ =>
      if host && b == 0 then parseStream host vc n (l.drop 4) cur cur acc
      else if !host && l.all (· == 0) && decide (l.length < 60) then (acc, [], (false, 0), false)
      else
        match if host then hostFront vc l else cascFront l with
        | .more => (acc, l, (old.1 || cur.1, old.2), false)
        | .bad => (acc, [], (false, 0), true)
        | .skip => parseStream host vc n (l.drop 4) cur cur acc
        | .frame k => parseStream host vc n (l.drop (roundUp k 4)) cur cur (acc ++ [⟨vc, l.take k, old.1 || cur.1, old.2⟩])

/-- Lanes by WIDTH_MAX. -/
def State.widthMax (s : State) : Nat := match s.field (modR 0x1000) 2 2 with | 0 => 4 | 1 => 8 | _ => 16

/-- LINK_STATUS.DEGRADED: the active width is below WIDTH_MAX. -/
def State.linkDegraded (s : State) : Bool := s.host.isUp && decide (s.host.width < s.widthMax)

/-- The link is in its safe state (R418): down. -/
def State.linkSafe (s : State) : Bool :=
  s.parity.any (fun k => k == modR 0x1000 || k == modR 0x1040 || (decide (modI 0x100000 ≤ k) && decide (k < modI 0x100400)))

/-! ## Link down (R387) -/

/-- A mailbox returns to EMPTY, which zeroes its request buffer (R404). -/
def State.emptyMailbox (s : State) (c : Ch) (mbx : Nat) : State :=
  s.modChan c (fun x => { x with mgr := { x.mgr with boxes := modAt mbx (fun _ => ⟨.empty, []⟩) x.mgr.boxes } })

/-- Everything queued for VC1, VC3 and VC4 is discarded: results are counted, and a mailbox whose final response goes
is EMPTY. -/
def State.discardFrames (s : State) : State :=
  let e := s.egr
  let n := e.vc1.length + b2n e.cur1.isSome
  let boxes := (e.responses.filter (·.final)).map (fun r => (r.ch.val, r.mbx))
    ++ (match e.cur3 with | some k => k.box.toList | none => [])
  let s := s.count (modR 0x1130) n
  let s := boxes.foldl (fun s b => s.emptyMailbox (Fin.ofNat 4 b.1) b.2) s
  let s := ([0, 1, 2, 3] : List Ch).foldl (fun s c => s.modFlow c (fun f => { f with exports := [] })) s
  { s with
    ev := { s.ev with queue := [] }
    egr := { s.egr with
      vc1 := [], completions := [], responses := [], cur1 := none, cur3 := none, cur4 := none, pos1 := 0 } }

/-- Training may run: EN, HFAT_LOCK and no safe state (R385, R426). -/
def State.mayTrain (s : State) : Bool := s.bit (modR 0x1000) 0 && s.bit (modR 0x0014) 0 && !s.linkSafe

/-- The host link goes down (R387). Training restarts while EN is set. -/
def State.hostDown (s : State) : State :=
  match s.host.state with
  | .down => s
  | st =>
    let was := s.host.isUp
    let s := { (s.countIf was (modR 0x112C)) with host := s.host.stop s.now s.mayTrain }
    let s := if was then s.discardFrames.overflowRecord else s
    let s := if st = .recovery then s.setField (modR 0x3000) 1 2 0 else s
    s.evMIf (st == .up) 32

/-- A port goes down. -/
def State.portDown (s : State) (p : Port) : State := match p with | .host => s.hostDown | _ => s.cascDown p

/-- What a step finds in the base die's protected memories (R465): a corrected word is counted and reported, an
uncorrectable one too, and it takes the link down. -/
def State.baseWord (s : State) (mem : Fec) : State :=
  match mem with
  | .clean => s
  | .corrected => (s.count (modR 0x420C) 1).evM 198
  | .uncorrectable => ((s.count (modR 0x4210) 1).evM 197).hostDown

/-- HOST_EGRESS_CYCLE without the frames that wait on VC2: the next host-link cycle of the egress arbiter (R450). `mem` is what the step found in the base die's
memories (R465). -/
def State.hostCycle (s : State) (mem : Fec) : State := (s.baseWord mem).egressCycle

/-- Training starts at step 1, when it may and the link is down. -/
def State.startTraining (s : State) : State :=
  if s.mayTrain ∧ s.host.state = .down then { s with host := s.host.stop s.now true } else s

/-! ## Recovery (R386) -/

/-- The arbiter mode that the hardware sets for a port (Table 17.6). -/
def State.setMode (s : State) (p : Port) (m : Nat) : State :=
  match p with
  | .host => s.setField (modR 0x3000) 1 2 m
  | .up => s.setField (modR 0x3010) 1 2 m
  | .down => s

/-- A recovery starts on a port that is UP. -/
def State.recover (s : State) (p : Port) : State :=
  if (s.port p).state ≠ .up then s
  else
    let s := s.setPort p { s.port p with state := .recovery, step := 2, stepAt := s.now, recoveryAt := s.now, nakRuns := 0 }
    let s := s.setMode p 3
    match p with
    | .host => ((s.count (modR 0x111C) 1).evM 34).evM 32
    | _ => s

/-- Set LINK_REPLAY in the headers of the results that start in a flit, and its CRC anew (R377). -/
def replayFlit (f : TxFlit) (now : Nat) : TxFlit :=
  if f.results = [] then { f with sentAt := now }
  else
    let l := toBytes 62 (f.flit.toNat / 65536)
    let l := f.results.foldl (fun l m => modAt (2 + m + 3) (fun b => b ||| 0x80) l) l
    { f with sentAt := now, flit := BitVec.ofNat 512 (ofBytes l * 65536 + (crc16 l).toNat) }

/-- Every unacknowledged flit is sent again, in order (R374). -/
def LinkPort.resend (l : LinkPort) (now : Nat) : LinkPort :=
  { l with replayBuf := l.replayBuf.map (fun f => replayFlit f now) }

/-! ## Reception (R373, R379) -/

/-- A receiver starts a NAK, unless it already waits: it detects the bad flit 70 ns after the flit's first bit reached the pins and
sends the NAK in the next transmit cycle (R373, R375, R376). -/
def State.startNak (s : State) (p : Port) (left : Nat) : State :=
  let l := s.port p
  if l.waiting then s
  else
    let t := (s.now + nsT 70) / linkCycle * linkCycle + linkCycle
    let s := s.setPort p { l with
      nakId := (l.nakId + 1) % 16, waiting := true, replayLeft := max l.replayLeft left, nakFrom := t, ctrlBy := min l.ctrlBy t }
    match p with
    | .host => (s.count (modR 0x110C) 1).evM 35
    | _ => s

/-- A data flit arrives good and in sequence: its payload joins the stream of its virtual channel, whose whole frames
are delivered. A flit beyond its credit, or a frame error, takes the link down (R379, R395). -/
def State.acceptFlit (s : State) (p : Port) (vc : Nat) (payload : List Byte) : State :=
  let l := s.port p
  let beyond := decide (grantOf p vc + l.freed vc ≤ l.rcvd.getD vc 0)
  let again := decide (0 < l.replayLeft)
  let l := { l with
    rxExpect := (l.rxExpect + 1) % 8192, waiting := false, replayLeft := l.replayLeft - 1
    rcvd := l.rcvd.set vc (l.rcvd.getD vc 0 + 1) }
  let s := (s.countIf (p == .host) (modR 0x1100)).setPort p l
  if beyond then
    let s := (s.countIf (p == .host) (modR 0x1124)).evMIf (p == .host) 37
    s.portDown p
  else
    let before := l.rx.getD vc []
    let old := if before.isEmpty then (again, s.now) else (l.rxReplay.getD vc false, l.rxAt.getD vc 0)
    let r := parseStream (p == .host) vc 40 (before ++ payload) old (again, s.now) []
    let s := s.setPort p { l with
      rx := l.rx.set vc r.2.1, rxReplay := l.rxReplay.set vc r.2.2.1.1, rxAt := l.rxAt.set vc r.2.2.1.2
      arrived := l.arrived ++ r.1 }
    if r.2.2.2 then (s.countIf (p == .host) (modR 0x1200)).portDown p else s

/-- The flits of one direction follow one another at 186 GB/s of frame bytes at 16 lanes: the clock moves on to the time at which
the line can bring the next one (R368, R410). -/
def State.lineTime (s : State) (p : Port) : State :=
  let l := s.port p
  let t := max (31 * s.now) l.rxLine
  (s.setPort p { l with rxLine := t + 1920 / max l.width 1 }).atTime ((t + 30) / 31)

/-- FLIT_RECEIVED: the first bit of a flit reaches the pins of a port that is UP (R367, R370, R373). `fec` is what the decoder made of its
codeword, given with the codeword's first flit; `mem` what the step found in the base die's memories (R465). The content of a
CTRL flit has commands of its own. -/
def execFlitReceived (p : Port) (flit : BitVec 512) (fec mem : Fec) (s : State) : Out :=
  let s := s.baseWord mem
  if (s.port p).state ≠ .up then .next s
  else
    let s := s.lineTime p
    let l := s.port p
    let h := p == .host
    let s := s.countIf (h && fec == .corrected) (modR 0x1114)
    let un := h && fec == .uncorrectable
    let s := (s.countIf un (modR 0x1118)).evMIf un 36
    let b := toBytes 64 flit.toNat
    let ty := natBits flit.toNat 509 3
    let seq := natBits flit.toNat 496 13
    if (crc16 (b.take 62)).toNat ≠ flit.toNat % 65536 ∨ ty = 5 then
      let s := s.countIf h (modR 0x1104)
      if ty = 6 ∨ ty = 7 then .next s
      else if l.waiting then .next (s.setPort p { l with replayLeft := l.replayLeft + 1 })
      else .next (s.startNak p 1)
    else if 5 < ty then .next s
    else if seq = l.rxExpect then .next (s.acceptFlit p ty ((b.drop 2).take 60))
    else
      let ahead := (seq + 8192 - l.rxExpect) % 8192 + 1
      if l.waiting then .next (s.setPort p { l with replayLeft := max l.replayLeft ahead })
      else .next ((s.countIf h (modR 0x1108)).startNak p ahead)

/-! ## CTRL flits -/

/-- Bytes of a CTRL payload (Table 14.2). -/
def ctrlField (payload : BitVec 480) (i n : Nat) : Nat := bytesAt (toBytes 60 payload.toNat) i n

/-- The new cumulative count that a 16-bit field shows. -/
def unwrap16 (old v : Nat) : Nat := old + (v + 65536 - old % 65536) % 65536

/-- Acknowledgement and buffer credits of a STATUS or NAK payload (R371, R372). An ACK_SEQ that covers no unacknowledged
flit changes nothing. -/
def LinkPort.takeCtrl (l : LinkPort) (p : Port) (payload : BitVec 480) : LinkPort :=
  let ack := ctrlField payload 2 2 % 8192
  let buf := match l.replayBuf.findIdx? (fun f => f.seq == ack) with
    | some i => l.replayBuf.drop (i + 1)
    | none => l.replayBuf
  let cr (v : Nat) : Nat := unwrap16 (l.hostCr.getD v 0) (ctrlField payload (4 + 2 * v) 2)
  { l with
    replayBuf := buf
    acked := ack
    hostCr := if p = .host then [cr 0, cr 1, cr 2, cr 3, cr 4] else l.hostCr.set 0 (cr 0) }

/-- A cascade port sends what new credit and acknowledgements permit, and the CTRL flits that are due. -/
def State.pumpPort (s : State) (p : Port) : State :=
  match p with
  | .host => s
  | _ =>
    let s := s.ctrlDue p
    s.setPort p ((s.port p).pump s.now ((s.port p).txq.length / 60 + 1))

/-- CTRL_STATUS_FLIT: a good STATUS flit arrives on a port that is UP (R371). -/
def execCtrlStatusFlit (p : Port) (payload : BitVec 480) (s : State) : Out :=
  if (s.port p).state ≠ .up ∨ ctrlField payload 0 1 ≠ 1 then .next s
  else .next ((s.setPort p { ((s.port p).takeCtrl p payload) with nakRuns := 0 }).pumpPort p)

/-- NAK_RECEIVED: a good NAK flit arrives. A new NAK_ID makes the transmitter resend; eight NAKs in a row that name one
ACK_SEQ start a recovery (R374). The acknowledgement stands first (R389). -/
def execNakReceived (p : Port) (payload : BitVec 480) (s : State) : Out :=
  if (s.port p).state ≠ .up ∨ ctrlField payload 0 1 ≠ 2 then .next s
  else
    let id := ctrlField payload 1 1 / 16
    let ack := ctrlField payload 2 2 % 8192
    let l := (s.port p).takeCtrl p payload
    let runs := if l.nakRuns ≠ 0 ∧ l.nakAck = ack then l.nakRuns + 1 else 1
    let fresh := l.lastNak != some id
    let l := { l with nakRuns := runs, nakAck := ack, lastNak := some id }
    let s := s.setPort p (if fresh then l.resend s.now else l)
    let s := s.countIf fresh (match p with | .host => modR 0x1110 | _ => modR 0x6110)
    if 8 ≤ runs then .next (s.recover p) else .next (s.pumpPort p)

/-- CTRL_FLIT_SEND: in the next host-link cycle a port sends a CTRL flit (R371, R375, R385): UP, NAK while it waits for the
expected SEQ, else STATUS; TRAIN in training step 5, and STATUS with the initial credits in step 6. A NAK goes out in the cycle
after the detection at the earliest. -/
def execCtrlFlitSend (p : Port) (s : State) : Out :=
  let l := s.port p
  let s := s.atTime (roundUp (if l.state == .up && l.waiting then max s.now l.nakFrom else s.now) linkCycle)
  match l.state with
  | .up => .next (s.sendCtrl p s.now (s.ctrlPayload p))
  | .down => .next s
  | _ => .next (if l.step = 5 then s.sendCtrl p s.now (s.trainPayload p)
      else if l.step = 6 then s.sendCtrl p s.now (s.ctrlPayload p) else s)

/-- ACK_TIMEOUT: the oldest unacknowledged flit is 10 µs old (R374). -/
def execAckTimeout (p : Port) (s : State) : Out :=
  match (s.port p).replayBuf with
  | [] => .next s
  | f :: _ => if (s.port p).state ≠ .up then .next s else .next ((s.atTime (f.sentAt + usT 10)).recover p)

/-- LANE_LOSS_OF_LOCK: an active lane of a port that is UP loses lock or its alignment marker (R386). -/
def execLaneLossOfLock (p : Port) (lane : Fin 16) (s : State) : Out :=
  if (s.port p).lanes.getLsbD lane then .next (s.recover p) else .next s

/-- FAILED bits of the lanes that did not train; a newly failed one raises LANE_FAILED on the host port. -/
def State.markLanes (s : State) (p : Port) (trained : BitVec 16) : State :=
  let all : BitVec 16 := if p = .host then 0xFFFF else 0xFF
  let failed := all &&& ~~~trained
  let new := failed &&& ~~~(s.port p).failed
  (s.setPort p { s.port p with failed := failed }).evMIf (p == .host && new != 0) 42

/-- RECOVERY_COMPLETE: the lanes that retrained form the width; with a lane lost and AUTO_DEGRADE clear the recovery does
not end (R386). Unacknowledged flits are resent as after a NAK; how many of the flits that the other side sends next are resent
ones is not stated (free value, R377). -/
def execRecoveryComplete (p : Port) (lanes : BitVec 16) (s : State) : Out :=
  let l := s.port p
  if l.state ≠ .recovery then .next s
  else
    let old := s.linkDegraded
    let s := s.markLanes p lanes
    match formWidth lanes l.width with
    | none => .next s
    | some w =>
      if w ≠ l.lanes ∧ !s.bit (modR 0x1000) 4 then .next s
      else
        let r := s.free
        let s := r.2
        let l := s.port p
        let s := s.setPort p ({ l with
          state := .up, lanes := w, step := 0, replayLeft := max l.replayLeft (r.1.toNat % 4097)
          ctrlBy := roundUp s.now linkCycle + 32 * linkCycle }.resend s.now)
        let s := (s.setMode p 0).evMIf (p == .host) 32
        .next ((s.evMIf (!old && s.linkDegraded) 33).pumpPort p)

/-- RECOVERY_TIMEOUT: a recovery has lasted 2 ms (R387). -/
def execRecoveryTimeout (p : Port) (s : State) : Out :=
  if (s.port p).state ≠ .recovery then .next s
  else .next ((s.atTime ((s.port p).recoveryAt + msT 2)).portDown p)

/-! ## Training (R385) -/

/-- The credits that the link starts with (R379, R382). The host's slot and group credits start anew with the link
(DESIGN CHOICE). -/
def Chan.linkUp (x : Chan) : Chan :=
  { x with slotOut := 0, slotCr := 0, grpOut := 0, grpCr := 0, dwrCr := 4096, dwrOut := 4096 }

/-- Step 7: the host port is UP. The first time, the arbiter's STARTUP ends (Table 17.6). -/
def State.hostUp (s : State) (credits : List Nat) : State :=
  let s : State := { s with host := s.host.start s.now s.host.lanes credits }
  let s := ([0, 1, 2, 3] : List Ch).foldl (fun s c => s.modChan c Chan.linkUp) s
  let s := if s.field (modR 0x3000) 1 2 = 1 then s.setMode .host 0 else s
  (s.evM 32).evMIf s.linkDegraded 33

/-- The next step of a port in training or in a recovery. In step 5 the port sends its TRAIN flit, in step 6 a STATUS flit with
its initial credits (Table 14.4). A recovery repeats steps 2 to 5 (R386). -/
def State.nextStep (s : State) (p : Port) : State :=
  let l := s.port p
  let n := min (l.step + 1) (if l.state == .recovery then 5 else 6)
  let s := s.setPort p { l with step := n, stepAt := s.now }
  if n = l.step then s
  else if n = 5 then s.sendCtrl p (roundUp s.now linkCycle) (s.trainPayload p)
  else if n = 6 then s.sendCtrl p (roundUp s.now linkCycle) (s.ctrlPayload p)
  else s

/-- Step 5: the other side's TRAIN flit asks for precoding or not, and this side's asked by PRECODE_RX (R363). -/
def State.takeTrain (s : State) (p : Port) (payload : BitVec 480) : State :=
  s.setPort p { s.port p with
    precodeTx := ctrlField payload 4 1 % 2 == 1, precodeRx := p == .host && s.bit (modR 0x1000) 5 }

/-- TRAINING_STEP_COMPLETE: the step in progress ends (Table 14.4). Step 3 fixes reversal, step 4 forms the width, step 5 takes the
other side's TRAIN flit, step 6 takes the host's credits from its STATUS flit and ends with the link UP. A cascade port waits
at step 6 for CASC_PORT_UP, a recovery at step 5 for its end (R386). -/
def execTrainingStepComplete (p : Port) (lanes : BitVec 16) (reversed : Bool) (payload : BitVec 480) (s : State) : Out :=
  let l := s.port p
  if l.state ≠ .train ∧ l.state ≠ .recovery then .next s
  else
    match l.step with
    | 3 => .next ((s.setPort p { l with reversed := reversed }).nextStep p)
    | 4 =>
      let s := s.markLanes p lanes
      if l.state = .recovery then .next (s.nextStep p)
      else
      match formWidth lanes (if p = .host then s.widthMax else s.cascLanes) with
      | none => .next s
      | some w => .next ((s.setPort p { s.port p with lanes := w }).nextStep p)
    | 5 => .next (if ctrlField payload 0 1 = 3 then (s.takeTrain p payload).nextStep p else s)
    | 6 =>
      if p ≠ .host ∨ ctrlField payload 0 1 ≠ 1 then .next s
      else
        let cr := [0, 1, 2, 3, 4].map (fun v => ctrlField payload (4 + 2 * v) 2)
        let low := decide (cr.getD 1 0 < 256) || decide (cr.getD 3 0 < 64) || decide (cr.getD 4 0 < 64)
        let s := s.setPort p { l with credMinFail := low }
        if low then .next s else .next (s.hostUp cr)
    | _ => .next (s.nextStep p)

/-- TRAINING_TIMEOUT: 25 ms without reaching step 7 restart training at step 1 (R385). -/
def execTrainingTimeout (p : Port) (s : State) : Out :=
  let l := s.port p
  if l.state ≠ .train then .next s
  else
    let s := (s.atTime (l.trainAt + msT 25)).countIf (p == .host) (modR 0x1134)
    .next (s.setPort p { l with step := 1, stepAt := s.now, trainAt := s.now, lanes := 0 })

/-! ## What writes of LINK_CTRL do -/

/-- EN as it changes: training starts, or the link goes down (R385, R387). -/
def State.linkEnChange (old s : State) : State :=
  let a := old.bit (modR 0x1000) 0
  let b := s.bit (modR 0x1000) 0
  if a && !b then s.hostDown else if !a && b then s.startTraining else s

/-- RETRAIN: a recovery on a link that is UP; else training from step 1 (R386, Table 14.5, Table 14.6). -/
def State.retrain (s : State) : State :=
  match s.host.state with
  | .up => s.recover .host
  | .recovery => s
  | .train => { s with host := s.host.stop s.now true }
  | .down => s.startTraining

end Sys2Proof.Machine
end

