-- ==== Sys2Proof/Machine/Writes.lean ====
section
/-! DEFINITION. Every write to the array: what it stores, and what follows from it (R34, R83, R327, R328, R339, R355);
records of Table 07.6 as write items (R318, Table 11.4). -/

namespace Sys2Proof.Machine

/-! ## Writes and what follows (R327, R328, R339) -/

/-- A write to a block clears its references (R339); LCAL_CNT[5] counts the blocks that lost one. -/
def State.clearRefs (s : State) (c : Ch) (bank block : Nat) : State :=
  let s := s.modChan c (fun x => { x with maint := { x.maint with
    written := sset (fun _ => 0) x.maint.written (bank * 33 + block) s.now } })
  let hit (r : SampleRef) : Bool := r.bank == bank && r.block == block && r.valid
  let any := (s.chan c).maint.samples.any (fun p => p.2.any (fun m => m.refs.any hit))
  if !any then s
  else
    let clr (m : Sample) : Sample := { m with refs := m.refs.map (fun r => if hit r then { r with valid := false } else r) }
    (s.count (chR c 0x8114) 1).modChan c (fun x => { x with maint := { x.maint with
      samples := x.maint.samples.map (fun p => (p.1, p.2.map clr)) } })

/-- The scrub of a bank. -/
def Chan.scrubOf (x : Chan) (bank : Nat) : BankScrub := sget (fun _ => ⟨0, 0, 0, [], 0⟩) x.maint.scrub bank
/-- Store it. -/
def Chan.setScrub (x : Chan) (bank : Nat) (v : BankScrub) : Chan :=
  let m := sset (fun _ => (⟨0, 0, 0, [], 0⟩ : BankScrub)) x.maint.scrub bank v
  { x with maint := { x.maint with scrub := m } }

/-- A newer write cancels a waiting scrub write-back of the item (R327). -/
def Chan.cancelWb (x : Chan) (bank kind key : Nat) : Chan :=
  let b := x.scrubOf bank
  if b.wb.contains (kind, key) then x.setScrub bank { b with wb := b.wb.filter (· != (kind, key)) } else x

/-- A word is written with fresh checks, on one place: poison clears (R328), references clear, a waiting write-back is
cancelled. -/
def State.putWord (s : State) (c : Ch) (bank block word : Nat) (w : WordCell) : State :=
  let k := wordKey bank block word
  let bad := ((s.chan c).arr.word k).poison
  let t := (s.modChan c (fun x => { (x.cancelWb bank 0 k) with arr := x.arr.setWord k w })).clearRefs c bank block
  if bad then State.blockEvents s t c else t

/-- Both units of a segment are written; `word` is the segment's first word. -/
def State.putUnits (s : State) (c : Ch) (bank block word : Nat) (u v : RangeUnit) : State :=
  let k := wordKey bank block word
  (s.modChan c (fun x => { (x.cancelWb bank 1 k) with
    arr := (x.arr.setUnit3 k (unit3 u)).setUnit3 (k + 1) (unit3 v) })).clearRefs c bank block

/-- An AD pair is written with fresh checks; `word` is the pair's first word. -/
def State.putAd (s : State) (c : Ch) (bank block word : Nat) (ad : BitVec 64) : State :=
  let k := pairKey bank block (word / 2)
  (s.modChan c (fun x => { (x.cancelWb bank 2 k) with arr := x.arr.setAdPair k (mkAd ad) })).clearRefs c bank block

/-! ## Mirrored writes (R355) -/

/-- The block to which a write of a word of a block must also go: the target of a job that has copied the word's group
and has not reached its fence. -/
def Job.mirror (j : Job) (blk word : Nat) : Option Nat :=
  if j.src = blk ∧ j.step < 7 ∧ (4 ≤ j.step ∨ (j.step = 3 ∧ word / 8 < j.next)) then some j.dst else none

/-- Every place of a write: its own and its mirrors. -/
def Chan.writePlaces (x : Chan) (bank block word : Nat) : List (Nat × Nat) :=
  let blk := bank * 33 + block
  let m (j : Option Job) : List (Nat × Nat) := ((j.bind (fun k => k.mirror blk word)).map (fun d => (d / 33, d % 33))).toList
  (bank, block) :: (m x.mgr.mig ++ m x.mgr.rep)

/-- Who writes an array item: a direct frame, by its number, or the command of an executor of Oluek's. -/
inductive ItemSource
  | frame (n : Nat)
  | exec (x : Nat)
deriving DecidableEq, Repr

/-- A word of this frame or command has raised ENC_VIOLATION: it is raised once per write frame or command (R72). -/
def Chan.encTold (x : Chan) : ItemSource → Bool
  | .frame n => x.encFrame == n
  | .exec e => x.mgr.execs.any (fun p => p.1 == e && p.2.encTold)
/-- It has now. -/
def Chan.encTell (x : Chan) (by_ : ItemSource) : Chan :=
  match by_ with
  | .frame n => { x with encFrame := n }
  | .exec e => { x with mgr := { x.mgr with execs := x.mgr.execs.map (fun p => if p.1 == e then (p.1, { p.2 with encTold := true }) else p) } }

/-- Write a word, with R34's check. -/
def State.writeWord (s : State) (c : Ch) (by_ : ItemSource) (bank block word : Nat) (data mask : BitVec 80) (ecf : BitVec 24) : State :=
  let bad := s.bit (chR c 0x1000) 2 && (data &&& ~~~mask) != 0
  let told := (s.chan c).encTold by_
  let s := (s.countIf bad (chR c 0x1008)).evCIf (bad && !told) c 2
  let s := if bad then s.modChan c (fun x => x.encTell by_) else s
  ((s.chan c).writePlaces bank block word).foldl (fun s p => s.putWord c p.1 p.2 word (mkWord data mask ecf)) s

/-- Write only the ECF of a word, all three copies; data and mask stay as they read, with their checks (Table 11.4). -/
def State.writeEcf (s : State) (c : Ch) (bank block word : Nat) (ecf : BitVec 24) : State :=
  ((s.chan c).writePlaces bank block word).foldl (fun s p =>
    let k := wordKey p.1 p.2 word
    (s.modChan c (fun x => { x with
      arr := x.arr.setWord k { x.arr.word k with ecf0 := ecf, ecf1 := ecf, ecf2 := ecf } })).clearRefs c p.1 p.2) s

/-- Write a range segment. -/
def State.writeUnits (s : State) (c : Ch) (bank block word : Nat) (u v : RangeUnit) : State :=
  ((s.chan c).writePlaces bank block word).foldl (fun s p => s.putUnits c p.1 p.2 word u v) s

/-- Write an AD pair. -/
def State.writeAd (s : State) (c : Ch) (bank block word : Nat) (ad : BitVec 64) : State :=
  ((s.chan c).writePlaces bank block word).foldl (fun s p => s.putAd c p.1 p.2 word ad) s

/-! ## Records of Table 07.6 -/

/-- Byte `i` up to `i + n - 1` of a record. -/
def itemField (it : BitVec 256) (i n : Nat) : Nat := natBits it.toNat (8 * (32 - i - n)) (8 * n)
/-- TYPE. -/
def itemType (it : BitVec 256) : Nat := itemField it 0 1
/-- Table. -/
def itemTable (it : BitVec 256) : Nat := itemField it 1 1
/-- Bank of the index. -/
def itemBank (it : BitVec 256) : Nat := natBits (itemField it 2 3) 18 6
/-- Block of the index. -/
def itemBlock (it : BitVec 256) : Nat := natBits (itemField it 2 3) 12 6
/-- Word of the index. -/
def itemWord (it : BitVec 256) : Nat := natBits (itemField it 2 3) 0 12
/-- The 24 payload bytes. -/
def itemPayload (it : BitVec 256) : List Byte := toBytes 24 (natBits it.toNat 0 192)

/-- A record from its fields and payload. -/
def mkItem (ty table bank block word : Nat) (payload : List Byte) : BitVec 256 :=
  BitVec.ofNat 256 (ofBytes ([BitVec.ofNat 8 ty, BitVec.ofNat 8 table] ++ toBytes 3 (bank * 2 ^ 18 + block * 2 ^ 12 + word)
    ++ toBytes 3 0 ++ padTo 24 payload))

/-- A record that writes a register: control-area offset or indirect address, and value (R502). -/
def regItem (ind : Bool) (off : Nat) (v : Word) : BitVec 256 :=
  BitVec.ofNat 256 (ofBytes ([0x10, if ind then 1 else 0] ++ toBytes 6 0 ++ toBytes 4 off ++ toBytes 4 v.toNat ++ toBytes 16 0))

/-! A planned AD item of Oluek's that writes one half of a pair names the half in byte 5, which the format leaves 0: 1 for bits
[31:0], 2 for bits [63:32]. The mark never leaves the manager queue. -/

/-- Mark the half that an AD item writes. -/
def halfItem (h : Nat) (it : BitVec 256) : BitVec 256 := it ||| BitVec.ofNat 256 (h * 2 ^ 208)
/-- An item without the mark, as the journal holds it and as it comes from an image. -/
def bareItem (it : BitVec 256) : BitVec 256 := it &&& ~~~(BitVec.ofNat 256 (0xFF * 2 ^ 208))
/-- A pair as it decodes (R85). An uncorrectable one reads as it is stored. -/
def ArrayMem.pairAd (a : ArrayMem) (pair : Nat) : BitVec 64 :=
  match rsDecode (toBytes 8 (a.adPair pair).ad.toNat) (a.adPair pair).chk with
  | .corrected m => BitVec.ofNat 64 (ofBytes m)
  | _ => (a.adPair pair).ad
/-- The pair that an AD item stores: the whole one, or its half beside the half that stands in the pair when the item is written
(R83). The other half of an uncorrectable pair stays as it is stored: DESIGN CHOICE (log entry 62). -/
def ArrayMem.mergeAd (a : ArrayMem) (pair half : Nat) (ad : BitVec 64) : BitVec 64 :=
  match half with
  | 1 => (a.pairAd pair &&& 0xFFFFFFFF00000000) ||| (ad &&& 0xFFFFFFFF)
  | 2 => (a.pairAd pair &&& 0xFFFFFFFF) ||| (ad &&& 0xFFFFFFFF00000000)
  | _ => ad

/-- The index lies in the array. -/
def itemInArray (it : BitVec 256) : Bool := decide (itemBank it < 36) && decide (itemBlock it < 33)

/-- The other epoch slot. -/
def Chan.othSlot (x : Chan) : Nat := 1 - x.curSlot

/-- Apply an array record (Table 11.4, Table 07.6). -/
def State.applyItem (s : State) (c : Ch) (by_ : ItemSource) (it : BitVec 256) : State :=
  let it := match by_ with | .frame _ => bareItem it | .exec _ => it
  let bank := itemBank it
  let block := itemBlock it
  let word := itemWord it
  let p := itemPayload it
  let setE (b : Bool) : State :=
    let e := ((s.chan c).arr.word (wordKey bank block word)).ecf
    let m : BitVec 24 := BitVec.ofNat 24 (2 ^ (1 + (s.chan c).othSlot))
    s.writeEcf c bank block word (if b then e ||| m else e &&& ~~~m)
  if !itemInArray it then s
  else match itemType it with
  | 1 =>
    let w := wordOfImage p
    s.writeWord c by_ bank block word w.data w.mask w.ecf0
  | 2 =>
    let u := unitsOfImage p
    s.writeUnits c bank block (word - word % 2) u.1 u.2
  | 3 => s.writeAd c bank block (word - word % 2)
      ((s.chan c).arr.mergeAd (pairKey bank block (word / 2)) (itemField it 5 1) (BitVec.ofNat 64 (bytesAt p 0 8)))
  | 4 => setE true
  | 5 => setE false
  | 6 => s.writeEcf c bank block word (BitVec.ofNat 24 (bytesAt p 0 3))
  | _ => s

/-! ## The array as the manager queue will leave it -/

/-- The channel with every array item of the manager queue applied to its array: what Oluek's record of entries sees. -/
def State.planned (s : State) (c : Ch) : ArrayMem :=
  let oth := (s.chan c).othSlot
  (s.chan c).mgr.items.foldl (fun (a : ArrayMem) m =>
    let it := m.item
    let k := wordKey (itemBank it) (itemBlock it) (itemWord it)
    let p := itemPayload it
    let ecf (e : BitVec 24) : ArrayMem := a.setWord k { a.word k with ecf0 := e, ecf1 := e, ecf2 := e }
    let msk : BitVec 24 := BitVec.ofNat 24 (2 ^ (1 + oth))
    if !itemInArray it then a
    else match itemType it with
    | 1 => a.setWord k (wordOfImage p)
    | 2 =>
      let u := unitsOfImage p
      (a.setUnit3 (k - k % 2) (unit3 u.1)).setUnit3 (k - k % 2 + 1) (unit3 u.2)
    | 3 =>
      let k := pairKey (itemBank it) (itemBlock it) (itemWord it / 2)
      a.setAdPair k (mkAd (a.mergeAd k (itemField it 5 1) (BitVec.ofNat 64 (bytesAt p 0 8))))
    | 4 => ecf ((a.word k).ecf ||| msk)
    | 5 => ecf ((a.word k).ecf &&& ~~~msk)
    | 6 => ecf (BitVec.ofNat 24 (bytesAt p 0 3))
    | _ => a) (s.chan c).arr

/-! ## Write-backs that are not writes (R327, R339) -/

/-- The scrub restores an item of a group: corrected content and fresh checks; nothing is cleared or mirrored. -/
def Chan.restore (x : Chan) (kind key : Nat) : Chan :=
  match kind with
  | 0 =>
    let w := x.arr.word key
    let e := w.ecf
    let d := match rsDecode (toBytes 10 w.data.toNat ++ toBytes 10 w.mask.toNat) w.chk with
      | .corrected m => (BitVec.ofNat 80 (bytesAt m 0 10), BitVec.ofNat 80 (bytesAt m 10 10), rsChecks m)
      | _ => (w.data, w.mask, w.chk)
    { x with arr := x.arr.setWord key { w with data := d.1, mask := d.2.1, chk := d.2.2, ecf0 := e, ecf1 := e, ecf2 := e } }
  | 1 =>
    { x with arr := (x.arr.setUnit3 key (unit3 (x.arr.unit3 key).eff)).setUnit3 (key + 1) (unit3 (x.arr.unit3 (key + 1)).eff) }
  | _ =>
    let a := x.arr.adPair key
    match rsDecode (toBytes 8 a.ad.toNat) a.chk with
    | .corrected m => { x with arr := x.arr.setAdPair key (mkAd (BitVec.ofNat 64 (ofBytes m))) }
    | _ => x

end Sys2Proof.Machine
end

