-- ==== Sys2Proof/Machine/Manager.lean ====
section
/-! DEFINITION. The manager: mailboxes, responses, executors, the lock table and the sheepdog, and what halts Oluek
(chapter 09). -/

namespace Sys2Proof.Machine

/-! ## Access -/

/-- Change a channel's manager. -/
def State.modMgr (s : State) (c : Ch) (f : Mgr → Mgr) : State := s.modChan c (fun x => { x with mgr := f x.mgr })
/-- A mailbox. -/
def Mgr.box (m : Mgr) (n : Nat) : Mailbox := m.boxes.getD n ⟨.empty, []⟩
/-- A byte of a request buffer. -/
def Mailbox.byte (b : Mailbox) (i : Nat) : Nat := (b.buf.getD i 0).toNat
/-- Change the state of a mailbox. -/
def State.setBox (s : State) (c : Ch) (n : Nat) (st : MbxState) : State :=
  s.modMgr c (fun m => { m with boxes := modAt n (fun b => { b with state := st }) m.boxes })
/-- No executor. -/
def Exec.none : Exec :=
  { mbx := 16, hf := 0, req := [], phase := 0, want := [], broken := Option.none, attempt := 0, nums := [], since := 0,
    resp := Option.none, jpos := Option.none, encTold := false }
/-- Executor `x`, if it is in use. -/
def Mgr.exec? (m : Mgr) (x : Nat) : Option Exec := (m.execs.find? (fun p => p.1 == x)).map (·.2)
/-- Store executor `x`. -/
def State.setExec (s : State) (c : Ch) (x : Nat) (e : Exec) : State :=
  s.modMgr c (fun m => { m with execs := sset (fun _ => Exec.none) m.execs x e })
/-- Executor `x` is free again. -/
def State.freeExec (s : State) (c : Ch) (x : Nat) : State :=
  s.modMgr c (fun m => { m with execs := m.execs.filter (fun p => p.1 != x) })
/-- Parameter byte field: `n` bytes from parameter byte `i` (R265). -/
def Exec.par (e : Exec) (i n : Nat) : Nat := bytesAt e.req (16 + i) n
/-- CMD of a request. -/
def Exec.code (e : Exec) : Nat := bytesAt e.req 0 1
/-- SEQ of a request. -/
def Exec.seq (e : Exec) : Nat := bytesAt e.req 2 2
/-- PLEN of a request. -/
def Exec.plen (e : Exec) : Nat := bytesAt e.req 4 2

/-! ## Responses (R249, R251) -/

/-- A response: its 16-byte header and its result bytes (Table 09.4). -/
def responseBytes (status seq cmd mbx detail : Nat) (res : List Byte) : List Byte :=
  toBytes 2 status ++ toBytes 2 seq ++ toBytes 2 res.length ++ toBytes 1 cmd ++ toBytes 1 mbx ++ toBytes 8 detail ++ res

/-- Push a response on VC3. -/
def State.pushResponse (s : State) (c : Ch) (mbx : Nat) (final : Bool) (resp : List Byte) : State :=
  { s with egr := { s.egr with
      responses := s.egr.responses ++ [⟨c, mbx, final, mbxResponseBytes (mbx / 2) c mbx resp⟩] } }

/-- A final response: a QUEUED response that still waits is dropped, and the mailbox is RESPONDING (R244, R249). While the
host link is down the response is discarded and the mailbox returns to EMPTY (R387). -/
def State.sendFinal (s : State) (c : Ch) (mbx : Nat) (resp : List Byte) : State :=
  let rs := s.egr.responses.filter (fun r => !(r.ch == c && r.mbx == mbx))
  let s : State := { s with egr := { s.egr with responses := rs } }
  if s.host.isUp then (s.setBox c mbx .responding).pushResponse c mbx true resp else s.emptyMailbox c mbx

/-- The hardware responder answers a mailbox (R251, R260). -/
def State.hwRespond (s : State) (c : Ch) (status mbx : Nat) : State :=
  let b := (s.chan c).mgr.box mbx
  let r := responseBytes status (bytesAt b.buf 2 2) (b.byte 0) mbx 0 []
  (s.count (chR c 0xA110) 1).sendFinal c mbx r

/-- Status codes (Table 10.1). -/
def stOK : Nat := 0x0000
/-- NO_SPACE. -/
def stNoSpace : Nat := 0x0101
/-- BAD_TABLE. -/
def stBadTable : Nat := 0x0102
/-- BAD_PARAM. -/
def stBadParam : Nat := 0x0103
/-- DENIED. -/
def stDenied : Nat := 0x0104
/-- EPOCH_STATE. -/
def stEpoch : Nat := 0x0105
/-- RETRY_LOCK. -/
def stRetry : Nat := 0x0106
/-- BUSY. -/
def stBusy : Nat := 0x0107
/-- NOT_FOUND. -/
def stNotFound : Nat := 0x0108
/-- EXISTS. -/
def stExists : Nat := 0x0109
/-- HW_FAULT. -/
def stFault : Nat := 0x010A
/-- TIMEOUT. -/
def stTimeout : Nat := 0x010B
/-- IMAGE_INVALID. -/
def stImage : Nat := 0x010C

/-! ## Locks (R255 to R257) -/

/-- A lock slot that is not in use. -/
def LockSlot.free : LockSlot := ⟨0xFFFF, 0, 0⟩
/-- The lock of a key, if it is granted. -/
def Mgr.lock? (m : Mgr) (key : Nat) : Option LockSlot := (m.locks.find? (fun p => p.2.key == key)).map (·.2)
/-- The lowest unused lock slot. -/
def Mgr.freeLock (m : Mgr) : Option Nat := (List.range 64).find? (fun i => m.locks.all (fun p => p.1 != i))
/-- Grant a lock in the lowest unused slot. -/
def Mgr.grant (m : Mgr) (key holder now : Nat) : Mgr :=
  match m.freeLock with
  | Option.none => m
  | some i => { m with locks := sset (fun _ => LockSlot.free) m.locks i ⟨key, holder, now⟩ }
/-- Release every lock of a holder. -/
def Mgr.release (m : Mgr) (holder : Nat) : Mgr := { m with locks := m.locks.filter (fun p => p.2.holder != holder) }
/-- Keys that a holder has been granted. -/
def Mgr.keysOf (m : Mgr) (holder : Nat) : List Nat := (m.locks.filter (fun p => p.2.holder == holder)).map (·.2.key)
/-- The lock key of a flow table. -/
def flowKeyLock (t : Nat) : Nat := 0x8000 + t
/-- The key that an executor's pending request names. -/
def Exec.request (e : Exec) : Option Nat := if e.broken.isSome then Option.none else e.want.head?

/-- The next manager-core cycle. -/
def State.nextMgrCycle (s : State) : Nat := (s.now / mgrCycle + 1) * mgrCycle

/-- A command is broken by the sheepdog or refused by R256: it gives its locks up and its request is withdrawn. It keeps
the keys it must ask for again (R258, R259). -/
def State.breakCmd (s : State) (c : Ch) (x : Nat) : State :=
  let m := (s.chan c).mgr
  match m.exec? x with
  | Option.none => s
  | some e =>
    let keys := (m.keysOf x ++ e.want).foldl (fun l k => insertNat k l) []
    let s := s.setExec c x { e with want := keys, broken := some s.now, attempt := e.attempt + 1 }
    s.modMgr c (fun m => m.release x)

/-- The locks of a job. -/
def Job.keys (j : Job) : List Nat := [j.src, j.dst]

/-! ## The sheepdog (R258, R259) -/

/-- The holder that an executor waits for. -/
def Mgr.waitsFor (m : Mgr) (x : Nat) : Option Nat :=
  (((m.exec? x).bind Exec.request).bind m.lock?).map (·.holder)

/-- The holders on the chain of waits from `x`, `n` steps at most. -/
def Mgr.chain (m : Mgr) : Nat → Nat → List Nat
  | 0, _ => []
  | n + 1, x => match m.waitsFor x with
    | Option.none => []
    | some h => h :: m.chain n h

/-- Whether a holder lies on a cycle of the wait-for graph. -/
def Mgr.inCycle (m : Mgr) (x : Nat) : Bool := (m.chain 10 x).contains x

/-- The time of a holder's most recent grant. -/
def Mgr.lastGrant (m : Mgr) (x : Nat) : Nat := (m.locks.filter (fun p => p.2.holder == x)).foldl (fun a p => max a p.2.at_) 0

/-- Whether `x` is the victim of its cycle: its most recent grant is the latest. -/
def Mgr.isVictim (m : Mgr) (x : Nat) : Bool :=
  m.inCycle x && (m.chain 10 x).all (fun h => decide (m.lastGrant h < m.lastGrant x) || h == x)

/-- SHEEPDOG_INSPECTION: every 10 µs one victim of each cycle of the wait-for graph loses its locks (R258). -/
def execSheepdogInspection (c : Ch) (s : State) : Out :=
  let s := s.atTime ((s.chan c).mgr.sheepAt + usT 10)
  let m := (s.chan c).mgr
  let s := s.modMgr c (fun m => { m with sheepAt := s.now })
  .next (((List.range 8).filter m.isVictim).foldl (fun s x =>
    match m.exec? x with
    | Option.none => s
    | some e =>
      -- the retire sweep of Oluek's own runs no mailbox's command: MBX is then free (log entry 18)
      let r := if e.mbx < 16 then (e.mbx, s) else (s.free.1.toNat % 16, s.free.2)
      let log := x + 16 * r.1 + 256 * (e.want.headD 0)
      (((r.2.count (chR c 0xA114) 1).capture (chR c 0xA140) log).evC c 387).breakCmd c x) s)

/-! ## Halt (R260) -/

/-- A job whose command has been answered goes on for no executor; 15 names none (Table 13.2). -/
def Job.orphan (j : Job) : Job := { j with owner := j.owner.map (fun _ => 15) }

/-- Oluek stops: MGR_UP is 0, every RUNNING or PENDING mailbox is answered with HW_FAULT, and the executors' locks are
released. Array items already in the manager queue are still written; the other queued items were Oluek's own acts. -/
def State.haltMgr (s : State) (c : Ch) : State :=
  let m := (s.chan c).mgr
  let busy := (List.range 16).filter (fun n => (m.box n).state == .pending || (m.box n).state == .running)
  let kept := (m.items.filter (fun i => decide (itemType i.item < 16))).map (fun i => { i with owner := 11 })
  let s := s.modChan c (fun x => { x with
    flow := { x.flow with tickets := x.flow.tickets.filter (fun t => match t.owner with | .mailbox _ => false | _ => true) }
    mgr := { x.mgr with
      up := false, loading := false, execs := [], rung := [], upd := Option.none, items := kept, sweeping := false
      mig := x.mgr.mig.map Job.orphan, rep := x.mgr.rep.map Job.orphan
      locks := x.mgr.locks.filter (fun p => decide (8 ≤ p.2.holder)) } })
  busy.foldl (fun s n => s.hwRespond c stFault n) s

/-- MGR_WATCHDOG_EXPIRY: Oluek has not served the watchdog for 50 ms (R260). -/
def execMgrWatchdogExpiry (c : Ch) (s : State) : Out :=
  if (s.chan c).mgr.up && s.bit (chR c 0xA00C) 1 then
    let s := s.atTime ((s.chan c).mgr.served + msT 50)
    .next (((s.count (chR c 0xA11C) 1).evC c 388).haltMgr c)
  else .next s

/-- MGR_CTRL.RESTART: a running Oluek halts first; the active image is loaded (R261). -/
def State.restartMgr (s : State) (c : Ch) : State :=
  let s := if (s.chan c).mgr.up then s.haltMgr c else s
  s.modMgr c (fun m => { m with loading := true })

/-! ## Doorbells and dispatch (R245, R250) -/

/-- One doorbell bit of a mailbox (R245, R251, Table 09.7). `hf` is the writer. -/
def State.ringBell (s : State) (c : Ch) (hf : Hf) (n : Nat) : State :=
  if !s.mayMbx hf c n then (s.count (chR c 0xA108) 1).evC c 386 n
  else if ((s.chan c).mgr.box n).state ≠ .empty then (s.count (chR c 0xA104) 1).evC c 385 n
  else
    let s := s.count (chR c 0xA100) 1
    if (s.chan c).mgr.up then
      (s.setBox c n .pending).modMgr c (fun m => { m with rung := m.rung ++ [n] })
    else s.hwRespond c stBusy n

/-- A doorbell bit rings its mailbox. -/
def State.mayRing (s : State) (c : Ch) (hf : Hf) (n : Nat) : Bool := s.mayMbx hf c n && ((s.chan c).mgr.box n).state == .empty

/-- The doorbell bits of one write, in rotating order of the mailbox numbers; those that ring drop to the lowest ranks (R250). -/
def State.ringBells (s : State) (c : Ch) (hf : Hf) (bits : Nat) : State :=
  let order := (s.chan c).mgr.boxRanks.filter (fun n => bits.testBit n)
  let rung := order.filter (fun n => s.mayRing c hf n)
  let s := order.foldl (fun s n => s.ringBell c hf n) s
  s.modMgr c (fun m => { m with boxRanks := m.boxRanks.filter (fun n => !rung.contains n) ++ rung })

/-- The command codes of Table 10.2. -/
def cmdCodes : List Nat :=
  [0x01, 0x02, 0x03, 0x10, 0x11, 0x12, 0x13, 0x14, 0x20, 0x21, 0x22, 0x23, 0x24, 0x30, 0x31, 0x32, 0x33, 0x34, 0x35,
   0x40, 0x41, 0x42, 0x43, 0x50, 0x51, 0x60, 0x61, 0x70, 0x71, 0x72, 0x80, 0x81, 0x90]

/-- The header checks of R248: the status of the first that fails. -/
def headerCheck (mbx : Nat) (b : List Byte) : Option Nat :=
  let f (i n : Nat) : Nat := bytesAt b i n
  if f 6 1 % 8 ≠ mbx / 2 then some stDenied
  else if !cmdCodes.contains (f 0 1) then some stBadParam
  else if 240 < f 4 2 ∨ 4 ≤ f 1 1 ∨ 8 ≤ f 6 1 ∨ f 7 9 ≠ 0 then some stBadParam
  else Option.none

/-- MBX_DISPATCH: the oldest PENDING mailbox goes to the lowest free executor, and its header is checked (R248, R250). A
QUEUED response leaves when EARLY_ACK is set (R249). While a MANAGER_UPDATE waits, none is taken (R262). -/
def execMbxDispatch (c : Ch) (s : State) : Out :=
  let m := (s.chan c).mgr
  match m.rung, (List.range 8).find? (fun x => (m.exec? x).isNone) with
  | n :: rest, some x =>
    if !m.up || m.upd.isSome then .next s
    else
      let b := padTo 256 (m.box n).buf
      let s := (s.setBox c n .running).modMgr c (fun m => { m with rung := rest, served := s.now })
      let r (st : Nat) : List Byte := responseBytes st (bytesAt b 2 2) (bytesAt b 0 1) n 0 []
      match headerCheck n b with
      | some st => .next (s.sendFinal c n (r st))
      | Option.none =>
        if (s.chan c).req == some .off then .next (s.sendFinal c n (r stBusy))
        else
        let s := if bytesAt b 1 1 % 2 = 1 ∧ s.host.isUp then s.pushResponse c n false (r 1) else s
        .next (s.setExec c x { Exec.none with mbx := n, hf := n / 2, req := b, since := s.now })
  | _, _ => .next s

/-- A final response has left on VC3: its mailbox is EMPTY, and MBX_RESPONSE is raised unless NO_EVENT is set (R245, R249). -/
def State.responseSent (s : State) (c : Ch) (mbx : Fin 16) : State :=
  if s.egr.gone.contains (c.val, mbx.val) then
    let quiet := ((s.chan c).mgr.box mbx).byte 1 / 2 % 2 = 1
    let g := dropFirst (fun p => p == (c.val, mbx.val)) s.egr.gone
    let s : State := { s with egr := { s.egr with gone := g } }
    ((s.count (chR c 0xA10C) 1).evCIf (!quiet) c 384 mbx).emptyMailbox c mbx
  else s

/-- MBX_RESPONSE_SENT. -/
def execMbxResponseSent (c : Ch) (mbx : Fin 16) (s : State) : Out := .next (s.responseSent c mbx)

/-! ## The journal (R502 to R504) -/

/-- The flash area of a channel. -/
def State.flash (s : State) (c : Ch) : Flash := s.boot.flash.get c
/-- Change it. -/
def State.modFlash (s : State) (c : Ch) (f : Flash → Flash) : State :=
  { s with boot := { s.boot with flash := s.boot.flash.set c (f (s.flash c)) } }
/-- Items that a journal record of at most 65,536 bytes holds. -/
def recItems : Nat := 2046
/-- Add items to the open journal buffer. -/
def State.journal (s : State) (c : Ch) (its : List (BitVec 256)) : State :=
  if its = [] then s
  else s.modFlash c (fun f => { f with buf := f.buf ++ its, openedAt := if f.buf = [] then s.now else f.openedAt })
/-- The JSEQ of the record that will hold the last item of the buffer. -/
def Flash.lastPos (f : Flash) : Nat := f.jseq + (f.buf.length - 1) / recItems
/-- The record with a JSEQ has been committed. -/
def Flash.committed (f : Flash) (j : Nat) : Bool :=
  decide (j < f.jseq) && f.prog.all (fun p => p.1.jseq != j)
/-- Bytes of a record. -/
def JRec.size (r : JRec) : Nat := 64 + 32 * r.items.length
/-- Bytes of the journal ring in use. -/
def Flash.used (f : Flash) : Nat := f.recs.foldl (fun a r => a + r.size) 0
/-- Bytes of the journal ring. -/
def ringSize : Nat := 2 ^ 31
/-- JOURNAL_PCT. -/
def Flash.pct (f : Flash) : Nat := f.used * 100 / ringSize
/-- No room is left for another record. -/
def Flash.full (f : Flash) : Bool := decide (ringSize < f.used + 65536)

/-! ## Ends of commands -/

/-- A command whose final response is known responds once its queued items are written and, with SYNC_RESP, its last
change is committed (R504). Its locks are released and its executor is free. -/
def State.tryRespond (s : State) (c : Ch) (x : Nat) : State :=
  let m := (s.chan c).mgr
  match m.exec? x with
  | Option.none => s
  | some e =>
    match e.resp with
    | Option.none => s
    | some r =>
      if m.items.any (fun i => i.owner == x) then s
      else if s.bit (modR 0x8010) 0 && (match e.jpos with | some j => !(s.flash c).committed j | Option.none => false) then s
      else ((s.modMgr c (fun m => m.release x)).freeExec c x).sendFinal c e.mbx r

/-- A command ends with a status, a DETAIL and result bytes. -/
def State.finish (s : State) (c : Ch) (x : Nat) (status : Nat) (detail : Nat := 0) (res : List Byte := []) : State :=
  match (s.chan c).mgr.exec? x with
  | Option.none => s
  | some e =>
    let r := responseBytes status e.seq e.code e.mbx detail res
    (s.setExec c x { e with resp := some r, want := [] }).tryRespond c x

/-- COMMAND_RESTART: after its back-off a broken command asks for its locks again; after the third restart the next break
ends it with RETRY_LOCK, but never EPOCH_RETIRE (R259), nor what Oluek runs for itself. -/
def execCommandRestart (c : Ch) (x : Fin 8) (s : State) : Out :=
  match (s.chan c).mgr.exec? x with
  | Option.none => .next s
  | some e =>
    match e.broken with
    | Option.none => .next s
    | some t =>
      if 3 < e.attempt ∧ e.code ≠ 0x23 ∧ e.mbx ≠ 16 then
        .next (((s.count (chR c 0xA118) 1).setExec c x { e with broken := Option.none }).finish c x stRetry)
      else
        let s := s.atTime (t + usT (20 * min e.attempt 3))
        .next (s.setExec c x { e with broken := Option.none })

end Sys2Proof.Machine
end

