-- ==== Sys2Proof/Machine/Images.lean ====
section
/-! DEFINITION. Signed images (R496, R497), the READY pin (R495), and what every wake and module reset share. -/

namespace Sys2Proof.Machine

/-! ## Signed images (Table 20.2) -/

/-- A field of a signed header. -/
def imgField (b : List Byte) (i n : Nat) : Nat := bytesAt b i n
/-- VERSION. -/
def imgVersion (b : List Byte) : Nat := imgField b 8 4
/-- KEY_IDX. -/
def imgKey (b : List Byte) : Nat := imgField b 6 1 % 4
/-- CODE_LEN. -/
def imgCode (b : List Byte) : Nat := imgField b 12 4
/-- CFG_LEN. -/
def imgCfg (b : List Byte) : Nat := imgField b 16 4
/-- The signed content. -/
def imgContent (b : List Byte) : List Byte := b.take 160 ++ (b.drop 256).take (imgCode b + imgCfg b)

/-- What is wrong with a signed image (R497), by the codes of BOOT_UPD_STATUS.RESULT: 2 header, 3 key, 4 signature; 1 when
nothing is. -/
def imageFault (boot : Bool) (revoked : BitVec 4) (b : List Byte) : Nat :=
  let magic := if boot then 0x4A424F54 else 0x4F4C554B
  let most := if boot then 0x7FFF00 else 0x3FFFF00
  let k := imgKey b
  if b.length < 256 ∨ imgField b 0 4 ≠ magic ∨ imgField b 4 2 ≠ 1 ∨ most < imgCode b ∨ most < imgCode b + imgCfg b
      ∨ b.length < 256 + imgCode b + imgCfg b ∨ imgCfg b % 8 ≠ 0 ∨ (!boot ∧ imgCfg b ≠ 0) then 2
  else if revoked.getLsbD k ∨ Config.sha384 ((b.drop 64).take 96) ≠ Config.keyHash (Fin.ofNat 4 k) then 3
  else if !Config.ecdsaGood (BitVec.ofNat 768 (imgField b 64 96)) (BitVec.ofNat 768 (imgField b 160 96))
      (Config.sha384 (imgContent b)) then 4
  else 1

/-- An image is good (R497). -/
def imageGood (boot : Bool) (revoked : BitVec 4) (b : List Byte) : Bool := imageFault boot revoked b == 1

/-! ## READY (R495) -/

/-- CH_STATUS.FAULT (R466). -/
def Chan.faulted (x : Chan) : Bool := x.causes != 0

/-- The conditions of R495. -/
def State.readyNow (s : State) : Bool :=
  s.bit (modR 0x0014) 0 && s.pwr.holdupOk && s.pwr.on && s.pwr.ebb.isNone
    && ([0, 1, 2, 3] : List Ch).all (fun c =>
      let x := s.chan c
      (!s.bit (modR 0x8008) c.val || x.ready || (x.faulted && (x.power == .on || x.power == .idle)))
        && (!s.bit (modR 0x8008) (4 + c.val) || (s.flash c).restoreDone))

/-- READY asserts once its conditions hold, and MODULE_READY is raised. -/
def State.checkReady (s : State) : State :=
  if !s.boot.ready && s.readyNow then ({ s with boot := { s.boot with ready := true } }).evM 131 else s

/-! ## The manager core's image (R501, R261) -/

/-- The Oluek image of a slot. -/
def Flash.image (f : Flash) (slot : Bool) : List Byte := if slot then f.olB else f.olA

/-- Oluek's image is loaded from the active slot, or from the other one when that is not good, and Oluek starts (R501,
R261). With no good image MGR_UP stays 0. -/
def State.startOluek (s : State) (c : Ch) : State :=
  let f := s.flash c
  let good (b : Bool) : Bool := imageGood false s.boot.revoked (f.image b)
  let run (s : State) (b : Bool) : State :=
    let s := (s.modFlash c (fun f => { f with olActive := b })).setReg (chR c 0xA010) (BitVec.ofNat 32 (imgVersion (f.image b)))
    s.modMgr c (fun m => { m with up := true, loading := false, served := s.now, sheepAt := s.now })
  if good f.olActive then run s f.olActive
  else if good (!f.olActive) then (run s (!f.olActive)).evM 141
  else s.modMgr c (fun m => { m with up := false, loading := false })

end Sys2Proof.Machine
end

