-- ==== Sys2Proof/Machine/Channel.lean ====
section
/-! DEFINITION. Channel power states (R25 to R32, R358, R360, R522) and channel-down faults (R466 to R468). -/

namespace Sys2Proof.Machine

/-! ## Shared steps -/

/-- CH_CTRL of a channel. -/
def chCtrl (c : Ch) : Nat := chR c 0x0004
/-- STATE_REQ returns to 0b00 and no request is pending. -/
def State.endReq (s : State) (c : Ch) : State := (s.setField (chCtrl c) 1 2 0).modChan c (fun x => { x with req := none })
/-- A write of STATE_REQ is ignored, or a request is rejected (R28, R29). -/
def State.rejected (s : State) (c : Ch) : State := s.evC c 449
/-- STATE changes to ON, IDLE or OFF. -/
def State.enterState (s : State) (c : Ch) (p : ChPower) : State :=
  (s.modChan c (fun x => { x with power := p })).evC c 448
/-- Hardware clears ADMIT_EN. -/
def State.clearAdmit (s : State) (c : Ch) : State := State.mirrorEvents s (s.setB (chCtrl c) 0 false)
/-- Answer every PENDING mailbox (Table 01.9). -/
def State.answerPending (s : State) (c : Ch) (status : Nat) : State :=
  let m := (s.chan c).mgr
  let ns := (List.range 16).filter (fun n => (m.box n).state == .pending)
  let s := ns.foldl (fun s n =>
    let b := (s.chan c).mgr.box n
    s.sendFinal c n (responseBytes status (bytesAt b.buf 2 2) (b.byte 0) n 0 [])) s
  s.modMgr c (fun m => { m with rung := [] })
/-- Every modified line of the update cache goes back to HBM (Table 13.3 step 4). -/
def Chan.flushLines (x : Chan) : Chan :=
  let y := x.flow.lines.foldl (fun y l => y.flushLine l) x
  { y with flow := { y.flow with lines := y.flow.lines.map (fun l => { l with dirty := false }) } }

/-! ## IDLE (R358) -/

/-- The channel enters IDLE. With a fault present steps 2 to 5 of Table 13.3 are skipped (R468). -/
def State.enterIdle (s : State) (c : Ch) : State :=
  let faulted := (s.chan c).faulted
  let s := s.clearAdmit c
  let s := (s.ageOff c).modChan c (fun x => x.dropEngine FlowOwner.isEngine)
  let s := if faulted then s else
    ((s.modChan c Chan.flushLines).setB (chR c 0xD000) 0 true).evCIf (!s.bit (chR c 0xD000) 0) c 417
  let s := s.modChan c (fun x => { x with ready := false })
  (s.endReq c).enterState c .idle

/-- IDLE_ENTRY_COMPLETE: a request for IDLE ends once no context is charged and the export queue is empty (Table 13.3). -/
def execIdleEntryComplete (c : Ch) (s : State) : Out :=
  let x := s.chan c
  if x.power == .on && x.req == some .idle && x.charges.isEmpty && (x.flow.exports.isEmpty || x.faulted) then .next (s.enterIdle c)
  else .next s

/-- The allocated blocks of a channel whose tables hold a sample, in the order of their banks (R342, R348). -/
def State.sampledBlocks (s : State) (c : Ch) : List (Nat × Nat) :=
  ((s.allocBlocks c).filter (fun q => !(sget (fun _ => []) (s.chan c).maint.samples (bmTable q.2.2)).isEmpty)).map
    (fun q => (q.1, q.2.1))

/-- IDLE to ON begins: FREEZE clears, and one pass of every allocated block with its stored samples is queued beside the work
that waits already (Table 01.9, R348, R358); a block with a priority pass gets no second one. -/
def State.startResume (s : State) (c : Ch) : State :=
  let blocks := s.sampledBlocks c
  (s.setB (chR c 0xD000) 0 false).modChan c (fun x => { x with
    req := some .on, reqAt := s.now
    maint := { x.maint with resume := true, periodic := blocks.filter (fun q =>
      !(x.maint.prio.contains q || x.maint.cur.any (fun p => p.2.prio && p.1 / 2 == q.1 && p.2.block == q.2))) } })

/-- The passes of an IDLE-to-ON request are over; priority passes go on. -/
def Maint.endResume (m : Maint) : Maint := { m with resume := false, periodic := [], cur := m.cur.filter (fun p => p.2.prio) }

/-- RESUME_CAL_PASS_DONE: the passes of an IDLE-to-ON request have ended, or 2 ms of them have passed: ON with READY (Table
01.9). -/
def execResumeCalPassDone (c : Ch) (s : State) : Out :=
  let x := s.chan c
  if x.power == .idle && x.req == some .on
      && (x.maint.periodic.isEmpty && x.maint.cur.isEmpty && x.maint.prio.isEmpty || decide (x.reqAt + msT 2 ≤ s.now)) then
    let s := s.modChan c (fun x => { x with ready := true, maint := x.maint.endResume })
    .next (((s.endReq c).enterState c .on).checkReady)
  else .next s

/-! ## OFF (R360, R522) -/

/-- Whether a register of a channel's region is held in the base die and keeps its value through OFF (R522). -/
def keptOff (key : Nat) : Bool :=
  let off := key % 2 ^ 24
  decide (key / 2 ^ 24 % 2 = 0) &&
    (decide (off < 0x1000) || (decide (0xB000 ≤ off) && decide (off < 0xC000)) || (decide (0xE000 ≤ off) && decide (off < 0xF000))
      || (decide (0x5014 ≤ off) && decide (off ≤ 0x5028)))

/-- A register that a channel's OFF returns to its reset value. -/
def lostOff (c : Ch) (key : Nat) : Bool := key / 2 ^ 25 == c.val + 1 && !keptOff key

/-- What the base die keeps of a channel that is OFF. -/
def Chan.turnedOff (x : Chan) : Chan :=
  { Chan.reset with
    causes := x.causes &&& 3, ingress := x.ingress, egress := x.egress, slotOut := x.slotOut, grpOut := x.grpOut
    slotCr := x.slotCr, grpCr := x.grpCr, lastCredit := x.lastCredit, creditRanks := x.creditRanks, xseq := x.xseq
    offRegs := x.offRegs
    dwrOut := x.dwrOut + x.direct.length, dwrCr := (x.dwrCr + x.direct.length) % 65536, dwrFrames := x.dwrFrames }

/-- What the base die keeps for the empty parts of group searches: the registers that the channel is about to lose (R227; log
entry 60). A wake that is abandoned has nothing new to keep. -/
def State.keepForParts (s : State) (c : Ch) : State :=
  if (s.chan c).power == .wake then s
  else s.modChan c (fun x => { x with offRegs := s.regs.filter (fun p => lostOff c p.1) })

/-- The registers of a channel's logic die take their reset values (R522). -/
def State.loseRegs (s : State) (c : Ch) : State :=
  { s with regs := s.regs.filter (fun p => !lostOff c p.1), parity := s.parity.filter (fun k => !lostOff c k) }

/-- The channel enters OFF: its rails go off, its contents and the registers of its logic die are lost, queued direct
items are discarded with their credits returned (R407, R411), and causes 2 to 5 of a fault go away (Table 18.4). -/
def State.chanOff (s : State) (c : Ch) : State :=
  let s := (s.keepForParts c).loseRegs c
  let ind := (s.ind.filter (fun p => p.region != c.val + 1 || p.flight.isSome)).map (fun p =>
    if p.region = c.val + 1 then { p with addr := 0, ctrl := 0, err := 0 } else p)
  let s : State := { s with
    ind := ind
    pwr := { s.pwr with
      railFault := s.pwr.railFault.set c false, overTemp := s.pwr.overTemp.set c false
      railReq := s.pwr.railReq.set c none, vcore := s.pwr.vcore.set c 750 } }
  ((s.modChan c Chan.turnedOff).endReq c).enterState c .off

/-- CH_OFF_ENTERED: a request for OFF ends once no command runs in any mailbox; requests still pending get BUSY (Table
01.9). -/
def execChOffEntered (c : Ch) (s : State) : Out :=
  let x := s.chan c
  if x.power == .idle && x.req == some .off && x.mgr.execs.all (fun p => p.2.mbx == 16) then .next ((s.answerPending c stBusy).chanOff c) else .next s

/-! ## WAKE (R30, R522, Table 01.10) -/

/-- The energy of counts in pJ at a channel's rail (R484); fractions are cut off (DESIGN CHOICE). -/
def State.energy (s : State) (c : Ch) (slots blks flows exts : Nat) : Nat :=
  let v := s.pwr.vcore.get c
  (slots * s.field (chR c 0xE000) 0 20 + blks * s.field (chR c 0xE004) 0 16 + flows * s.field (chR c 0xE008) 0 20
    + exts * s.field (chR c 0xE00C) 0 20) * (v * v) / 562500

/-- Every block takes its factory strobe code (R349). -/
def State.loadCodes (s : State) (c : Ch) : State :=
  (List.range 1188).foldl (fun s i =>
    let k := calR c (i / 33) (i % 33)
    let f := (Config.factCode c i).toNat
    (s.setField k 0 5 f).setField k 16 5 f) s

/-- The engine hands every scratchpad bank to the core; Oluek marks the banks that it uses, which the spec does not name
(free value, R447, R522). -/
def State.wakeSpad (s : State) (c : Ch) : State :=
  let r := s.free
  (List.range 16).foldl (fun s k =>
    let key := chR c (0x9010 + 4 * k)
    let s := ((s.setField key 2 2 0).setB key 5 false).evC c 357
    s.setB key 6 (r.1.getLsbD k)) r.2

/-- Oluek sets the HBM controller and PHY space from values in its image (R522, Table 16.4). -/
def State.setHbmSpace (s : State) (c : Ch) : State :=
  let f := s.flash c
  (Config.hbmSettings (if f.olActive then f.olB else f.olA)).foldl
    (fun s q => s.setReg (chI c (0x800000 + 4 * q.1.toNat)) q.2) s

/-- CH_WAKE_COMPLETE: a wake ends: Oluek runs, its writes of R522 are made, and the channel is ON. Where in its revolution
the calendar then stands is not stated (free value); the first tide period begins at the first wrap (R315). READY sets unless a
fault remains (R468) or Oluek does not run. -/
def execChWakeComplete (c : Ch) (s : State) : Out :=
  let x := s.chan c
  if x.power ≠ .wake then .next s
  else
    let us := (s.now - x.reqAt) / usT 1
    let s := s.startOluek c
    let up := (s.chan c).mgr.up
    let s := if up then (((s.setB (chR c 0x1000) 0 true).setB (chR c 0x4000) 0 true).loadCodes c).setHbmSpace c else s
    let s := s.wakeSpad c
    let s := (s.setField (chR c 0x000C) 0 16 (if 65534 < us then 0xFFFF else us)).setField (chR c 0x6900) 0 32 1
    let ready := up && !(s.chan c).faulted
    let r := s.free
    let phase := r.1.toNat % 256
    let start := s.now - nsT phase
    let s := r.2
    let s := s.modChan c (fun x => { x with
      calStart := start, tideStart := if phase = 0 then start else start + nsT 256, ready := ready, flow := { x.flow with relocAt := s.now }
      maint := { Maint.reset with tideRevs := max (s.field (chR c 0x6804) 0 16) 1024, budget := s.field (chR c 0x7004) 0 17 } })
    let s := if ready then s.setField (chR c 0xD000) 1 2 0 else s
    let e := s.energy c 1 288 0 0
    let s : State := { s with pwr := { s.pwr with eEst := s.pwr.eEst.set c e } }
    .next (((s.endReq c).enterState c .on).checkReady)

/-- A wake starts: the registers of the logic die take their reset values (Table 01.10, R522). -/
def State.startWake (s : State) (c : Ch) : State :=
  (s.loseRegs c).modChan c (fun x => { x with
    power := .wake, req := some .on, reqAt := s.now, spadRanks := [], regRanks := [0, 1, 2] })

/-! ## Requests (R27 to R29, Table 01.9) -/

/-- STATE_REQ takes a pending request's value. -/
def State.pendReq (s : State) (c : Ch) (r : StateReq) : State :=
  let v := match r with | .on => 1 | .idle => 2 | .off => 3
  (s.setField (chCtrl c) 1 2 v).modChan c (fun x => { x with req := some r, reqAt := s.now })

/-- A request is judged by the first row of Table 01.9 that matches. -/
def State.judgeReq (s : State) (c : Ch) (r : StateReq) : State :=
  let x := s.chan c
  match x.power, r with
  | .on, .on => s
  | .on, .idle =>
    if x.faulted then s.enterIdle c
    else if s.bit (chCtrl c) 0 then s.rejected c else s.pendReq c .idle
  | .on, .off => s.rejected c
  | .idle, .idle => s
  | .idle, .on => if x.faulted then s.rejected c else (s.pendReq c .on).startResume c
  | .idle, .off =>
    if x.faulted then s.chanOff c
    else (s.pendReq c .off).answerPending c stBusy
  | .off, .on => (s.pendReq c .on).startWake c
  | .off, .idle => s.rejected c
  | .off, .off => s
  | .wake, _ => s.rejected c

/-- A write of `v` to STATE_REQ (R28). The field keeps its value unless a request begins or one is cancelled. -/
def State.writeReq (s : State) (c : Ch) (v : Nat) : State :=
  let x := s.chan c
  if v = s.field (chCtrl c) 1 2 then s
  else
    match v, x.req with
    | 0, some .on => s.rejected c
    | 0, _ => s.endReq c
    | _, some _ => s.rejected c
    | 1, none => s.judgeReq c .on
    | 2, none => s.judgeReq c .idle
    | _, none => s.judgeReq c .off

/-! ## Channel-down faults -/

/-- Every record and group part that a channel still owes is completed as CHANNEL_DOWN (R190, R227), a group search's record at
the head too; results that have not crossed are discarded and counted. -/
def State.completeDown (s : State) (c : Ch) : State :=
  let s := (s.rels.filter (fun r => r.ch == c && r.result.isNone)).foldl
    (fun s r => s.completeRecord r.gsn (bareResult .channelDown)) s
  let s := (s.casc.parts.filter (fun p => p.run == c && p.own.isNone)).foldl
    (fun s p => s.ownPart p.gsn (bareResult .channelDown)) s
  (s.count (modR 0x2114) (s.chan c).egress.length).modChan c (fun x => { x with egress := [], ingress := [], charges := [], freed := [] })

/-- What the channel itself does at a fault: contexts end, modified lines are written back while the HBM path works, and
else lost (R467). -/
def Chan.endWork (x : Chan) (hbm : Bool) : Chan :=
  let y := if hbm then x.flushLines else x
  { y with
    ctxs := [], launch := none
    flow := { y.flow with
      lines := y.flow.lines.map (fun l => { l with dirty := false })
      tickets := y.flow.tickets.filter (fun t => match t.owner with | .ctx _ => false | _ => true) } }

/-- A channel reports causes of a channel-down fault (R466, R467). Only the first report of a fault captures them and
acts; an IDLE-to-ON request then ends as rejected (R27). -/
def State.chFault (s : State) (c : Ch) (causes : BitVec 6) : State :=
  let x := s.chan c
  if causes = 0 ∨ x.power = .off then s
  else if x.faulted then s.modChan c (fun x => { x with causes := x.causes ||| causes })
  else
    let s := s.clearAdmit c
    let s := State.mirrorEvents s (s.modChan c (fun x => { x with causes := causes }))
    let s := (s.completeDown c).capture (modR (0x4110 + 4 * c.val)) causes.toNat
    let s := s.evC c 453 (natBits (s.reg (modR (0x4110 + 4 * c.val))).toNat 0 6)
    let s := s.modChan c (fun x => x.endWork (causes &&& 0xE == 0))
    let s := s.haltMgr c
    let s := if x.power = .idle ∧ x.req = some .on then
        ((s.modChan c (fun x => { x with maint := x.maint.endResume })).endReq c).rejected c
      else s
    s.checkReady

/-- CH_FAULT_DETECT: the base die detects causes of Table 18.4 in a channel (R466, R467). -/
def execChFaultDetect (c : Ch) (causes : BitVec 6) (s : State) : Out := .next (s.chFault c causes)

/-- D2D_LINK_FAILURE: the die-to-die link fails 16 retries in a row or loses lock (cause 0). -/
def execD2dLinkFailure (c : Ch) (s : State) : Out := .next (s.chFault c 1)

/-- CH_PLL_LOSS: the channel PLL loses lock (cause 1). -/
def execChPllLoss (c : Ch) (s : State) : Out := .next (s.chFault c 2)

/-- CTX_WATCHDOG_EXPIRY: a context has been in use for 20 µs (cause 4). -/
def execCtxWatchdogExpiry (c : Ch) (ctx : Fin 2048) (s : State) : Out :=
  match (s.chan c).ctx? ctx with
  | none => .next s
  | some k => .next ((s.atTime (k.ingressAt + usT 20)).chFault c 16)

/-- HBM_PHY_RETRAIN: the HBM PHY starts a retrain: the HBM arbiter's MODE is RECOVERY (Table 17.6, Table 18.6). -/
def execHbmPhyRetrain (c : Ch) (s : State) : Out :=
  let x := s.chan c
  if x.power == .on || x.power == .idle then .next ((s.setField (chR c 0xD000) 1 2 3).evC c 418) else .next s

/-- HBM_PHY_RETRAIN_END: a retrain ends; one that fails is cause 3 (Table 18.4). -/
def execHbmPhyRetrainEnd (c : Ch) (good : Bool) (s : State) : Out :=
  if s.field (chR c 0xD000) 1 2 ≠ 3 then .next s
  else
    let s := s.setField (chR c 0xD000) 1 2 0
    if good then .next s else .next ((s.evC c 419).chFault c 8)

/-- CH_FAULT_CAUSE_CLEARS: the link retrains or the PLL relocks (Table 18.4). Causes 2 to 5 go away only as the channel
enters OFF. A channel that ended its wake with the fault is then READY. -/
def execChFaultCauseClears (c : Ch) (cause : Fin 6) (s : State) : Out :=
  if 2 ≤ cause.val then .next s
  else
    let old := s
    let s := s.modChan c (fun x => { x with causes := x.causes &&& ~~~(BitVec.ofNat 6 (2 ^ cause.val)) })
    let x := s.chan c
    let s := s.modChan c (fun x => { x with ready := x.ready || (x.power == .on && !x.faulted && x.mgr.up) })
    let s := if !x.ready && (s.chan c).ready then s.setField (chR c 0xD000) 1 2 0 else s
    .next ((State.mirrorEvents old s).checkReady)

end Sys2Proof.Machine
end

