-- ==== Sys2Proof/Machine/Profile.lean ====
section
/-! DEFINITION. What follows from a write of an enable: profiles (R111, R118, R119, R429), flow tables (R125) and the
aging sweep (R159). -/

namespace Sys2Proof.Machine

/-! ## Profiles -/

/-- PROF_CTRL of a profile. -/
def profR (c : Ch) (p : Nat) : Nat := chR c (0x2000 + 4 * p)

/-- PROF_CTRL.ACTIVE: EN, or a context in the channel still uses the body (R119). -/
def State.profActive (s : State) (c : Ch) (p : Nat) : Bool :=
  s.bit (profR c p) 0 || (s.chan c).ctxs.any (fun k => k.usesBody && k.req.profile.val == p)

/-- A profile is disabled: EN and ACTIVE are clear (R118). -/
def State.profDisabled (s : State) (c : Ch) (p : Nat) : Bool := !s.profActive c p

/-- EN has been written from 0 to 1: an invalid body clears it again (R119). -/
def State.profEnabled (s : State) (c : Ch) (p : Nat) : State :=
  if pbValid (s.profBody c p) then s
  else ((s.setB (profR c p) 0 false).setB (profR c p) 2 true).evC c 18 p

/-- EN has been written from 1 to 0: the base die marks the profile disabled (R429). -/
def State.profCleared (s : State) (c : Ch) (p : Nat) : State :=
  let b := s.baseProf c p
  s.modChan c (fun x => { x with profs := sset (fun _ => BaseProfile.reset) x.profs p { b with enabled := false } })

/-- The effect of a write of EN: `was` is its value before. -/
def State.profEnWritten (s : State) (c : Ch) (p : Nat) (was : Bool) : State :=
  if !was && s.bit (profR c p) 0 then s.profEnabled c p
  else if was && !s.bit (profR c p) 0 then s.profCleared c p else s

/-- A body write that leaves the body valid clears INVALID (R119). -/
def State.profBodyWritten (s : State) (c : Ch) (p : Nat) : State :=
  if s.bit (profR c p) 2 && pbValid (s.profBody c p) then s.setB (profR c p) 2 false else s

/-- The base die's record of a body (R113, R173, R429). -/
def baseOf (b : List Word) : BaseProfile :=
  { enabled := true, slots := pbSlots b, early := pbEarly b, lNs := pbLns b, tables := pbTables b
    flowTable := if pbFlowOp b = 0 then none else some (fld (pbFlow b) 3 4), exts := pbExts b }

/-- PROFILE_REPORT_AT_BASE_DIE: the channel's report of an enabled profile reaches the base die's record (R429). The copy of SLOTS,
REL_MODE and L_NS (R113) is renewed here and at no other moment: DESIGN CHOICE (log entry 62). -/
def execProfileReportAtBaseDie (c : Ch) (p : Fin 64) (s : State) : Out :=
  if s.bit (profR c p) 0 then
    let b := baseOf (s.profBody c p)
    .next (s.modChan c (fun x => { x with profs := sset (fun _ => BaseProfile.reset) x.profs p b }))
  else .next s

/-! ## Flow tables -/

/-- The HBM record slots of a flow table: first, and one past the last (R123). -/
def State.ftRange (s : State) (c : Ch) (t : Nat) : Nat × Nat :=
  let a := s.bucketSlot c t 0
  (a, a + 4 * s.ftBuckets c t)

/-- The checks of R125. -/
def State.ftValid (s : State) (c : Ch) (t : Nat) : Bool :=
  let l := s.field (ftR c t) 1 5
  let r := s.ftRange c t
  decide (10 ≤ l) && decide (l ≤ 25) && decide (r.2 ≤ 2 ^ 27)
    && (List.range 16).all (fun u => u == t || !s.bit (ftR c u) 0
      || (let q := s.ftRange c u; decide (r.2 ≤ q.1) || decide (q.2 ≤ r.1)))

/-- The effect of a write of FT_CTRL[t].EN: `was` is its value before (R125). -/
def State.ftEnWritten (s : State) (c : Ch) (t : Nat) (was : Bool) : State :=
  if !was && s.bit (ftR c t) 0 then
    if s.ftValid c t then s.setB (ftR c t) 9 false
    else ((s.setB (ftR c t) 0 false).setB (ftR c t) 9 true).evC c 194 t
  else s

end Sys2Proof.Machine
end

