-- ==== Sys2Proof/Machine/Time.lean ====
section
/-! DEFINITION. Module time and its discipline (R207 to R210, R408). -/

namespace Sys2Proof.Machine

/-- One tick of the time domain, 8 ns. -/
def timeTickT : Nat := nsT 8
/-- 1.5 s. -/
def edgeLimit : Nat := msT 1500
/-- The signed value of a register word. -/
def wordInt (w : Word) : Int := w.toInt

/-- The events of Table 07.16 for what changed in TIME_STATUS. -/
def State.timeEvents (old s : State) : State :=
  let a := old.time
  let b := s.time
  ((s.evMIf (a.valid != b.valid) 160).evMIf (a.locked != b.locked) 161).evMIf (!a.holdover && b.holdover) 162

/-- Module time is loaded: VALID sets and TIME_STEPPED is raised. -/
def State.loadTime (s : State) (seconds nanos : Nat) : State :=
  let s : State := { s with time := { s.time with seconds := seconds % 2 ^ 48, nanos := nanos, valid := true } }
  s.evM 163

/-- Module time advances by `n` ns, with a carry into SECONDS. -/
def ModTime.advance (t : ModTime) (n : Nat) : ModTime :=
  if t.nanos + n < 1000000000 then { t with nanos := t.nanos + n }
  else { t with nanos := t.nanos + n - 1000000000, seconds := (t.seconds + 1) % 2 ^ 48 }

/-- The correction of one tick (R207): the accumulated rate, and 7, 8 or 9 ns. -/
def ModTime.correct (t : ModTime) (ratePpb : Int) : ModTime :=
  let f := t.frac + ratePpb
  if f ≤ -125000000 then { t with frac := f + 125000000 }.advance 7
  else if 125000000 ≤ f then { t with frac := f - 125000000 }.advance 9
  else { t with frac := f }.advance 8

/-- TIME_TICK: the next tick of the time domain: TIME_SET loads when SET waits for it (R210), else the time advances
(R207). -/
def execTimeTick (s : State) : Out :=
  let s := s.atTime (s.time.tickAt + timeTickT)
  let at_ := s.time.tickAt + timeTickT
  let s : State := { s with time := { s.time with tickAt := at_ } }
  if s.time.setPending then
    let old := s
    let sec := s.field (modR 0x5014) 0 16 * 2 ^ 32 + s.field (modR 0x5018) 0 32
    let s : State := { s with time := { s.time with setPending := false } }
    .next (State.timeEvents old (s.loadTime sec (min (s.field (modR 0x501C) 0 30) 999999999)))
  else .next { s with time := s.time.correct (wordInt (s.reg (modR 0x502C))) }

/-- Two times lie in one tick of the time domain. -/
def State.sameTick (s : State) (t u : Nat) : Bool :=
  let o := timeTickT - s.time.tickAt % timeTickT
  (t + o) / timeTickT == (u + o) / timeTickT

/-- The time-of-day frame that an edge now uses: with TOD_EN set, the last one that came before the tick of the edge
(R208, R408). -/
def State.todFrame (s : State) : Option (Nat × Nat) :=
  if s.bit (modR 0x5000) 1 then s.time.tod.find? (fun f => !s.sameTick f.2 s.now) else none

/-- The reference SECONDS of an edge (R208): the last time-of-day frame's, or the current SECONDS rounded to the nearest
second. At exactly half a second both are nearest: a free bit decides. -/
def State.refSeconds (s : State) : Nat × State :=
  match s.todFrame with
  | some (sec, _) => (sec, s)
  | none =>
    if s.time.nanos < 500000000 then (s.time.seconds, s)
    else if 500000000 < s.time.nanos then (s.time.seconds + 1, s)
    else
      let r := s.free
      (s.time.seconds + b2n (r.1.getLsbD 0), r.2)

/-- TIME_PPS_ERR takes a phase error; one that the field cannot hold leaves a free value there (log entry 8). -/
def State.storeErr (s : State) (e : Int) : State :=
  if -(2 ^ 31) ≤ e ∧ e < 2 ^ 31 then s.setReg (modR 0x5028) (BitVec.ofInt 32 e)
  else
    let r := s.free
    r.2.setReg (modR 0x5028) (r.1.setWidth 32)

/-- TIME_RATE changes by -e/8 ppb, within ±100,000 ppb (R208). Of the two whole numbers beside a fraction a free bit picks
one. -/
def State.servo (s : State) (e : Int) : State :=
  let q := Int.fdiv (-e) 8
  let r := s.free
  let d : Int × State := if e % 8 = 0 then (q, s) else (q + (if r.1.getLsbD 0 then 1 else 0), r.2)
  let rate := max (-100000) (min 100000 (wordInt (s.reg (modR 0x502C)) + d.1))
  d.2.setReg (modR 0x502C) (BitVec.ofInt 32 rate)

/-- LOCKED and HOLDOVER at an edge with phase error `e` (R209). -/
def ModTime.judge (t : ModTime) (e : Int) (now : Nat) : ModTime :=
  let good := decide (-20 ≤ e) && decide (e ≤ 20)
  let n := if good then t.goodEdges + 1 else 0
  { t with goodEdges := n, locked := good && (t.locked || decide (4 ≤ n)), holdover := false, lastEdge := now }

/-- The frames after an edge: one of the tick of the edge counts as received after it and stays; the one that was used and
those that were not are counted (R408). -/
def State.todAfterEdge (s : State) : State :=
  let kept := s.time.tod.filter (fun f => s.sameTick f.2 s.now)
  let gone := s.time.tod.length - kept.length
  let used := b2n s.todFrame.isSome
  let s := (s.count (modR 0x120C) used).count (modR 0x1210) (gone - used)
  { s with time := { s.time with tod := kept } }

/-- PPS_EDGE: an edge of PPS_IN. One of the polarity that is set, with PPS_EN set, disciplines the time (R208, R209). -/
def execPpsEdge (falling : Bool) (s : State) : Out :=
  if !s.bit (modR 0x5000) 0 || falling != s.bit (modR 0x5000) 3 then .next s
  else
    let old := s
    let r := s.refSeconds
    let delay := s.field (modR 0x5024) 0 16
    let e : Int := (s.timeNs : Int) - ((r.1 * 1000000000 + delay : Nat) : Int)
    let s := r.2.storeErr e
    let s := s.evMIf (s.time.valid && (decide (1000 < e) || decide (e < -1000))) 164
    let s := if !s.time.valid || decide (1000 ≤ e) || decide (e ≤ -1000) then s.loadTime r.1 delay
      else if s.bit (modR 0x5000) 2 then s.servo e else s
    let s := s.todAfterEdge
    .next (State.timeEvents old { s with time := s.time.judge e s.now })

/-- PPS_HOLDOVER: no edge has arrived for 1.5 s (R209). -/
def execPpsHoldover (s : State) : Out :=
  let old := s
  let s := s.atTime (s.time.lastEdge + edgeLimit)
  .next (State.timeEvents old { s with time := { s.time with holdover := true } })

/-- The bytes of a TIME_OF_DAY frame (R408). -/
def todBytes (hf : Hf) (seconds : BitVec 48) : List Byte := toBytes 8 (0x26 * 2 ^ 56 + hf.val * 2 ^ 53 + seconds.toNat)

/-- A TIME_OF_DAY frame acts: it is kept for the next edge when the HFAT grants the TIME block's write right and TOD_EN is set.
A later frame supersedes it, unless an edge in the later one's tick would still use it (R208, R408). -/
def State.runTimeOfDay (s : State) (hf : Hf) (seconds : BitVec 48) : State :=
  let s := (s.takeFrame 2 (todBytes hf seconds)).1
  if s.mayReg hf 0 5 true && s.bit (modR 0x5000) 1 then
    let older := (s.time.tod.filter (fun f => !s.sameTick f.2 s.now)).take 1
    let s := s.count (modR 0x1210) (s.time.tod.length - older.length)
    { s with time := { s.time with tod := (seconds.toNat, s.now) :: older } }
  else s.count (modR 0x1210) 1

/-- TOD_FRAME_DISCARD: the oldest kept frame without an edge within 1.5 s goes; it counts as not used (R208, R408). -/
def execTodFrameDiscard (s : State) : Out :=
  match s.time.tod.getLast? with
  | none => .next s
  | some (_, at_) =>
    let s := (s.atTime (at_ + edgeLimit)).count (modR 0x1210) 1
    .next { s with time := { s.time with tod := s.time.tod.dropLast } }

/-- The effect of a write of TIME_CMD (R210): bit 0 SET, bit 1 INVALIDATE. -/
def State.timeCmd (s : State) (v : Word) : State :=
  let old := s
  let s : State := if wbit v 1 then { s with time := { s.time with valid := false, locked := false } } else s
  let s : State := if wbit v 0 then { s with time := { s.time with setPending := true } } else s
  State.timeEvents old s

/-- A direct read of TIME_SEC_HI captures the snapshot. -/
def State.snapTime (s : State) : State :=
  { s with time := { s.time with snapSec := s.time.seconds, snapNs := s.time.nanos } }

end Sys2Proof.Machine
end

