-- ==== Sys2Proof/Machine/Epoch.lean ====
section
/-! DEFINITION. Epoch slots: triggers, schedules, commits and slack water (R196 to R205). -/

namespace Sys2Proof.Machine

/-- The state of an epoch slot. -/
def Epochs.slot (e : Epochs) (i : Nat) : EpState := if i = 0 then e.st0 else e.st1
/-- Change it. -/
def Epochs.setSlot (e : Epochs) (i : Nat) (v : EpState) : Epochs := if i = 0 then { e with st0 := v } else { e with st1 := v }
/-- The code of a slot state (Table 07.1). -/
def EpState.code : EpState → Nat
  | .free => 0 | .staged => 1 | .current => 2 | .slack => 3 | .retiring => 4
/-- The state of the non-current slot. -/
def Chan.othState (x : Chan) : EpState := x.ep.slot x.othSlot
/-- A commit is pending. -/
def Epochs.pending (e : Epochs) : Bool := e.commitAt.isSome
/-- Change a channel's epochs. -/
def State.modEp (s : State) (c : Ch) (f : Epochs → Epochs) : State := s.modChan c (fun x => { x with ep := f x.ep })
/-- A trigger is ignored (R196). -/
def State.epRejected (s : State) (c : Ch) : State := s.evC c 290
/-- EPOCH_SCHED in ns. -/
def State.schedNs (s : State) (c : Ch) : Nat :=
  (s.field (chR c 0x5014) 0 16 * 2 ^ 32 + s.field (chR c 0x5018) 0 32) * 1000000000 + s.field (chR c 0x501C) 0 30

/-- STAGE (Table 07.3). -/
def State.epStage (s : State) (c : Ch) : State :=
  let x := s.chan c
  if x.othState == .free && s.epochNum c x.othSlot != s.epochNum c x.curSlot then
    s.modEp c (fun e => { (e.setSlot x.othSlot .staged) with stagedWork := [] })
  else s.epRejected c

/-- COMMIT: a commit at the first wrap at least 4 cycles after the trigger (R197). -/
def State.epCommit (s : State) (c : Ch) : State :=
  let x := s.chan c
  if x.othState == .staged && !x.ep.armed && !x.ep.pending then
    s.modEp c (fun e => { e with commitAt := some (s.wrapAfter c 4), lateNow := false })
  else s.epRejected c

/-- The conditions of ARM. -/
def State.mayArm (s : State) (c : Ch) : Bool :=
  let x := s.chan c
  x.othState == .staged && !x.ep.pending && s.time.valid && decide (s.field (chR c 0x501C) 0 30 < 1000000000)
    && decide (s.timeNs ≤ s.schedNs c + 1000000000)

/-- ARM (R205). -/
def State.epArm (s : State) (c : Ch) : State :=
  if s.mayArm c then
    let late := decide (s.schedNs c < s.timeNs)
    s.modEp c (fun e => { e with armed := true, lateNow := late, armTick := s.time.tickAt })
  else s.epRejected c

/-- An armed schedule fires: at a tick of the time domain after ARM, VALID is 1 and module time is equal to or later than
EPOCH_SCHED (R205, R210). -/
def State.schedDue (s : State) (c : Ch) : Bool :=
  let e := (s.chan c).ep
  e.armed && s.time.valid && decide (e.armTick < s.time.tickAt) && decide (s.schedNs c ≤ s.timeNs)

/-- DISARM. In the cycle in which the schedule fires it is rejected and the commit proceeds (R203). -/
def State.epDisarm (s : State) (c : Ch) : State :=
  if (s.chan c).ep.armed && !s.schedDue c then s.modEp c (fun e => { e with armed := false, lateNow := false }) else s.epRejected c

/-- END_SLACK (R199). -/
def State.epEndSlack (s : State) (c : Ch) : State :=
  if (s.chan c).othState == .slack then s.modEp c (fun e => { e with endSlack := true }) else s.epRejected c

/-- FREE: an abort, counted, or the end of a retire. -/
def State.epFree (s : State) (c : Ch) : State :=
  let x := s.chan c
  if x.othState == .staged && !x.ep.armed && !x.ep.pending then
    (s.count (chR c 0x5118) 1).modEp c (fun e => { (e.setSlot x.othSlot .free) with stagedWork := [] })
  else if x.othState == .retiring then s.modEp c (fun e => { (e.setSlot x.othSlot .free) with retireWork := [] })
  else s.epRejected c

/-- The effect of a write of EPOCH_CMD: one bit triggers, more than one are ignored as a whole (R196). -/
def State.epochCmd (s : State) (c : Ch) (v : Word) : State :=
  match fld v 0 6 with
  | 0 => s
  | 1 => s.epStage c
  | 2 => s.epCommit c
  | 4 => s.epArm c
  | 8 => s.epDisarm c
  | 16 => s.epEndSlack c
  | 32 => s.epFree c
  | _ => s.epRejected c

/-- SCHEDULE_FIRES: an armed schedule fires: it disarms and a commit is pending; the trigger crosses into
the channel in 12 ns (R205, R206). A schedule that was in the past at ARM is late. -/
def execScheduleFires (c : Ch) (s : State) : Out :=
  if s.schedDue c then
    let late := (s.chan c).ep.lateNow
    .next ((s.modEp c (fun e => { e with armed := false, late := e.late || late, commitAt := some (s.wrapAfter c 16) })).evCIf late c 294)
  else .next s

/-- COMMIT_TAKES_EFFECT: at the wrap CUR_SLOT swaps, the former current slot enters slack water, and the time is captured
(R197, R199, R205). -/
def execCommitTakesEffect (c : Ch) (s : State) : Out :=
  match (s.chan c).ep.commitAt with
  | none => .next s
  | some t =>
    let s := s.atTime t
    let x := s.chan c
    let slack := s.field (chR c 0x5000) 0 16
    let s := s.modEp c (fun e =>
      { ((e.setSlot x.othSlot .current).setSlot x.curSlot .slack) with
        commitAt := none, slackStart := s.now, slackUs := slack, endSlack := false, late := e.late && e.lateNow, lateNow := false,
        retireWork := e.stagedWork, stagedWork := [], swept := 0 })
    let s := (s.setReg (chR c 0x5020) (BitVec.ofNat 32 (s.time.seconds / 2 ^ 32))).setReg (chR c 0x5024) (BitVec.ofNat 32 s.time.seconds)
    .next (((s.setReg (chR c 0x5028) (BitVec.ofNat 32 s.time.nanos)).count (chR c 0x5114) 1).evC c 288)

/-- µs of slack water left (EPOCH_STATUS.SLACK_LEFT_US). -/
def State.slackLeft (s : State) (c : Ch) : Nat :=
  let e := (s.chan c).ep
  if (s.chan c).othState ≠ .slack ∨ e.endSlack then 0 else (e.slackStart + usT e.slackUs - s.now + usT 1 - 1) / usT 1

/-- SLACK_WATER_END: the slack time has passed, or END_SLACK was written, and every context that selected the slot is freed:
the slot is RETIRING (R199). -/
def execSlackWaterEnd (c : Ch) (s : State) : Out :=
  let x := s.chan c
  if x.othState ≠ .slack ∨ x.ctxs.any (fun k => k.action != 3 && k.epochSlot == x.othSlot) then .next s
  else
    let s := if x.ep.endSlack then s else s.atTime (x.ep.slackStart + usT x.ep.slackUs)
    .next ((s.modEp c (fun e => e.setSlot x.othSlot .retiring)).evC c 289)

end Sys2Proof.Machine
end

