-- ==== Sys2Proof/Machine/Spad.lean ====
section
/-! DEFINITION. The scratchpad (R432 to R447) and the HBM command arbiter (R448 to R453). -/

namespace Sys2Proof.Machine

/-! ## Words -/

/-- Key of a scratchpad word. -/
def spadKey (bank word : Nat) : Nat := bank * 8192 + word
/-- A scratchpad word; every bank is 0 after the wake's march test (R446, R447). -/
def Chan.spadWord (x : Chan) (k : Nat) : SpadCell := sget (fun _ => ⟨0, 0⟩) x.spad k
/-- Store a word. -/
def Chan.setSpad (x : Chan) (k : Nat) (v : SpadCell) : Chan := { x with spad := sset (fun _ => ⟨0, 0⟩) x.spad k v }
/-- A word with fresh checks. -/
def mkSpad (d : BitVec 64) : SpadCell := ⟨d, rsChecks (toBytes 8 d.toNat)⟩
/-- SPAD_BANK of a bank. -/
def spadR (c : Ch) (bank : Nat) : Nat := chR c (0x9010 + 4 * bank)
/-- OWNER of a bank. -/
def State.spadOwner (s : State) (c : Ch) (bank : Nat) : Nat := s.field (spadR c bank) 2 2

/-- A read of a word by a master (R436): the data it delivers, which is 0 when the word is uncorrectable. -/
def State.spadRead (s : State) (c : Ch) (master bank word : Nat) : BitVec 64 × State :=
  let k := spadKey bank word
  let v := (s.chan c).spadWord k
  match rsDecode (toBytes 8 v.data.toNat) v.chk with
  | .clean => (v.data, s)
  | .corrected m =>
    let d := BitVec.ofNat 64 (ofBytes m)
    (d, ((s.modChan c (fun x => x.setSpad k (mkSpad d))).count (chR c 0x9118) 1).evC c 353)
  | .uncorrectable =>
    (0, ((s.count (chR c 0x911C) 1).capture (chR c 0x9140) (word + bank * 2 ^ 13 + master * 2 ^ 17)).evC c 354)

/-! ## The host window (R433, R442 to R444) -/

/-- Bank and word of a window byte offset. -/
def spadPlace (o : Nat) : Nat × Nat := (o / 0x10000, o % 0x10000 / 8)

/-- The form of an access is allowed (R443, R444). `o` is its offset in the window. -/
def State.spadForm (s : State) (c : Ch) (be : BitVec 4) (o : Nat) : Bool :=
  if s.bit (chR c 0x9000) 1 then be == 15 && decide (o + 3 < 0x100000) else o % 4 == 0 && be != 0

/-- The words that an access touches. -/
def spadWords (o : Nat) : List (Nat × Nat) := if o % 8 ≤ 4 then [spadPlace o] else [spadPlace o, spadPlace (o + 3)]

/-- The ownership check of R437 for the host window. -/
def State.spadMine (s : State) (c : Ch) (write : Bool) (o : Nat) : Bool :=
  (spadWords o).all (fun p => s.spadOwner c p.1 == 2 || (!write && s.bit (spadR c p.1) 4))

/-- Read the byte at a window offset from words already read. -/
def spadByte (o : Nat) (ws : List ((Nat × Nat) × BitVec 64)) : Nat :=
  match ws.find? (fun w => w.1 == spadPlace o) with
  | some w => natBits w.2.toNat (8 * (7 - o % 8)) 8
  | none => 0

/-- Replace a byte of a 64-bit word; byte 0 is the most significant (R433). -/
def putByte (d : BitVec 64) (i v : Nat) : BitVec 64 := BitVec.ofNat 64 (overwrite d.toNat (8 * (7 - i)) 8 v)

/-- The requests of a window access, one for each word that it touches; byte enable 3 - j covers byte `o + j`. -/
def windowReqs (be : BitVec 4) (o : Nat) (write : Bool) (data : Word) : List SpadReq :=
  (spadWords o).map (fun p =>
    let at_ (i : Nat) : Nat := 0x10000 * p.1 + 8 * p.2 + i
    let on (i : Nat) : Bool := decide (o ≤ at_ i) && decide (at_ i < o + 4) && be.getLsbD (3 - (at_ i - o))
    { master := 3, bank := Fin.ofNat 16 p.1, word := Fin.ofNat 8192 p.2, write := write
      be := BitVec.ofNat 8 (((List.range 8).filter on).map (fun i => 2 ^ (7 - i))).sum
      data := (List.range 8).foldl (fun d i => if on i then putByte d i (fld data (8 * (3 - (at_ i - o))) 8) else d) 0 })

/-! ## Port allocation (R435, R440, R441) -/

/-- A word with the bytes that `be` enables replaced (R435). -/
def mergeBytes (be : BitVec 8) (new old : BitVec 64) : BitVec 64 :=
  (List.range 8).foldl (fun d i => if be.getLsbD (7 - i) then putByte d i (natBits new.toNat (8 * (7 - i)) 8) else d) old

/-- The banks of a channel from one manager-core cycle to the next: what the masters still request, in order; the second cycles
of merges, each on the port of its first; and the words that the host window has read. -/
structure SpadRun where
  asks : List SpadReq
  holds : List (Nat × SpadReq)
  got : List ((Nat × Nat) × BitVec 64)
deriving DecidableEq, Repr

/-- The ranks of the masters at a bank (R521). -/
def Chan.spadRank (x : Chan) (bank : Nat) : List Nat := sget (fun _ => [0, 1, 2, 3, 4]) x.spadRanks bank

/-- The order of the requesters of a bank: rotating, or fixed in V1 conflict mode (Table 17.2). -/
def State.spadOrder (s : State) (c : Ch) (bank : Nat) : List Nat :=
  if s.bit (chR c 0x9000) 0 then [1, 0, 2, 3, 4] else (s.chan c).spadRank bank

/-- In native mode each winner drops to the lowest rank, and each requester that was not granted is counted (Table 17.2). -/
def State.spadRound (s : State) (c : Ch) (bank : Nat) (wins losers : List SpadReq) : State :=
  if s.bit (chR c 0x9000) 0 then s
  else
    let ranks := wins.foldl (fun r q => r.filter (· != q.master.val) ++ [q.master.val]) ((s.chan c).spadRank bank)
    let s := s.modChan c (fun x => { x with spadRanks := sset (fun _ => [0, 1, 2, 3, 4]) x.spadRanks bank ranks })
    losers.foldl (fun s q => s.count (chR c (0x9100 + 4 * q.master.val)) 1) s

/-- A march test that stalls or is suspended ends a cycle later (R440, R447). -/
def Chan.marchLate (x : Chan) : Chan := { x with march := x.march.map (fun m => { m with late := m.late + 1 }) }

/-- The writes of one cycle land, port A's last: where both write one word, port A's data stand, and different data are a dual
write (Table 17.3). -/
def State.spadWrites (s : State) (c : Ch) (ws : List SpadReq) : State :=
  let s := match ws with
    | [a, b] => if a.bank = b.bank ∧ a.word = b.word ∧ a.data ≠ b.data then (s.count (chR c 0x9114) 1).evC c 352 else s
    | _ => s
  ws.reverse.foldl (fun s q => s.modChan c (fun x => x.setSpad (spadKey q.bank q.word) (mkSpad q.data))) s

/-- One cycle of a bank (R440): the second cycles of merges keep their ports; the free ports go to the requesters in order,
port A first. Reads, and the first cycles of merges, see the words as they stood; then the writes land (R441). `asks` is what
each master presents and `holds` the second cycles. -/
def State.spadBank (c : Ch) (asks : List SpadReq) (holds : List (Nat × SpadReq)) (t : SpadRun × State) (bank : Nat) :
    SpadRun × State :=
  let pres := asks.filter (fun q => q.bank.val == bank)
  let held := holds.filter (fun h => h.2.bank.val == bank)
  let ports := [0, 1].filter (fun p => !held.any (fun h => h.1 == p))
  let wins := (((t.2.spadOrder c bank).filterMap (fun m => pres.find? (fun q => q.master.val == m)))).take ports.length
  let losers := pres.filter (fun q => !wins.contains q)
  let s := t.2.spadRound c bank wins losers
  let s := if losers.any (fun q => q.master == 4) then s.modChan c Chan.marchLate else s
  let placed := ports.zip wins
  let whole (q : SpadReq) : Bool := q.write && q.be == 255
  let r := (placed.filter (fun p => !whole p.2)).foldl (fun (r : SpadRun × State) p =>
    let d := r.2.spadRead c p.2.master p.2.bank p.2.word
    let run := if p.2.write then { r.1 with holds := r.1.holds ++ [(p.1, { p.2 with be := 255, data := mergeBytes p.2.be p.2.data d.1 })] }
      else if p.2.master = 3 then { r.1 with got := r.1.got ++ [((p.2.bank.val, p.2.word.val), d.1)] } else r.1
    (run, d.2)) (t.1, s)
  let writes := held ++ placed.filter (fun p => whole p.2)
  let ws := (writes.filter (fun p => p.1 == 0) ++ writes.filter (fun p => p.1 == 1)).map (·.2)
  ({ r.1 with asks := wins.foldl (fun l q => dropFirst (fun p => p.master == q.master) l) r.1.asks }, r.2.spadWrites c ws)

/-- A march test of a bank in content-preserving mode. -/
def Chan.preserves (x : Chan) (bank : Nat) : Bool :=
  match x.march with
  | some m => m.bank == bank && !m.destructive
  | none => false

/-- A request of a master other than the host window reaches its bank. The manager core's access to a bank under a
content-preserving test completes at the engine's next checkpoint, which suspends the engine for a cycle (R447). Another access
that ownership does not allow is refused: it takes no port cycle and has no effect (R437). The rest are requested. -/
def State.spadEnter (c : Ch) (t : SpadRun × State) (q : SpadReq) : SpadRun × State :=
  let s := t.2
  let owner := s.spadOwner c q.bank
  let code := if q.master.val ≤ 1 then 0 else q.master.val - 1
  if owner = 3 ∧ q.master.val ≤ 1 ∧ (s.chan c).preserves q.bank then
    let d := s.spadRead c q.master q.bank q.word
    let s := if q.write then d.2.modChan c (fun x => x.setSpad (spadKey q.bank q.word) (mkSpad (mergeBytes q.be q.data d.1))) else d.2
    (t.1, (s.count (chR c 0x9120) 1).modChan c Chan.marchLate)
  else if owner = code ∨ (!q.write && s.bit (spadR c q.bank) 4) then ({ t.1 with asks := t.1.asks ++ [q] }, s)
  else (t.1, (s.count (chR c 0x9124) 1).evC c 355)

/-- One manager-core cycle of the scratchpad: each master presents its first request. -/
def State.spadCycle (c : Ch) (t : SpadRun × State) : SpadRun × State :=
  let asks := (List.range 5).filterMap (fun m => t.1.asks.find? (fun q => q.master.val == m))
  let banks := (List.range 16).filter (fun b => asks.any (fun q => q.bank.val == b) || t.1.holds.any (fun h => h.2.bank.val == b))
  banks.foldl (State.spadBank c asks t.1.holds) ({ t.1 with holds := [] }, t.2)

/-- The cycles from a host window access on, `rounds` being what the other masters come with in each, until every request has
been granted. -/
def State.spadCycles (c : Ch) : Nat → List (List SpadReq) → SpadRun × State → SpadRun × State
  | 0, _, t => t
  | n + 1, rounds, t =>
    let t := (rounds.headD []).foldl (State.spadEnter c) t
    if t.1.asks = [] ∧ t.1.holds = [] ∧ rounds.length ≤ 1 then t
    else State.spadCycles c n (rounds.drop 1) (State.spadCycle c t)

/-- A permitted access of the host window: its requests, among those of the other masters. -/
def State.spadAccess (s : State) (c : Ch) (be : BitVec 4) (o : Nat) (write : Bool) (data : Word) (others : List (List SpadReq)) :
    SpadRun × State :=
  State.spadCycles c (2 * (others.flatten.length + others.length + 3)) others (⟨windowReqs be o write data, [], []⟩, s)

/-- A permitted read: the four bytes from `o` on. -/
def State.spadWindowRead (s : State) (c : Ch) (o : Nat) (others : List (List SpadReq)) : Word × State :=
  let r := s.spadAccess c 15 o false 0 others
  (BitVec.ofNat 32 (ofBytes ([o, o + 1, o + 2, o + 3].map (fun i => BitVec.ofNat 8 (spadByte i r.1.got)))), r.2)

/-- A permitted write: a merge in each word that it touches (R435, R443, R444). -/
def State.spadWindowWrite (s : State) (c : Ch) (be : BitVec 4) (o : Nat) (data : Word) (others : List (List SpadReq)) : State :=
  (s.spadAccess c be o true data others).2

/-! ## Ownership (R437 to R439) -/

/-- HANDOVER_PENDING: OWNER_REQ differs from OWNER. -/
def handoverPending (w : Word) : Bool := fld w 0 2 != fld w 2 2

/-- A write of OWNER_REQ, from its old value: a request that R439 ignores leaves the field as it was. -/
def State.ownerReqWritten (s : State) (c : Ch) (bank old : Nat) (host : Bool) : State :=
  let w := s.reg (spadR c bank)
  if !handoverPending w then s
  else if (bank == 0 && fld w 2 2 == 0 && (s.chan c).mgr.up) || (host && wbit w 6) then (s.setField (spadR c bank) 0 2 old).evC c 356
  else s

/-- SPAD_HANDOVER: a pending handover takes effect at an idle cycle of the bank (R438). A bank under test has none. -/
def execSpadHandover (c : Ch) (bank : Fin 16) (s : State) : Out :=
  let w := s.reg (spadR c bank)
  let testing := match (s.chan c).march with | some m => m.bank == bank.val | none => false
  let x := s.chan c
  if !handoverPending w || testing || x.power == .off || x.power == .wake then .next s
  else .next ((s.setField (spadR c bank) 2 2 (fld w 0 2)).evC c 357)

/-! ## March tests (R445, R446) -/

/-- Duration of a test (Table 17.4). -/
def marchTime (destructive : Bool) (pattern : Nat) : Nat :=
  let a := if destructive then 81920 * mgrCycle else 98304 * mgrCycle
  let b := if destructive then 32768 * mgrCycle + usT 500 else 180224 * mgrCycle
  match pattern with
  | 0 => a
  | 1 => b
  | _ => a + b

/-- The effect of START (R445). -/
def State.marchStart (s : State) (c : Ch) : State :=
  let w := s.reg (chR c 0x9050)
  let bank := fld w 4 4
  if s.spadOwner c bank ≠ 3 ∨ (s.chan c).march.isSome ∨ fld w 9 2 = 3 then s.evC c 355
  else
    (((s.setB (chR c 0x9054) 0 true).setB (chR c 0x9054) 1 false).setB (spadR c bank) 7 true).modChan c
      (fun x => { x with march := some ⟨bank, wbit w 8, fld w 9 2, s.now, 0⟩ })

/-- A content-preserving test restores the words of a bank with fresh checks; an uncorrectable word fails, and the spec
does not say what it holds then (free value, log entry 8). Answers the failing words. -/
def State.marchRestore (s : State) (c : Ch) (bank : Nat) : State × List Nat :=
  let ws := ((s.chan c).spad.filter (fun p => p.1 / 8192 == bank)).map (fun p => p.1 % 8192)
  ws.foldl (fun (acc : State × List Nat) w =>
    let v := (acc.1.chan c).spadWord (spadKey bank w)
    let r := acc.1.spadRead c 4 bank w
    match rsDecode (toBytes 8 v.data.toNat) v.chk with
    | .uncorrectable =>
      let f := r.2.free
      (f.2.modChan c (fun x => x.setSpad (spadKey bank w) (mkSpad f.1)), acc.2 ++ [w])
    | _ => (r.2, acc.2)) (s, [])

/-- The TEST_MARCH that lent a bank takes the result of its test: 0, or the first failing word plus 1 (R299). -/
def Mgr.marchDone (m : Mgr) (bank fail : Nat) : Mgr :=
  { m with execs := m.execs.map (fun p =>
      if p.2.code == 0x60 && p.2.phase == 2 && p.2.par 0 1 == bank then (p.1, { p.2 with phase := 4, nums := [p.2.nums.getD 0 0, fail] })
      else p) }

/-- MARCH_END: the test ends: BUSY clears, DONE sets, FAIL and FAIL_WORD show the first failure (R446). `failing` is the
first word that the test itself found failing. -/
def execMarchEnd (c : Ch) (failing : Option (Fin 8192)) (s : State) : Out :=
  match (s.chan c).march with
  | none => .next s
  | some m =>
    let s := s.atTime (m.startedAt + marchTime m.destructive m.pattern + m.late * mgrCycle)
    let r : State × List Nat :=
      if m.destructive then (s.modChan c (fun x => { x with spad := x.spad.filter (fun p => p.1 / 8192 != m.bank) }), [])
      else s.marchRestore c m.bank
    let fails := r.2 ++ (match failing with | some w => [w.val] | none => [])
    let first := bestBy (fun (a b : Nat) => decide (a < b)) fails
    let w := 2 + (if fails = [] then 0 else 4) + 16 * first.getD 0
    let s := ((r.1.setReg (chR c 0x9054) (BitVec.ofNat 32 w)).setB (spadR c m.bank) 7 false).modChan c (fun x => { x with march := none })
    let s := s.modMgr c (fun g => g.marchDone m.bank (match first with | some w => w + 1 | none => 0))
    .next ((s.evC c 358).evCIf (!fails.isEmpty) c 359)

/-! ## The HBM command arbiter -/

/-- HBM_ARB_GRANT: the arbiter grants one of the requesters (R449); a withdrawal costs a dead slot in MODE NORMAL (R451);
outside it a holder of more bursts than HOLD_LIMIT is cut off (R452). With FREEZE set there is no grant (R453). -/
def execHbmArbGrant (c : Ch) (requests : BitVec 5) (bursts : Nat) (withdrawn : Bool) (s : State) : Out :=
  let k := chR c 0xD000
  if s.bit k 0 || (s.chan c).power == .off then .next s
  else
    match rotate (s.chan c).arb.ranks (fun i => requests.getLsbD i) with
    | none => .next s
    | some (w, ranks) =>
      let s := s.modChan c (fun x => { x with arb := { x.arb with ranks := ranks } })
      let normal := s.field k 1 2 = 0
      if withdrawn then .next (s.countIf (decide normal) (chR c 0xD100))
      else
        let limit := max (s.field k 8 8) 1
        let cut := decide (¬ normal) && decide (limit < bursts)
        let s := s.count (chR c (0xD108 + 4 * w)) (if cut then limit + 1 else bursts)
        .next (if cut then ((s.count (chR c 0xD104) 1).capture (chR c 0xD140) w).evC c 416 else s)

end Sys2Proof.Machine
end

