-- ==== Sys2Proof/Machine/Calendar.lean ====
section
/-! DEFINITION. The swap of the calendar table (R313, R333). -/

namespace Sys2Proof.Machine

/-- The slot codes of the table at register `base`. -/
def State.slotCodes (s : State) (c : Ch) (base : Nat) : List Nat := (List.range 256).map (fun i => s.slotCode c base i)
/-- Longest run of non-SEARCH slots, counting one that goes on from slot 255 into slot 0. -/
def longestRun (codes : List Nat) : Nat :=
  ((codes ++ codes).foldl (fun (acc : Nat × Nat) k => if k = 0 then (0, acc.2) else (acc.1 + 1, max acc.2 (acc.1 + 1))) (0, 0)).2
/-- Slots that are not SEARCH. -/
def nonSearch (codes : List Nat) : Nat := (codes.filter (· != 0)).length
/-- CAL_STATUS.CFG_PARITY. -/
def State.calParity (s : State) (c : Ch) : Bool :=
  s.parity.any (fun k => decide (chR c 0x6400 ≤ k) && decide (k < chR c 0x6480))

/-- The conditions of R313. -/
def State.swapOk (s : State) (c : Ch) : Bool :=
  let codes := s.slotCodes c 0x6400
  codes.all (fun k => decide (k ≤ 5)) && decide (nonSearch codes ≤ 32) && decide (longestRun codes ≤ 4) && !s.calParity c
    && (s.chan c).maint.swapAt.isNone

/-- The effect of CAL_CTRL.SWAP (R313). -/
def State.calSwap (s : State) (c : Ch) : State :=
  if s.swapOk c then s.modChan c (fun x => { x with maint := { x.maint with swapAt := some (s.wrapAfter c 4) } })
  else (s.count (chR c 0x6908) 1).evC c 321

/-- CAL_SWAP_TAKES_EFFECT: at its wrap the live table takes the shadow's content (R313); LCAL_NO_SLOTS when that leaves it
without a CAL slot (R348). -/
def execCalSwapTakesEffect (c : Ch) (s : State) : Out :=
  match (s.chan c).maint.swapAt with
  | none => .next s
  | some t =>
    let s := s.atTime t
    let had := (s.slotCodes c 0x6000).contains 3
    let s := (List.range 32).foldl (fun s k => s.setReg (chR c (0x6000 + 4 * k)) (s.reg (chR c (0x6400 + 4 * k)))) s
    let s := s.modChan c (fun x => { x with maint := { x.maint with swapAt := none } })
    .next (((s.count (chR c 0x6904) 1).evC c 320).evCIf (had && !(s.slotCodes c 0x6000).contains 3) c 71)

end Sys2Proof.Machine
end

