-- ==== Sys2Proof/Machine/Power.lean ====
section
/-! DEFINITION. The power controller, the governor, the ebb sequence and PMBus (chapter 19), and what a module reset leaves
(R492, R493). -/

namespace Sys2Proof.Machine

/-- Change the supply. -/
def State.modPwr (s : State) (f : Supply → Supply) : State := { s with pwr := f s.pwr }
/-- RIDE_MS as it acts. -/
def State.rideMs (s : State) : Nat := min (max (s.field (modI 0x200000) 0 5) 1) 20
/-- T_THROTTLE, T_SHUT and W_PER_C. -/
def State.tThrottle (s : State) : Int := s.field (modI 0x200004) 0 8
/-- T_SHUT as it acts. -/
def State.tShut (s : State) : Int := min (s.field (modI 0x200004) 8 8) 115
/-- CAP_W as it acts. -/
def State.capW (s : State) : Nat := min (max (s.field (modR 0x9000) 8 9) 120) 360
/-- VMIN and VMAX of a channel as they act. -/
def State.vcoreLim (s : State) (c : Ch) : Nat × Nat :=
  let k := modI (0x200010 + 4 * c.val)
  (max (s.field k 0 10) 650, min (s.field k 16 10) 850)

/-! ## PMBus status (R488, R489) -/

/-- A page's status. -/
def Supply.page? (p : Supply) (i : Nat) : PageStatus := p.pages.getD i ⟨false, 0, 0, 0, 0⟩
/-- STATUS_WORD of a page, by the PMBus Part II layout (PRESUMED): VOUT 15, INPUT 13, TEMPERATURE 2, CML 1,
NONE_OF_THE_ABOVE 0, VIN undervoltage 3, VOUT overvoltage 5. -/
def PageStatus.word (q : PageStatus) : Nat :=
  b2n (q.vout != 0) * 2 ^ 15 + b2n (q.input != 0) * 2 ^ 13 + b2n (q.vout.getLsbD 7) * 2 ^ 5 + b2n (q.input.getLsbD 4) * 2 ^ 3
    + b2n (q.temp != 0) * 4 + b2n (q.cml != 0) * 2 + b2n q.nota
/-- Some fault bit is set. -/
def PageStatus.any (q : PageStatus) : Bool := q.word != 0

/-- Change a page's status; a STATUS_WORD bit that becomes set raises PMBUS_FAULT (R489). -/
def State.setPage (s : State) (i : Nat) (f : PageStatus → PageStatus) : State :=
  let old := (s.pwr.page? i).word
  let s := s.modPwr (fun p => { p with pages := modAt i f p.pages })
  let new := (s.pwr.page? i).word
  s.evMIf ((BitVec.ofNat 16 new &&& ~~~(BitVec.ofNat 16 old)) != 0) 10

/-- SMB_ALERT_N is asserted (R463, R489). -/
def State.alertPin (s : State) : Bool :=
  let alert (pend en n : Nat) (reg : Nat → Nat) : Bool :=
    (List.range n).any (fun i => (s.reg (reg (pend + 4 * i)) &&& s.reg (reg (en + 4 * i))) != 0)
  s.pwr.pages.any PageStatus.any
    || (s.bit (modR 0x4100) 1
      && (alert 0x4000 0x40C0 8 modR || ([0, 1, 2, 3] : List Ch).any (fun c => alert 0xB000 0xB0C0 15 (chR c))))

/-- EBB_N is asserted (R519). -/
def State.ebbPin (s : State) : Bool := s.pwr.ride.isSome || s.pwr.ebb.isSome

/-! ## The ebb sequence (R477, R478) -/

/-- The ebb sequence begins: the cap is 0, READY deasserts (R495), a wake in progress is abandoned (R490). -/
def State.beginEbb (s : State) : State :=
  if !s.pwr.on || s.pwr.ebb.isSome then s
  else
    let s : State := { s with boot := { s.boot with ready := false }, pwr := { s.pwr with ebb := some s.now, ebbStep := 0 } }
    let s := ((s.count (modR 0x9104) 1).evM 2).govern
    ([0, 1, 2, 3] : List Ch).foldl (fun s c => if (s.chan c).power == .wake then s.chanOff c else s) s

/-- INPUT_LOSS: VIN has been below 34 V for 20 µs: a ride-through begins (R476). -/
def execInputLoss (vinMv : Nat) (s : State) : Out :=
  if !s.pwr.on || s.pwr.ride.isSome || s.pwr.ebb.isSome || decide (34000 ≤ vinMv) then .next s
  else
    let s := s.modPwr (fun p => { p with vin := vinMv, inputOk := false, ride := some s.now })
    .next (((s.count (modR 0x9100) 1).evM 0).setPage 0 (fun q => { q with input := q.input ||| 0x10 }))

/-- INPUT_RESTORED: VIN has been at or above 38 V for 1 ms before the ebb sequence began (R476). -/
def execInputRestored (vinMv : Nat) (s : State) : Out :=
  if s.pwr.ride.isNone || s.pwr.ebb.isSome || decide (vinMv < 38000) then .next s
  else .next ((s.modPwr (fun p => { p with vin := vinMv, inputOk := true, ride := none })).evM 1)

/-- RIDE_EXPIRY: the ride-through has lasted RIDE_MS (R477). -/
def execRideExpiry (s : State) : Out :=
  match s.pwr.ride with
  | none => .next s
  | some t => if s.pwr.ebb.isSome then .next s else .next (s.atTime (t + msT s.rideMs)).beginEbb

/-- BANK_LOW: the hold-up bank has fallen to 40 V (R475, R477). -/
def execBankLow (bankMv : Nat) (s : State) : Out :=
  if !s.pwr.on || decide (40000 < bankMv) then .next s
  else .next (s.modPwr (fun p => { p with bank := bankMv, holdupOk := false })).beginEbb

/-- EBB_CHANNEL_HALT: 20 µs into the ebb the manager cores and engines stop, without responses, and the rails of every
channel go off (R478). -/
def execEbbChannelHalt (s : State) : Out :=
  match s.pwr.ebb with
  | none => .next s
  | some t =>
    if !s.pwr.on || s.pwr.ebbStep != 0 then .next s
    else
      let s := (s.atTime (t + usT 20)).modPwr (fun p => { p with ebbStep := 1 })
      .next (([0, 1, 2, 3] : List Ch).foldl (fun s c => if (s.chan c).power == .off then s else s.chanOff c) s)

/-- EBB_LINK_DOWN: 1 ms into the ebb the host and cascade links are taken down (R478). -/
def execEbbLinkDown (s : State) : Out :=
  match s.pwr.ebb with
  | none => .next s
  | some t =>
    if !s.pwr.on || s.pwr.ebbStep != 1 then .next s
    else
      let s := (s.atTime (t + msT 1)).modPwr (fun p => { p with ebbStep := 2 })
      let s := s.hostDown
      let s := { s with host := s.host.stop s.now false }
      let down (s : State) (p : Port) : State :=
        let s := s.cascDown p
        s.setPort p ((s.port p).stop s.now false)
      .next (down (down s .up) .down)

/-! ## Module reset (R492, R493) -/

/-- A record being programmed is abandoned, or its program completes; closed records behind it are lost (R478, R493). -/
def Flash.endProg (f : Flash) (good : Bool) : Flash :=
  match f.prog with
  | [] => f
  | (r, _) :: _ => { f with prog := [], recs := f.recs ++ [{ r with good := good }] }

/-- The flash as a power-off or reset leaves it: the open buffer is gone. -/
def Flash.afterReset (f : Flash) : Flash := { f with buf := [], restoreDone := false, truncated := false }

/-- What the power controller keeps through a module reset (R493): all but what it holds for the channels' rails and for
the governor of the base die. -/
def Supply.afterReset (p : Supply) : Supply :=
  { Supply.reset with
    on := p.on, vin := p.vin, bank := p.bank, iin := p.iin, inputOk := p.inputOk, ride := p.ride, ebb := p.ebb
    ebbStep := p.ebbStep, holdupOk := p.holdupOk, degraded := p.degraded, capUf := p.capUf, chMw := p.chMw, baseC := p.baseC
    stageC := p.stageC, chC := p.chC, thermalCap := p.thermalCap, statics := p.statics, pStatic := p.pStatic, pinDw := p.pinDw
    page := p.page, pages := p.pages, reply := p.reply }

/-- A key of the power controller's own registers, which a module reset keeps (R493, Table 16.4). -/
def isPcKey (k : Nat) : Bool := decide (modI 0x200000 ≤ k) && decide (k < modI 0x210000)

/-- Module reset: the base die and its registers are at their reset values, every channel is OFF with its contents lost,
and the links are down. The power controller, the flashes and the fuses keep what they hold (R493). -/
def State.moduleReset (s : State) : State :=
  let fl (f : Flash) : Flash := f.afterReset
  let b := s.boot
  { State.reset with
    now := s.now, pending := s.pending, freeCount := s.freeCount, regs := s.regs.filter (fun p => isPcKey p.1)
    pwr := { s.pwr.afterReset with windowAt := s.now }
    time := { State.reset.time with tickAt := s.now, lastEdge := s.now }
    boot := { Boot.reset with
      inReset := b.inReset, posPin := b.posPin, prefer := b.prefer, revoked := b.revoked, imgA := b.imgA, imgB := b.imgB
      flash := ⟨fl b.flash.c0, fl b.flash.c1, fl b.flash.c2, fl b.flash.c3⟩ } }

/-- Records being programmed when a reset begins are completed or abandoned: a free bit decides (R493). -/
def State.endProgs (s : State) : State :=
  ([0, 1, 2, 3] : List Ch).foldl (fun s c =>
    if (s.flash c).prog.isEmpty then s
    else
      let r := s.free
      r.2.modFlash c (fun f => f.endProg (r.1.getLsbD 0))) s

/-- Module reset ends: the straps are sampled, the module tide period starts, and the boot controller's step begins (R217,
R458, Table 20.1). -/
def State.leaveReset (s : State) : State :=
  { s with
    tideAt := s.now
    casc := { s.casc with pos := s.boot.posPin.toNat }
    boot := { s.boot with inReset := false, stage := 1, stageAt := s.now } }

/-- EBB_END: the flash powers down, a record still in progress is abandoned, and the module is off until VIN reaches the start
threshold (R477, R478). -/
def execEbbEnd (s : State) : Out :=
  match s.pwr.ebb with
  | none => .next s
  | some t =>
    if !s.pwr.on || s.pwr.ebbStep != 2 then .next s
    else
      let s := s.atTime (t + msT 6)
      let s := ([0, 1, 2, 3] : List Ch).foldl (fun s c => s.modFlash c (fun f => f.endProg false)) s
      let s := s.moduleReset
      .next { (s.modPwr (fun p => { p with on := false, ride := none, holdupOk := false, inputOk := false })) with
        boot := { s.boot with inReset := true } }

/-! ## Rails (R480 to R482) -/

/-- Number of a rail: 0 to 4 the module rails in the order of Table 19.5, then five of each channel. -/
def railChannel (rail : Nat) : Option Ch := if 5 ≤ rail ∧ rail < 25 then some (Fin.ofNat 4 ((rail - 5) / 5)) else none

/-- Status page whose STATUS_VOUT reports a rail: V12 on page 1, VCORE_c on page 2 + c. -/
def railPage (rail : Nat) : Option Nat :=
  if rail = 1 then some 1 else if 5 ≤ rail ∧ rail < 25 ∧ rail % 5 = 4 then some (2 + (rail - 5) / 5) else none

/-- STATUS_VOUT reports a rail fault: over- or undervoltage, which the happening does not tell (free value). -/
def State.voutFault (s : State) (rail : Nat) : State :=
  match railPage rail with
  | none => s
  | some i =>
    let r := s.free
    r.2.setPage i (fun q => { q with vout := q.vout ||| (if r.1.getLsbD 0 then 0x80 else 0x10) })

/-- RAIL_FAULT: a rail has been outside ±5 % for 10 µs (R480). -/
def execRailFault (rail : Nat) (s : State) : Out :=
  if !s.pwr.on || decide (25 ≤ rail) then .next s
  else
    match railChannel rail with
    | none => .next ((s.voutFault rail).evM 9).beginEbb
    | some c =>
      if (s.chan c).power == .off then .next s
      else
        let s := (s.voutFault rail).modPwr (fun p => { p with railFault := p.railFault.set c true, railReq := p.railReq.set c none })
        .next ((s.evC c 455).chFault c 4)

/-- RAIL_STEP_COMPLETE: a step of 5 mV of VCORE_c completes, one that the channel requested or one into new limits (R350,
R481, R482). -/
def execRailStepComplete (c : Ch) (s : State) : Out :=
  let v := s.pwr.vcore.get c
  let lim := s.vcoreLim c
  let dir := match s.pwr.railReq.get c with
    | some d => some d
    | none => if v < lim.1 then some true else if lim.2 < v then some false else none
  if (s.chan c).power == .off || (s.chan c).power == .wake then .next s
  else
    match dir with
    | none => .next s
    | some up =>
      let w := if up then v + 5 else v - 5
      let s := s.modPwr (fun p => { p with vcore := p.vcore.set c w, railReq := p.railReq.set c none })
      let k := chR c 0x800C
      let s := ((s.setField k 0 16 w).setField k 16 2 0).setB k 18 true
      let s := s.modChan c (fun x => { x with maint := { x.maint with settle := [], settleAt := s.now } })
      .next ((s.count (chR c (if up then 0xE100 else 0xE104)) 1).evC c 454)

/-! ## Temperature (R487) -/

/-- THERMAL_SAMPLE: the junction sensors are read; the hottest sets thermal_cap, and T_SHUT shuts a channel or the module
down. -/
def execThermalSample (baseC stageC : Int) (chC : Quad Int) (s : State) : Out :=
  if !s.pwr.on then .next s
  else
    let t := chC.toList.foldl max (max baseC stageC)
    let excess := t - s.tThrottle
    let cap : Int := if excess < 0 then 360 else max 120 (360 - (s.field (modI 0x200004) 16 8 : Int) * (excess + 1))
    let thr := decide (cap.toNat < s.capW)
    let new := thr && !s.pwr.throttle
    let s := s.modPwr (fun p => { p with baseC := baseC, stageC := stageC, chC := chC, thermalCap := cap.toNat, throttle := thr })
    let s := s.evMIf new 7
    let hot (v : Int) : Bool := decide (s.tShut ≤ v)
    let s := ([0, 1, 2, 3] : List Ch).foldl (fun s c =>
      let h := hot (chC.get c)
      let was := s.pwr.overTemp.get c
      let s := s.modPwr (fun p => { p with overTemp := p.overTemp.set c h })
      if h && !was && (s.chan c).power != .off then
        let s := s.modPwr (fun p => { p with railReq := p.railReq.set c none })
        ((s.setPage (2 + c.val) (fun q => { q with temp := q.temp ||| 0x80 })).evC c 456).chFault c 4
      else s) s
    if (hot baseC || hot stageC) && s.pwr.ebb.isNone then
      .next ((s.setPage 0 (fun q => { q with temp := q.temp ||| 0x80 })).evM 8).beginEbb
    else .next s

/-! ## Power measurement and governor (R484 to R486) -/

/-- P_STATIC from the readings of the last 8 ms: the spec does not give the filter's form, so a free value between the least
and the greatest of them, never below 0 (log entry 8). -/
def State.filterStatic (s : State) : State :=
  let l := s.pwr.statics
  let lo := l.foldl min (l.headD 0)
  let hi := l.foldl max (l.headD 0)
  let r := s.free
  let v := lo + ((r.1.toNat : Int) % (hi - lo + 1))
  r.2.modPwr (fun p => { p with pStatic := v.toNat })

/-- INPUT_POWER_MEASUREMENT: each millisecond input power is measured, and P_STATIC is the part that the counts do not
explain (R485). -/
def execInputPowerMeasurement (vinMv iinMa : Nat) (chMw : Quad Nat) (s : State) : Out :=
  if !s.pwr.on then .next s
  else
    let uw := vinMv * iinMa
    let st : Int := (uw : Int) - (s.pwr.actMs / 1000 : Nat)
    let s := s.modPwr (fun p => { p with
      vin := vinMv, iin := iinMa, chMw := chMw, pinDw := uw / 100000, actMs := 0
      statics := (p.statics ++ [st]).drop (p.statics.length + 1 - 8) })
    .next s.filterStatic

/-- The energy of the present window of a channel (R484). -/
def State.windowEnergy (s : State) (c : Ch) : Nat :=
  let x := s.chan c
  s.energy c x.winSlot x.winBlk x.winFlow x.winExt

/-- GOVERNOR_WINDOW: a window of 1 µs ends: energies are counted, the bucket is refilled and estimates give way to counts
(R484 to R486). -/
def execGovernorWindow (s : State) : Out :=
  let s := s.atTime (s.pwr.windowAt + usT 1)
  let cap : Nat := if s.pwr.ebb.isSome then 0 else min s.capW s.pwr.thermalCap
  let low := decide (cap * 1000000 ≤ s.pwr.pStatic)
  let newLow := low && !s.pwr.capLow
  let held := s.pwr.heldWin || s.pwr.hold
  let e (c : Ch) : Nat := s.windowEnergy c
  let act : Quad Nat := ⟨e 0, e 1, e 2, e 3⟩
  let budget : Int := (cap : Int) * 1000000 - s.pwr.pStatic
  let gov := s.bit (modR 0x9000) 0
  let bucket := ([0, 1, 2, 3] : List Ch).foldl (fun (b : Int) c => b + s.pwr.charged.get c - act.get c)
    (min (s.pwr.bucket + budget) (4 * budget))
  let est (c : Ch) : Nat := if 0 < (s.chan c).winSlot then act.get c / (s.chan c).winSlot else s.pwr.eEst.get c
  let s1 := s.modPwr (fun p => { p with
    windowAt := s.now, capLow := low, eAct := act, actMs := p.actMs + act.toList.foldl (· + ·) 0, heldWin := false
    bucket := if gov then bucket else p.bucket
    eEst := if gov then ⟨est 0, est 1, est 2, est 3⟩ else p.eEst, charged := if gov then Quad.all 0 else p.charged })
  let s2 := ([0, 1, 2, 3] : List Ch).foldl
    (fun s c => s.modChan c (fun x => { x with winSlot := 0, winBlk := 0, winFlow := 0, winExt := 0 })) s1
  .next (((s2.countIf held (modR 0x9108)).evMIf newLow 6).govern)

/-- HOLDUP_CHARGED: the bank holds 68 V; the estimate of its capacitance is the controller's own (free value, R475). -/
def execHoldupCharged (bankMv : Nat) (s : State) : Out :=
  if !s.pwr.on || s.pwr.ebb.isSome || decide (bankMv < 68000) then .next s
  else
    let r := s.free
    let uf := r.1.toNat % 65536
    let was := s.pwr.holdupOk
    let deg := decide (uf < 2160)
    let newDeg := deg && !s.pwr.degraded
    let s := r.2.modPwr (fun p => { p with bank := bankMv, holdupOk := true, capUf := uf, degraded := deg })
    .next (((s.evMIf (!was) 4).evMIf newDeg 3).checkReady)

/-! ## PMBus commands (R488, Table 19.6) -/

/-- The pages of a command, and whether it takes a write; `none` for any other code. -/
def pmbusPages (code : Nat) : Option (List Nat × Bool) :=
  let all := [0, 1, 2, 3, 4, 5, 6]
  match code with
  | 0x00 => some (all, true)
  | 0x03 => some (all, true)
  | 0x20 => some ([1, 2, 3, 4, 5], false)
  | 0x78 => some (all, false)
  | 0x79 => some (all, false)
  | 0x7A => some ([1, 2, 3, 4, 5], false)
  | 0x7C => some ([0], false)
  | 0x7D => some ([0, 1, 2, 3, 4, 5], false)
  | 0x7E => some (all, false)
  | 0x88 => some ([0], false)
  | 0x89 => some ([0], false)
  | 0x8A => some ([6], false)
  | 0x8B => some ([1, 2, 3, 4, 5], false)
  | 0x8C => some ([1, 2, 3, 4, 5], false)
  | 0x8D => some (all, false)
  | 0x96 => some ([1, 2, 3, 4, 5], false)
  | 0x97 => some ([0], false)
  | 0x98 => some (all, false)
  | 0x99 => some (all, false)
  | _ => none

/-- Smallest exponent from `e` on at which `num / den` fits 10 bits. -/
def fitExp (num den : Nat) : Nat → Nat → Nat
  | 0, e => e
  | n + 1, e => if num * 2 ^ 16 / den / 2 ^ e < 1024 then e else fitExp num den n (e + 1)

/-- Linear11 of `num / den` and its sign. The format leaves open how many of the value's bits a device keeps: of the
exponents that can hold it the smallest is taken, with the last bit of the mantissa free (log entry 8). -/
def linear11 (neg : Bool) (num den : Nat) (free : BitVec 64) : Nat :=
  let e := fitExp num den 32 0
  let y := min (num * 2 ^ 16 / den / 2 ^ e + b2n (free.getLsbD 0 && num * 2 ^ 16 % (den * 2 ^ e) != 0)) 1023
  ((e + 16) % 32) * 2048 + (if neg then (2048 - y) % 2048 else y)

/-- A 16-bit answer, low byte first. -/
def smbWord (v : Nat) : List Byte := [BitVec.ofNat 8 v, BitVec.ofNat 8 (v / 256)]

/-- The answer of a read. The V12 output current and power are sensed by no command: free values. -/
def State.pmbusRead (s : State) (code page : Nat) (free : BitVec 64) : List Byte :=
  let p := s.pwr
  let q := p.page? page
  let c : Ch := Fin.ofNat 4 (page - 2)
  let lin (num den : Nat) : List Byte := smbWord (linear11 false num den free)
  let temp : Int := if 2 ≤ page ∧ page ≤ 5 then p.chC.get c else p.stageC
  match code with
  | 0x00 => [BitVec.ofNat 8 page]
  | 0x20 => [0x14]
  | 0x78 => [BitVec.ofNat 8 q.word]
  | 0x79 => smbWord q.word
  | 0x7A => [q.vout]
  | 0x7C => [q.input]
  | 0x7D => [q.temp]
  | 0x7E => [q.cml]
  | 0x88 => lin p.vin 1000
  | 0x89 => lin p.iin 1000
  | 0x8A => lin p.bank 1000
  | 0x8B => if page = 1 then smbWord (natBits free.toNat 0 16) else smbWord (p.vcore.get c * 4096 / 1000)
  | 0x8C => if page = 1 then smbWord (natBits free.toNat 0 16) else lin (p.chMw.get c) (max (p.vcore.get c) 1)
  | 0x8D => smbWord (linear11 (decide (temp < 0)) temp.natAbs 1 free)
  | 0x96 => if page = 1 then smbWord (natBits free.toNat 0 16) else lin (p.chMw.get c) 1000
  | 0x97 => lin p.pinDw 10
  | 0x98 => [0x33]
  | 0x99 => [3, 0x4A, 0x48, 0x46]
  | _ => []

/-- The causes that are present now (CLEAR_FAULTS keeps their bits, R489). -/
def State.liveFaults (s : State) (i : Nat) : PageStatus :=
  let hot (v : Int) : Bool := decide (s.tShut ≤ v)
  let p := s.pwr
  let temp := if i = 0 then hot p.baseC || hot p.stageC else if 2 ≤ i ∧ i ≤ 5 then p.overTemp.get (Fin.ofNat 4 (i - 2)) else false
  let vout := decide (2 ≤ i) && decide (i ≤ 5) && p.railFault.get (Fin.ofNat 4 (i - 2))
  { nota := i == 0 && (s.boot.fail || (s.boot.stage == 1 && (p.page? 0).nota))
    vout := if vout then (p.page? i).vout else 0, input := if i = 0 && p.ride.isSome then 0x10 else 0
    temp := if temp then 0x80 else 0, cml := 0 }

/-- The effect of CLEAR_FAULTS. -/
def State.clearFaults (s : State) : State :=
  s.modPwr (fun p => { p with pages := p.pages.zipIdx.map (fun q => s.liveFaults q.2) })

/-- CLEAR_FAULTS clears the PMBus status bits that no longer have a cause (R489). -/
def execClearFaults (s : State) : Out := .next s.clearFaults

/-- A refused command sets STATUS_CML: an unsupported command, or unsupported data (the bits are PMBus's, PRESUMED). -/
def State.pmbusRefuse (s : State) (bit : Byte) : State :=
  (s.setPage s.pwr.page (fun q => { q with cml := q.cml ||| bit })).modPwr (fun p => { p with reply := [] })

/-- PMBUS_COMMAND: an SMBus transaction executes a command of Table 19.6, or is refused (R488). -/
def execPmbusCommand (code : Byte) (write : Bool) (data : List Byte) (s : State) : Out :=
  match pmbusPages code.toNat with
  | none => .next (s.pmbusRefuse 0x80)
  | some (pages, writable) =>
    if !pages.contains s.pwr.page || (write && !writable) || (!write && code == 3) then .next (s.pmbusRefuse 0x80)
    else if code == 3 then .next (s.clearFaults.modPwr (fun p => { p with reply := [] }))
    else if write then
      match data with
      | [b] => if b.toNat ≤ 6 then .next (s.modPwr (fun p => { p with page := b.toNat, reply := [] })) else .next (s.pmbusRefuse 0x40)
      | _ => .next (s.pmbusRefuse 0x40)
    else
      let r := s.free
      let a := s.pmbusRead code.toNat s.pwr.page r.1
      .next (r.2.modPwr (fun p => { p with reply := a }))

end Sys2Proof.Machine
end

