-- ==== Sys2Proof/Machine/Staging.lean ====
section
/-! DEFINITION. The staging region of a channel's HBM (R252, R253) and the start of a boot update (R507). -/

namespace Sys2Proof.Machine

/-- Bytes of a staging window. -/
def windowSize : Nat := 0x2000000
/-- HBM unit that holds byte `off` of the window of host function `h` (R252). -/
def stageUnit (h off : Nat) : Nat := (0x220000000 + windowSize * h + off) / 64
/-- A 64-byte unit of a window as a read delivers it; none when a codeword is uncorrectable (R253). -/
def Chan.stageRead (x : Chan) (h off : Nat) : Option (BitVec 512) :=
  let v := x.hbmSlot (stageUnit h off)
  let d := decode64 v.data v.sb
  if d.2.2.isSome then none else some d.1
/-- Write a whole unit with fresh checks. -/
def Chan.stageWrite (x : Chan) (h off : Nat) (data : BitVec 512) : Chan := x.setHbm (stageUnit h off) (mkUnit64 data)

/-- What a read of several units gives: their bytes, or the window offset of the first uncorrectable unit. -/
inductive Staged
  | bytes (l : List Byte)
  | bad (off : Nat)
deriving DecidableEq, Repr

/-- Read `n` units from unit `u` of a window on. -/
def Chan.stageUnits (x : Chan) (h : Nat) : Nat → Nat → List (List Byte) → Staged
  | 0, _, acc => .bytes acc.reverse.flatten
  | n + 1, u, acc =>
    match x.stageRead h (64 * u) with
    | none => .bad (64 * u)
    | some d => Chan.stageUnits x h n (u + 1) (toBytes 64 d.toNat :: acc)

/-- The bytes of a window from `off` on, `len` of them. -/
def Chan.stageBytes (x : Chan) (h off len : Nat) : Staged :=
  if len = 0 then .bytes []
  else
    match x.stageUnits h ((off + len - 1) / 64 - off / 64 + 1) (off / 64) [] with
    | .bytes l => .bytes ((l.drop (off % 64)).take len)
    | .bad o => .bad o

/-- Write `n` units from byte `off` (a multiple of 64) on; the rest of the last one is zeros (R253). -/
def Chan.stagePut (h : Nat) : Nat → Nat → List Byte → Chan → Chan
  | 0, _, _, x => x
  | n + 1, off, l, x =>
    Chan.stagePut h n (off + 64) (l.drop 64) (x.stageWrite h off (BitVec.ofNat 512 (ofBytes (padTo 64 (l.take 64)))))

/-- A command writes results into its owner's window. -/
def Chan.stagePutBytes (x : Chan) (h off : Nat) (l : List Byte) : Chan := Chan.stagePut h ((l.length + 63) / 64) off l x

/-- Whether a range lies in a window (R252). -/
def inWindow (off len : Nat) : Bool := decide (off + len ≤ windowSize)

/-- BOOT_UPD_CTRL.START: the boot controller copies the image from the staging window of the frame's host function and
checks it (R507). An area that cannot be read ends the update as a failed staging read. -/
def State.bootUpdStart (s : State) (h : Nat) : State :=
  if s.boot.updBusy.isSome then s
  else
    let c : Ch := Fin.ofNat 4 (s.field (modR 0x8070) 1 2)
    let off := s.field (modR 0x8074) 0 32
    let len := s.field (modR 0x8078) 0 32
    let x := s.chan c
    let got : Staged :=
      if (x.power == .on || x.power == .idle) && inWindow off len && decide (len ≤ 0x800000) && off % 64 == 0 then x.stageBytes h off len
      else .bad off
    let upd : List Byte × Nat × Nat := match got with
      | .bytes l => (l, imageFault true s.boot.revoked l, s.now)
      | .bad _ => ([], 5, s.now)
    { s with boot := { s.boot with updBusy := some upd } }

end Sys2Proof.Machine
end

