-- ==== Sys2Proof/Machine/RegRead.lean ====
section
/-! DEFINITION. What a register reads as: the stored word with the fields that hardware derives from the state, in the
module region and in a channel's region, direct and indirect (R413, and the field tables of chapters 01 to 20). -/

namespace Sys2Proof.Machine

/-- A word with fields replaced, each given by its lowest bit, width and value. -/
def putFields (w : Word) (l : List (Nat × Nat × Nat)) : Word := l.foldl (fun w f => setFld w f.1 f.2.1 f.2.2) w

/-- The low bits of a signed value. -/
def intBits (n : Nat) (v : Int) : Nat := (v % (2 ^ n : Nat)).toNat

/-! ## Indirect pairs (R423) -/

/-- The pair of a requester in a region: host functions 0 to 7, the boot controller 8. -/
def State.pair (s : State) (region req : Nat) : IndPair :=
  (s.ind.find? (fun p => p.region == region && p.requester == req)).getD ⟨region, req, 0, 0, 0, none⟩

/-- Store a pair. -/
def State.setPair (s : State) (p : IndPair) : State :=
  let rest := s.ind.filter (fun q => !(q.region == p.region && q.requester == p.requester))
  { s with ind := insertBy (fun a b => decide (a.region * 16 + a.requester < b.region * 16 + b.requester)) p rest }

/-! ## Module region -/

/-- Whether a register of an offset range of the module region holds a parity mismatch. -/
def State.modParity (s : State) (lo hi : Nat) : Bool := s.parity.any (fun k => decide (modR lo ≤ k) && decide (k < modR hi))

/-- MOD_STATUS.HFAT_PARITY; BOOT_CFG has the HFAT as its owning block (R499). -/
def State.hfatParity (s : State) : Bool := s.modParity 0x7000 0x8000 || s.parity.contains (modR 0x8008)

/-- Code of a link state (Table 14.7). -/
def LinkState.code : LinkState → Nat
  | .down => 0 | .train => 1 | .up => 2 | .recovery => 3

/-- Buffer credit that LINK_CREDIT shows (Table 14.10): what the host still holds of VC0 and VC2 (DEDUCED), and what the
module may still send on the others. -/
def State.linkCredit (s : State) (v : Nat) : Nat :=
  let p := s.host
  if !p.isUp then 0
  else if v = 0 ∨ v = 2 then grantOf .host v + p.freed v - p.rcvd.getD v 0
  else p.hostCr.getD v 0 - p.sent.getD v 0

/-- EVT_SUMMARY. -/
def State.evtSummary (s : State) : List (Nat × Nat × Nat) :=
  let words (f : Nat → Nat) (base n : Nat) : List Word := (List.range n).map (fun i => s.reg (f (base + 4 * i)))
  let pend (f : Nat → Nat) (base n : Nat) : Bool := (words f base n).any (· != 0)
  let alert (f : Nat → Nat) (b : Nat) (n : Nat) : Bool :=
    ((words f b n).zip (words f (b + 0xC0) n)).any (fun p => (p.1 &&& p.2) != 0)
  let chs : List Ch := [0, 1, 2, 3]
  (0, 1, b2n (pend modR 0x4000 8)) :: (5, 1, b2n (alert modR 0x4000 8 || chs.any (fun c => alert (chR c) 0xB000 15)))
    :: chs.map (fun c => (1 + c.val, 1, b2n (pend (chR c) 0xB000 15)))

/-- Derived fields of a direct register of the module region. -/
def State.modDerived (s : State) (off : Nat) : List (Nat × Nat × Nat) :=
  let p := s.host
  let i4 (base st : Nat) : Ch := Fin.ofNat 4 ((off - base) / st)
  if inArr off 0x1010 4 5 then [(0, 16, s.linkCredit ((off - 0x1010) / 4))]
  else if inArr off 0x1030 4 4 then
    let x := s.chan (i4 0x1030 4)
    [(0, 12, x.slotOut), (12, 12, x.account), (24, 1, b2n s.pwr.hold)]
  else if inArr off 0x2010 4 4 then [(3, 1, b2n (s.mirrorActive (i4 0x2010 4)))]
  else if inArr off 0x4110 4 4 then [(6, 1, b2n (s.chan (i4 0x4110 4)).faulted)]
  else if inArr off 0x6030 4 4 then [(0, 12, s.groupInflight (i4 0x6030 4))]
  else if inArr off 0x8020 4 4 then
    let f := s.flash (i4 0x8020 4)
    [(0, 7, f.pct), (7, 1, b2n f.restoreDone), (8, 1, b2n f.truncated)]
  else if inArr off 0x8040 8 4 then [(0, 32, (s.flash (i4 0x8040 8)).jseq / 2 ^ 32)]
  else if inArr off 0x8044 8 4 then [(0, 32, (s.flash (i4 0x8044 8)).jseq)]
  else if inArr off 0x8060 4 4 then [(0, 32, (s.flash (i4 0x8060 4)).gen)]
  else match off with
  | 0x0010 => [(0, 1, b2n s.boot.ready), (5, 1, b2n (s.bit (modR 0x0014) 0)), (6, 1, b2n s.ebbPin),
      (7, 1, b2n s.hfatParity)] ++ ([0, 1, 2, 3] : List Ch).map (fun c => (1 + c.val, 1, b2n (s.chan c).ready))
  | 0x1004 => [(0, 2, p.state.code), (2, 2, if !p.isUp then 3 else if p.width = 4 then 0 else if p.width = 8 then 1 else 2),
      (4, 1, b2n p.reversed), (5, 1, b2n s.linkDegraded), (6, 1, b2n s.linkSafe), (7, 1, b2n p.credMinFail),
      (8, 4, if p.state = .train ∨ p.state = .recovery then p.step else 0)]
  | 0x1008 => [(0, 16, if p.isUp then p.lanes.toNat else 0), (16, 16, p.failed.toNat)]
  | 0x100C => [(0, 13, p.txNext), (16, 13, p.rxExpect)]
  | 0x2004 => [(0, 15, s.rels.length), (15, 1, b2n (decide (16384 ≤ s.rels.length)))]
  | 0x3004 => [(0, 1, b2n s.egr.idle), (1, 1, b2n s.egrFrozen)]
  | 0x3014 => [(0, 1, b2n s.casc.cur.isNone), (1, 1, b2n (s.bit (modR 0x3010) 0 && s.casc.cur.isNone))]
  | 0x4104 => s.evtSummary
  | 0x4108 => [(0, 11, s.ev.queue.length), (11, 1, b2n s.ev.ovf), (12, 20, s.ev.dropped)]
  | 0x5004 => [(0, 1, b2n s.time.valid), (1, 1, b2n s.time.locked), (2, 1, b2n s.time.holdover)]
  | 0x5008 => [(0, 16, s.time.seconds / 2 ^ 32)]
  | 0x500C => [(0, 32, s.time.snapSec)]
  | 0x5010 => [(0, 30, s.time.snapNs)]
  | 0x6008 => [(0, 3, s.casc.pos), (3, 1, b2n (s.casc.pos == 0)), (4, 1, b2n (s.casc.pos == s.cascLast)),
      (5, 1, b2n s.up.isUp), (6, 1, b2n s.dn.isUp), (7, 1, b2n s.cascSafe), (8, 3, s.casc.reach)]
  | 0x8000 =>
    let b := s.boot
    [(0, 4, b.stage), (4, 1, b2n b.slot), (5, 1, b2n b.fallback), (6, 1, b2n b.fail), (7, 2, b.keyIdx), (9, 4, b.revoked.toNat)]
  | 0x8004 => [(0, 32, s.boot.version.toNat)]
  | 0x8008 => [(8, 1, b2n (s.boot.prefer == some true)), (9, 1, b2n s.boot.prefer.isSome)]
  | 0x807C => [(0, 1, b2n s.boot.updBusy.isSome), (1, 3, s.boot.updResult)]
  | 0x9004 =>
    let q := s.pwr
    [(0, 1, b2n q.inputOk), (1, 1, b2n q.ride.isSome), (2, 1, b2n q.holdupOk), (3, 1, b2n q.degraded), (4, 1, b2n q.hold),
      (5, 1, b2n q.throttle), (6, 1, b2n q.capLow)]
  | 0x9008 => [(0, 16, s.pwr.vin / 10), (16, 16, s.pwr.bank / 10)]
  | 0x900C => [(0, 16, s.pwr.pinDw), (16, 16, s.pwr.pStatic / 100000)]
  | 0x9010 => [(0, 8, intBits 8 s.pwr.baseC), (8, 8, intBits 8 s.pwr.stageC)]
  | _ => []

/-- Derived fields of a word of the module indirect space. -/
def State.modIDerived (s : State) (off : Nat) : List (Nat × Nat × Nat) :=
  if off = 0x200020 then [(0, 16, s.pwr.capUf)] else []

/-! ## A channel's region -/

/-- CH_STATUS.STATE (Table 01.13). -/
def ChPower.code : ChPower → Nat
  | .off => 0 | .wake => 1 | .on => 2 | .idle => 3

/-- Excluded blocks of a channel, as (bank, block). -/
def State.exclBlocks (s : State) (c : Ch) : List (Nat × Nat) :=
  ((s.allocBlocks c).filter (fun q => s.blkExcluded c q.1 q.2.1 q.2.2)).map (fun q => (q.1, q.2.1))

/-- ARRAY_STATUS.CFG_PARITY. -/
def State.arrayParity (s : State) (c : Ch) : Bool :=
  s.parity.any (fun k => k == chR c 0x1000 || (decide (chR c 0x1400 ≤ k) && decide (k < chR c 0x1800))
    || (decide (chI c 0x100000 ≤ k) && decide (k < chI c 0x102400)))
/-- FLOW_STATUS.CFG_PARITY. -/
def State.flowParity (s : State) (c : Ch) : Bool :=
  s.parity.any (fun k => decide (chR c 0x4000 ≤ k) && decide (k < chR c 0x4200))
/-- EPOCH_STATUS.CFG_PARITY. -/
def State.epochParity (s : State) (c : Ch) : Bool :=
  s.parity.any (fun k => decide (chR c 0x5000 ≤ k) && decide (k < chR c 0x5020))

/-- The poisoned words of a block (R328). -/
def ArrayMem.ueWords (a : ArrayMem) (bank block : Nat) : Nat :=
  (a.words.filter (fun p => p.1 / 4096 == bank * 33 + block && p.2.poison)).length
/-- Blocks that hold a poisoned word. -/
def ArrayMem.ueBlocks (a : ArrayMem) : Nat := ((a.words.filter (fun p => p.2.poison)).map (fun p => p.1 / 4096)).dedup.length

/-- A reference of a block is valid (BLK_CAL.REF_ANY). -/
def Chan.refAny (x : Chan) (bank block : Nat) : Bool :=
  x.maint.samples.any (fun p => p.2.any (fun m => m.refs.any (fun r => r.bank == bank && r.block == block && r.valid)))

/-- The holders that wait for a lock key, as a bit mask (Table 09.13). -/
def Mgr.waiters (m : Mgr) (key : Nat) : Nat :=
  let eng (j : Option Job) : Bool := match j with | some k => k.step == 0 && k.keys.contains key | Option.none => false
  ((List.range 10).filter (fun h =>
    if h = 8 then eng m.mig else if h = 9 then eng m.rep else (m.exec? h).bind Exec.request == some key)).foldl (fun a h => a + 2 ^ h) 0

/-- Codes of the allocated blocks (LCAL_STATUS). -/
def State.codes (s : State) (c : Ch) : List Nat := (s.allocBlocks c).map (fun q => s.field (calR c q.1 q.2.1) 0 5)

/-- Derived fields of a direct register of a channel's region. -/
def State.chDerived (s : State) (c : Ch) (off : Nat) : List (Nat × Nat × Nat) :=
  let x := s.chan c
  if inArr off 0x1100 8 36 then
    let b := (off - 0x1100) / 8
    (List.range 32).map (fun k => (k, 1, b2n (s.excl c b k)))
  else if inArr off 0x1104 8 36 then [(0, 1, b2n (s.excl c ((off - 0x1104) / 8) 32))]
  else if inArr off 0x1400 4 256 then
    let t := (off - 0x1400) / 4
    let g := s.field (tblR c t) 3 4
    [(8, 12, (s.tableBlocks c t).length), (20, 1, b2n (s.tblDegraded c t)),
      (21, 1, b2n (decide (1 < ((List.range 4).filter g.testBit).length)))]
  else if inArr off 0x2000 4 64 then
    let p := (off - 0x2000) / 4
    [(1, 1, b2n (s.profActive c p)), (3, 1, b2n (s.profParity c p)), (4, 3, pbSlots (s.profBody c p))]
  else if inArr off 0x4100 16 16 then [(10, 1, b2n (s.ftParity c ((off - 0x4100) / 16)))]
  else if inArr off 0x410C 16 16 then
    let t := (off - 0x410C) / 16
    [(0, 13, (x.flow.pen.filter (fun p => p.2.table == t)).length)]
  else if inArr off 0x7100 4 36 then [(0, 15, (x.scrubOf ((off - 0x7100) / 4)).pos)]
  else if inArr off 0x9010 4 16 then [(5, 1, b2n (handoverPending (s.reg (chR c off))))]
  else match off with
  | 0x0008 => [(0, 2, x.power.code), (2, 1, b2n x.ready), (3, 1, b2n (!x.charges.isEmpty)), (4, 1, b2n (s.admits c)),
      (5, 1, b2n x.faulted), (8, 12, x.charges.length)]
  | 0x1004 => [(0, 11, (s.allocBlocks c).length), (16, 11, (s.exclBlocks c).length), (27, 1, b2n (s.arrayParity c))]
  | 0x100C => (List.range 32).map (fun b => (b, 1, b2n (s.bit (blkR c b 32) 0)))
  | 0x1010 => (List.range 4).map (fun b => (b, 1, b2n (s.bit (blkR c (32 + b) 32) 0)))
  | 0x4004 => [(0, 13, x.penUsed), (13, 1, b2n (decide (4096 ≤ x.penUsed))), (14, 1, b2n (s.flowParity c)),
      (16, 12, x.flow.exports.length)]
  | 0x4014 => [(0, 25, x.flow.ageStart), (25, 4, x.flow.ageStart / 2 ^ 25)]
  | 0x4018 => [(0, 32, s.flowTick)]
  | 0x5004 => [(16, 3, x.ep.st0.code)]
  | 0x5008 => [(16, 3, x.ep.st1.code)]
  | 0x500C => [(0, 1, x.curSlot), (1, 1, b2n x.ep.armed), (2, 1, b2n x.ep.pending), (3, 1, b2n (s.epochParity c)),
      (4, 1, b2n x.ep.late), (16, 16, s.slackLeft c)]
  | 0x6808 => [(0, 1, b2n x.maint.swapAt.isSome), (1, 1, b2n (s.calParity c)), (2, 6, nonSearch (s.slotCodes c 0x6000)),
      (16, 16, if x.power = .on ∨ x.power = .idle then s.tidePos c else 0)]
  | 0x680C => (8, 13, x.direct.length) :: (List.range 8).map (fun h => (h, 1, b2n (x.direct.any (fun d => d.hf.val == h))))
  | 0x7008 => [(0, 11, x.arr.ueBlocks), (11, 1, b2n (!x.mgr.repairs.isEmpty))]
  | 0x8008 =>
    let l := s.codes c
    [(0, 11, ((List.range 1188).filter (fun i => s.bit (calR c (i / 33) (i % 33)) 22)).length),
      (11, 1, b2n (!(s.slotCodes c 0x6000).contains 3)), (16, 5, l.foldl max 0), (24, 5, l.foldl min (l.headD 0))]
  | 0xA004 => (List.range 16).map (fun n => (2 * n, 2, match (x.mgr.box n).state with
      | .empty => 0 | .pending => 1 | .running => 2 | .responding => 3))
  | 0xA008 => [(0, 1, b2n x.mgr.up), (1, 1, b2n (s.flash c).olActive), (2, 4, x.mgr.execs.length), (8, 7, x.mgr.locks.length)]
  | 0xD004 => [(1, 1, b2n (s.bit (chR c 0xD000) 0))]
  | 0xE010 => [(0, 16, min (s.pwr.eAct.get c / 1000) 65535), (16, 8, intBits 8 (s.pwr.chC.get c)),
      (24, 1, b2n (s.pwr.overTemp.get c)), (25, 1, b2n (s.pwr.railFault.get c))]
  | _ => []

/-- Derived fields of a word of a channel's indirect space. -/
def State.chIDerived (s : State) (c : Ch) (off : Nat) : List (Nat × Nat × Nat) :=
  let x := s.chan c
  match blkIdx off 0x100000, blkIdx off 0x400000, blkIdx off 0x500000 with
  | some (b, k), _, _ =>
    let w := s.reg (blkR c b k)
    [(16, 1, b2n (s.excl c b k)), (17, 1, b2n (wbit w 0 && s.blkInvalid c b k w))]
  | _, some (b, k), _ => [(0, 13, x.arr.ueWords b k)]
  | _, _, some (b, k) => [(23, 1, b2n (x.refAny b k))]
  | _, _, _ =>
    if 0x300000 ≤ off ∧ off < 0x300100 then
      match x.mgr.locks.find? (fun p => p.1 == (off - 0x300000) / 4) with
      | none => []
      | some (_, l) => [(0, 16, l.key), (16, 4, l.holder), (20, 10, x.mgr.waiters l.key), (31, 1, 1)]
    else []

/-! ## Reads -/

/-- What a register reads as; 0 where no field table defines one (R412). A WP field reads 0. -/
def State.readReg (s : State) (region : Nat) (ind : Bool) (off : Nat) : Word :=
  match regFields region ind off with
  | none => 0
  | some fs =>
    let k := regKey region ind off
    let w := (if region = 0 ∧ !ind ∧ 0x7000 ≤ off ∧ off < 0x8000 then s.hfat off else s.reg k) &&& ~~~(clsMask .wp fs)
    let c : Ch := Fin.ofNat 4 (region - 1)
    putFields w (if region = 0 then (if ind then s.modIDerived off else s.modDerived off)
      else if ind then s.chIDerived c off else s.chDerived c off)

/-- The lane measurements of SERDES_RX are the environment's: the port of the lane, when it is up (log entry 8). -/
def State.measured (s : State) (region : Nat) (ind : Bool) (off : Nat) : Bool :=
  region == 0 && ind && decide (0x100000 ≤ off) && decide (off < 0x100800) && off % 0x40 == 4
    && (if off < 0x100400 then s.host else if off < 0x100600 then s.up else s.dn).isUp

/-- A read by a requester of a region: the pair registers are its own (R423), TIME_SEC_HI captures the snapshot. -/
def State.readAs (s : State) (req region : Nat) (ind : Bool) (off : Nat) : Word × State :=
  let base := if region = 0 then 0xA000 else 0xC000
  let p := s.pair region req
  if s.measured region ind off then
    let r := s.free
    (r.1.setWidth 32, r.2)
  else if !ind && off == base then (p.addr, s)
  else if !ind && off == base + 8 then (p.ctrl, s)
  else if !ind && off == base + 0xC then (BitVec.ofNat 32 (b2n p.flight.isSome + 2 * p.err), s)
  else if region == 0 && !ind && off == 0x5008 then
    let s := s.snapTime
    (s.readReg region ind off, s)
  else (s.readReg region ind off, s)

end Sys2Proof.Machine
end

