-- ==== Sys2Proof/Machine/RegWrite.lean ====
section
/-! DEFINITION. A register write: how its fields land by their classes (R413 to R421), and what the write of each register
then does. -/

namespace Sys2Proof.Machine

/-- Who writes a register (R414). -/
inductive Writer
  | host (h : Hf)
  | oluek
  | boot
deriving DecidableEq, Repr

/-- Its number: a host function's, or 8 for the boot controller. -/
def Writer.num : Writer → Nat
  | .host h => h.val
  | _ => 8

/-- Its indirect pair (R423). -/
def Writer.isHost : Writer → Bool
  | .host _ => true
  | _ => false

/-! ## Owning blocks (R417) -/

/-- Whether the block that owns a register's RWD fields is disabled, and its CFG_WRITE_IGNORED source. -/
def State.ownerOf (s : State) (who : Writer) (region : Nat) (ind : Bool) (off : Nat) : Bool × Nat :=
  let hfat := (who == .boot && !s.bit (modR 0x0014) 0, 152)
  let c : Ch := Fin.ofNat 4 (region - 1)
  let link := (!s.bit (modR 0x1000) 0, 40)
  let casc := (!s.cascEn, 70)
  if region = 0 then
    (if ind then (if off < 0x100400 then link else casc)
     else if 0x7000 ≤ off ∧ off < 0x8000 ∨ off = 0x8008 then hfat
     else if 0x6000 ≤ off ∧ off < 0x7000 then casc
     else if 0x1000 ≤ off ∧ off < 0x2000 then link else (true, 157))
  else if ind then
    (if off < 0x200000 then (!s.bit (chI c off) 0, chSrc c 0)
     else (s.profDisabled c ((off - 0x200000) / 0x400), chSrc c 16))
  else if off < 0x2000 then (!s.bit (chR c off) 0, chSrc c 0)
  else if off = 0x4008 ∨ off = 0x400C then (!s.bit (chR c 0x4000) 0, chSrc c 192)
  else if off < 0x5000 then (!s.bit (ftR c ((off - 0x4100) / 16)) 0, chSrc c 192)
  else if off < 0x5010 then
    let st := (s.chan c).ep.slot ((off - 0x5004) / 4)
    (st == .free || st == .staged, chSrc c 291)
  else if off < 0x6000 then (!(s.chan c).ep.armed, chSrc c 291)
  else ((s.chan c).maint.swapAt.isNone, chSrc c 322)

/-- The bits that a register's configuration parity covers: its RWD fields, and the RW fields of CASC_CTRL, CASC_GPROF and
FLOW_CTRL (R418, R240, Table 05.8). The BLKMAP entry of block 32, whose fields are RO, carries none: DESIGN CHOICE (log
entry 62). -/
def parityMask (region : Nat) (ind : Bool) (off : Nat) (fs : List Fld) : Word :=
  if ind then clsMask .rwd fs
  else if region = 0 ∧ (off = 0x6000 ∨ (0x6010 ≤ off ∧ off < 0x6030)) then clsMask .rw fs
  else if region ≠ 0 ∧ off = 0x4000 then clsMask .rw fs
  else clsMask .rwd fs

/-- Sources that exist, by word of the module and the channel event registers; the others ignore writes (R457, R471). -/
def definedSources (region i : Nat) : Nat :=
  if region = 0 then [0x7FF, 0x7FF, 0x1FF, 0x3F, 0x3F007FFF, 0x1F, 0x7F, 0].getD i 0
  else [0x1FF1F3F, 0, 0xFF, 0, 0x7F, 0, 0x1FFF, 0, 3, 0x7F, 0x1F, 0xFF, 0xFF, 0xF, 0x1FF].getD i 0

/-- The bits of a register that software can reach at all: all, but in the event enables those of defined sources. -/
def reachable (region : Nat) (ind : Bool) (off : Nat) : Word :=
  let b := if region = 0 then 0x4080 else 0xB080
  if !ind && decide (b ≤ off) && decide (off < b + 0x80) then BitVec.ofNat 32 (definedSources region ((off - b) % 0x40 / 4))
  else ~~~0

/-! ## Landing -/

/-- A register of an indirect pair: IND_ADDR, IND_CTRL or IND_STATUS. -/
def isPairReg (region : Nat) (ind : Bool) (off : Nat) : Bool :=
  let b := if region = 0 then 0xA000 else 0xC000
  !ind && (off == b || off == b + 8 || off == b + 0xC)

/-- The stored word that a write meets. -/
def State.storedWord (s : State) (who : Writer) (region : Nat) (ind : Bool) (off : Nat) : Word :=
  let p := s.pair region who.num
  if isPairReg region ind off then
    (match off % 0x1000 with | 0 => p.addr | 8 => p.ctrl | _ => BitVec.ofNat 32 (2 * p.err))
  else s.reg (regKey region ind off)

/-- Store it. -/
def State.storeWord (s : State) (who : Writer) (region : Nat) (ind : Bool) (off : Nat) (v : Word) : State :=
  let p := s.pair region who.num
  if isPairReg region ind off then
    s.setPair (match off % 0x1000 with
      | 0 => { p with addr := v } | 8 => { p with ctrl := v } | _ => { p with err := v.toNat / 2 })
  else s.setReg (regKey region ind off) v

/-- A software field of class +H that hardware writes in the same cycle is lost as a whole (R416). -/
def lostMask (fs : List Fld) (bits hw : Word) : Word :=
  fs.foldl (fun m f =>
    let q := fmask f.lo f.n
    if f.h && (f.cls == .rw || f.cls == .rwd) && (q &&& hw) != 0 && (q &&& bits) != 0 then m ||| q else m) 0

/-- WRITE_LOST and REG_LOST_LOG (R416, Table 16.17). -/
def State.writeLost (s : State) (who : Writer) (region : Nat) (ind : Bool) (off : Nat) : State :=
  let b := if region = 0 then 0xA000 else 0xC000
  let h := match who with | .host h => h.val * 2 ^ 16 | _ => 2 ^ 19
  let v := off % 65536 + h + (if ind then 2 ^ 20 + off / 65536 % 256 * 2 ^ 21 else 0)
  let s := (s.count (regKey region false (b + 0x100)) 1).capture (regKey region false (b + 0x20)) v
  s.raise (if region = 0 then 154 else chSrc (Fin.ofNat 4 (region - 1)) 450) (off % 65536)

/-- RSV_CHANGED (R420). -/
def State.rsvChanged (s : State) (region off : Nat) : State :=
  let b := if region = 0 then 0xA000 else 0xC000
  (s.count (regKey region false (b + 0x104)) 1).raise (if region = 0 then 155 else chSrc (Fin.ofNat 4 (region - 1)) 451)
    (off % 65536)

/-- STATE_REQ does not land by itself: R28 judges it. ADMIT_EN of the same write lands even when that request is ignored or
rejected: DESIGN CHOICE (log entry 62). -/
def judgedBits (region : Nat) (ind : Bool) (off : Nat) : Word := if region ≠ 0 ∧ !ind ∧ off = 4 then 6 else 0

/-- Registers whose writes act from the next host-link cycle on: CH_CTRL, REL_MIRROR, CASC_CTRL and CASC_GPROF (R26, R188, R219,
R238). -/
def actsLater (region : Nat) (ind : Bool) (off : Nat) : Bool :=
  !ind && (if region = 0 then inArr off 0x2010 4 4 || inArr off 0x6010 4 8 || off == 0x6000 else off == 4)

/-- The fields of a write land: `bits` are the bits that the write touches, `hw` what hardware does in the same cycle. -/
def State.landFields (s : State) (who : Writer) (region : Nat) (ind : Bool) (off : Nat) (fs : List Fld) (v bits hw : Word) :
    State :=
  let old := s.storedWord who region ind off
  let own := s.ownerOf who region ind off
  let rwdm := clsMask .rwd fs
  let cntm := clsMask .cnt fs
  let lost := if cntm == 0 then lostMask fs bits hw else 0
  let m := bits &&& (clsMask .rw fs ||| (if own.1 then rwdm else 0) ||| rsvMask fs ||| cntm) &&& ~~~lost
    &&& ~~~(judgedBits region ind off) &&& reachable region ind off
  let w := (old &&& ~~~m) ||| (v &&& m)
  let w := if cntm == 0 then w else satAdd w hw.toNat
  let ignored := !own.1 && ((bits &&& rwdm &&& (v ^^^ old)) != 0 || (own.2 == 152 && who.isHost))
  let rsv := (bits &&& rsvMask fs &&& (v ^^^ old)) != 0
  let k := regKey region ind off
  let s := if actsLater region ind off then s.keepOld k else s
  let s := s.storeWord who region ind off w
  let s := if (m &&& parityMask region ind off fs) != 0 then { s with parity := s.parity.filter (· != k) } else s
  let s := if lost != 0 then s.writeLost who region ind off else s
  let s := if rsv then s.rsvChanged region off else s
  if ignored then s.raise own.2 (off % 65536) else s

/-! ## Effects in the module region -/

/-- EVT_CLR: pending bits clear, but for sources raised in the same cycle (R457, Table 18.7). -/
def State.evtClear (s : State) (region off : Nat) (pulse hw : Word) : State :=
  let k := regKey region false (off - 0x40)
  s.setReg k (s.reg k &&& ~~~(pulse &&& ~~~hw))

/-- CASC_CTRL as it changes: EN is refused while POS is above LAST (R218); the ports start or stop; BYPASS (R241). -/
def State.cascCtrl (old s : State) : State :=
  let a := old.bit (modR 0x6000) 0
  let s := s.evMIf (old.bit (modR 0x6000) 1 != s.bit (modR 0x6000) 1) 72
  let b := s.bit (modR 0x6000) 0
  if !a && b then
    if s.cascLast < s.casc.pos then (s.setB (modR 0x6000) 0 false).evM 66
    else
      let start (s : State) (p : Port) : State :=
        if s.connected p && (s.port p).state == .down then s.setPort p ((s.port p).stop s.now true) else s
      start (start s .up) .down
  else if a && !b then (s.cascDown .up).cascDown .down
  else s

/-- MOD_RESET (R492). -/
def State.modResetNow (s : State) : State := s.endProgs.moduleReset.leaveReset

/-- What a write of a module register does. `pulse` holds the WP bits written 1. -/
def State.modEffect (old s : State) (who : Writer) (off : Nat) (pulse hw : Word) : State :=
  if inArr off 0x2010 4 4 then State.mirrorEvents old s
  else if inArr off 0x4040 4 8 then s.evtClear 0 off pulse hw
  else match off with
  | 0x1000 =>
    let s := State.linkEnChange old s
    if wbit pulse 6 then s.retrain else if old.linkSafe then s.startTraining else s
  | 0x1040 => if old.linkSafe then s.startTraining else s
  | 0x3000 => s.evMIf (!old.egrFrozen && s.egrFrozen) 193
  | 0x3010 => s.evMIf (!old.bit (modR 0x3010) 0 && s.bit (modR 0x3010) 0 && s.casc.cur.isNone) 195
  | 0x4100 => s.overflowRecord
  | 0x5020 => s.timeCmd pulse
  | 0x6000 => State.cascCtrl old s
  | 0x800C => if wbit pulse 0 then s.modResetNow else s
  | 0x8070 => if wbit pulse 0 then s.bootUpdStart who.num else s
  | 0x9000 => s.govern
  | _ => s

/-! ## Effects in a channel's region -/

/-- FLOW_CTRL as it changes: an engine that stops leaves the order of the buckets (R159, R142). -/
def State.flowCtrlWritten (old s : State) (c : Ch) : State :=
  let s := if old.bit (chR c 0x4000) 2 && !s.bit (chR c 0x4000) 2 then s.ageOff c else s
  s.modChan c (fun x => x.dropEngine (fun o => if s.flowRuns c then o.isReloc && !s.bit (chR c 0x4000) 3 else o.isEngine))

/-- What a write of a channel register does. -/
def State.chEffect (old s : State) (who : Writer) (c : Ch) (off : Nat) (v bits pulse hw : Word) : State :=
  if inArr off 0x1400 4 256 then State.blockEvents old s c
  else if inArr off 0x2000 4 64 then s.profEnWritten c ((off - 0x2000) / 4) (old.bit (chR c off) 0)
  else if inArr off 0x4100 16 16 then s.ftEnWritten c ((off - 0x4100) / 16) (old.bit (chR c off) 0)
  else if inArr off 0x9010 4 16 then
    if (bits &&& 3) == 0 then s else s.ownerReqWritten c ((off - 0x9010) / 4) (old.field (chR c off) 0 2) who.isHost
  else if inArr off 0xB040 4 15 then s.evtClear (c.val + 1) off pulse hw
  else match off with
  | 0x0004 =>
    let s := State.mirrorEvents old s
    let want := fld ((old.reg (chCtrl c) &&& ~~~bits) ||| (v &&& bits)) 1 2
    if (bits &&& 6) == 0 || (hw &&& 6) != 0 then s else s.writeReq c want
  | 0x1000 => State.blockEvents old s c
  | 0x3004 => if wbit pulse 31 then s.setField (chR c 0x3004) 0 12 (s.chan c).ctxs.length else s
  | 0x4000 => State.flowCtrlWritten old s c
  | 0x5010 => s.epochCmd c pulse
  | 0x6800 => if wbit pulse 0 then s.calSwap c else s
  | 0x9050 => if wbit pulse 0 then s.marchStart c else s
  | 0xA000 => match who with | .host h => s.ringBells c h (fld pulse 0 16) | _ => s
  | 0xA00C => if wbit pulse 0 then s.restartMgr c else s
  | 0xD000 => s.evCIf (!old.bit (chR c 0xD000) 0 && s.bit (chR c 0xD000) 0) c 417
  | _ => s

/-- What a write of an indirect target does. -/
def State.indEffect (old s : State) (region off : Nat) : State :=
  let c : Ch := Fin.ofNat 4 (region - 1)
  if region = 0 then (if old.linkSafe && decide (off < 0x100400) then s.startTraining else s)
  else if off < 0x200000 then State.blockEvents old s c
  else if off < 0x300000 then s.profBodyWritten c ((off - 0x200000) / 0x400)
  else s

/-- A write to a register (R413): its fields land, then it acts. `bits` are the bits that it touches. -/
def State.land (s : State) (who : Writer) (region : Nat) (ind : Bool) (off : Nat) (v bits hw : Word) : State :=
  match regFields region ind off with
  | none => s
  | some fs =>
    let pulse := v &&& bits &&& clsMask .wp fs
    let t := s.landFields who region ind off fs v bits hw
    if ind then State.indEffect s t region off
    else if region = 0 then State.modEffect s t who off pulse hw
    else State.chEffect s t who (Fin.ofNat 4 (region - 1)) off v bits pulse hw

/-- A whole write of Oluek or the boot controller. -/
def State.landAll (s : State) (who : Writer) (region : Nat) (ind : Bool) (off : Nat) (v : Word) : State :=
  s.land who region ind off v (~~~0) 0

/-! ## Configuration parity (R418) -/

/-- A configuration parity mismatch arises in a register: its covered bits read as they now stand, the owning block's
CFG_PARITY sets and its safe state begins. -/
def State.parityFault (s : State) (region : Nat) (ind : Bool) (off : Nat) (flip : Word) : State :=
  match regFields region ind off with
  | none => s
  | some fs =>
    let m := parityMask region ind off fs
    if m == 0 || (ind && decide (0x200000 ≤ off) && region == 0) then s
    else
      let k := regKey region ind off
      let old := s
      let s := s.setReg k (s.reg k ^^^ (flip &&& m))
      let s : State := { s with parity := insertNat k s.parity }
      let c : Ch := Fin.ofNat 4 (region - 1)
      let new (f : State → Bool) : Bool := !f old && f s
      if region = 0 then
        let s := s.evMIf (new State.linkSafe) 41
        let s := s.evMIf (new State.cascSafe) 71
        let s := s.evMIf (new State.hfatParity) 153
        if !old.linkSafe && s.linkSafe then s.hostDown else s
      else
        let p := (off - 0x200000) / 0x400
        let ft := (off - 0x4100) / 16
        let isFt := !ind && inArr off 0x4100 16 16 || !ind && inArr off 0x4104 16 16
        let s' := s.evCIf (new (fun s => s.arrayParity c)) c 1
        let s' := s'.evCIf (ind && decide (0x200000 ≤ off) && decide (off < 0x300000) && new (fun s => s.profParity c p)) c 17 p
        let s' := s'.evCIf (new (fun s => s.flowParity c) || (isFt && new (fun s => s.ftParity c ft))) c 193
        let s' := s'.evCIf (new (fun s => s.epochParity c)) c 292
        let s' := s'.evCIf (new (fun s => s.calParity c)) c 323
        State.blockEvents old s' c

end Sys2Proof.Machine
end

