-- ==== Sys2Proof/Machine/RegFrames.lean ====
section
/-! DEFINITION. What a register frame does (R401, R402, R415), indirect accesses (R423 to R425) and bit aliases (R421, R422). -/

namespace Sys2Proof.Machine

/-! ## Addresses (Table 16.1) -/

/-- Where a register address lies in its region. -/
inductive Area
  | none
  | ctl (off : Nat)
  | bitWord (off bit : Nat)
  | spad (o : Nat)
deriving DecidableEq, Repr

/-- Region of an address: 0 the module, 1 + c channel c. -/
def regionOf (addr : BitVec 32) : Nat := addr.toNat / 2 ^ 24

/-- The area of an address. An unaligned address lies in the area of its word. -/
def areaOf (addr : BitVec 32) : Area :=
  let r := regionOf addr
  let o := addr.toNat % 2 ^ 24
  if 5 ≤ r then .none
  else if o < 0x10000 then (if blockExists r o then .ctl (o / 4 * 4) else .none)
  else if 0x800000 ≤ o ∧ o < 0xA00000 then .bitWord ((o - 0x800000) / 128 * 4) ((o - 0x800000) / 4 % 32)
  else if 0x400000 ≤ o ∧ o < 0x500000 ∧ 1 ≤ r then .spad (o - 0x400000)
  else .none

/-- Offset of IND_ADDR in a region. -/
def indBase (region : Nat) : Nat := if region = 0 then 0xA000 else 0xC000

/-- Block whose right an indirect target needs (Table 16.4); none where the table has no target. -/
def indOwner (region off : Nat) : Option Nat :=
  if region = 0 then
    (if 0x100000 ≤ off ∧ off < 0x100400 then some 1
     else if 0x100400 ≤ off ∧ off < 0x100800 then some 6
     else if 0x200000 ≤ off ∧ off < 0x210000 then some 9 else Option.none)
  else if 0x100000 ≤ off ∧ off < 0x102400 then some 1
  else if 0x200000 ≤ off ∧ off < 0x210000 then some 2
  else if 0x300000 ≤ off ∧ off < 0x300100 then some 0xA
  else if 0x400000 ≤ off ∧ off < 0x402400 then some 7
  else if 0x500000 ≤ off ∧ off < 0x502400 then some 8
  else if 0x800000 ≤ off then some 0 else Option.none

/-- The right of check 1 (Table 16.5, R425). -/
def State.mayAccess (s : State) (h : Hf) (region : Nat) (area : Area) (write : Bool) : Bool :=
  match area with
  | .none => true
  | .ctl off =>
    s.mayReg h region (off / 0x1000) write
      && (off != indBase region + 4
        || (match indOwner region ((s.pair region h.val).addr.toNat) with
            | some b => s.mayReg h region b write
            | Option.none => true))
  | .bitWord off _ => s.mayReg h region (off / 0x1000) write
  | .spad _ => s.maySpad h (Fin.ofNat 4 (region - 1)) write

/-- A block that serves its registers in every channel state (R31). -/
def baseBlock (off : Nat) : Bool := off / 0x1000 == 0 || off / 0x1000 == 0xB || off / 0x1000 == 0xE

/-- The checks of R401: the frame status. -/
def State.frameCheck (s : State) (a : RegAcc) (write : Bool) (addr : BitVec 32) : Nat :=
  let r := regionOf addr
  let area := areaOf addr
  let c : Ch := Fin.ofNat 4 (r - 1)
  let down := decide (1 ≤ r) && ((s.chan c).power == .off || (s.chan c).power == .wake)
  if !s.mayAccess a.hf r area write then 1
  else match area with
  | .none => 2
  | .spad o =>
    if down then 3 else if s.spadForm c a.be o && s.spadMine c write o then 0 else 6
  | .ctl off =>
    if down && !baseBlock off then 3 else if addr.toNat % 4 ≠ 0 then 4 else if a.be ≠ 15 then 5 else 0
  | .bitWord off _ =>
    if down && !baseBlock off then 3 else if addr.toNat % 4 ≠ 0 then 4 else if a.be ≠ 15 then 5 else 0

/-! ## Indirect accesses -/

/-- IND_ADDR after an access with AUTO_INC (R424 step 5). -/
def IndPair.advance (p : IndPair) : IndPair :=
  if wbit p.ctrl 0 then { p with addr := setFld p.addr 2 22 (fld p.addr 2 22 + 1) } else p

/-- An IND_DATA access starts (R424). -/
def State.startInd (s : State) (a : RegAcc) (region : Nat) (write : Bool) (data : Word) : State :=
  let p := s.pair region a.hf.val
  let f : IndFlight := { addr := p.addr.toNat % 2 ^ 24 / 4 * 4, write := write, data := data, acc := a, at_ := s.now }
  s.setPair { p.advance with flight := some f }

/-- An access to IND_ADDR or IND_DATA waits while BUSY is 1 (R424 step 4). -/
def State.indWaits (s : State) (h : Hf) (region : Nat) (area : Area) : Bool :=
  (area == .ctl (indBase region) || area == .ctl (indBase region + 4)) && (s.pair region h.val).flight.isSome

/-- ERR takes a code; REG_CNT[2] counts and IND_ERROR is raised (R425). -/
def State.indError (s : State) (region : Nat) (p : IndPair) (code : Nat) : State :=
  let s := s.setPair { p with err := p.err / 4 * 4 + code, flight := Option.none }
  (s.count (regKey region false (indBase region + 0x108)) 1).raise
    (if region = 0 then 156 else chSrc (Fin.ofNat 4 (region - 1)) 452) 0

/-- A read of IND_DATA completes with its word. -/
def State.completeInd (s : State) (region : Nat) (f : IndFlight) (data : Word) : State :=
  if f.write then s else s.answerCompletion f.acc.hf region (completionBytes f.acc.hf 0 f.acc.rtag 0x20 (toBytes 4 data.toNat))

/-! ## Register frames -/

/-- The bytes of a register frame (Table 15.7). -/
def regFrameBytes (a : RegAcc) (write : Bool) (addr : BitVec 32) (data : Word) : List Byte :=
  toBytes 8 ((if write then 0x21 else 0x20) * 2 ^ 56 + a.hf.val * 2 ^ 53 + a.be.toNat * 2 ^ 49 + a.rtag.toNat * 2 ^ 32 + addr.toNat)
    ++ (if write then toBytes 4 data.toNat else [])

/-- The doorbells that a write rings, for the order of R406. -/
def bellOf (region : Nat) (area : Area) (data : Word) : Option (Nat × Nat) :=
  match area with
  | .ctl 0xA000 => if region = 0 then Option.none else some (region - 1, fld data 0 16)
  | .bitWord 0xA000 b => if region = 0 ∨ !wbit data 0 ∨ 16 ≤ b then Option.none else some (region - 1, 2 ^ b)
  | _ => Option.none

/-- A refused scratchpad access is counted when its ownership is at fault (R437). -/
def State.spadRefused (s : State) (a : RegAcc) (c : Ch) (write : Bool) (o : Nat) : State :=
  if s.spadForm c a.be o && !s.spadMine c write o then (s.count (chR c 0x9124) 1).evC c 355 else s

/-- The effect of a write frame that passes its checks. -/
def State.frameWrite (s : State) (a : RegAcc) (region : Nat) (area : Area) (data : Word) (others : List (List SpadReq)) : State :=
  let c : Ch := Fin.ofNat 4 (region - 1)
  match area with
  | .none => s
  | .ctl off =>
    if off = indBase region + 4 then s.startInd a region true data else s.land (.host a.hf) region false off data (~~~0) a.hw
  | .bitWord off b =>
    if off = indBase region + 4 then s
    else s.land (.host a.hf) region false off (if wbit data 0 then BitVec.ofNat 32 (2 ^ b) else 0) (BitVec.ofNat 32 (2 ^ b)) a.hw
  | .spad o => s.spadWindowWrite c a.be o data others

/-- The data of a read frame that passes its checks, and the state after it. An alias read has no side effect (R422). -/
def State.frameRead (s : State) (a : RegAcc) (region : Nat) (area : Area) (others : List (List SpadReq)) : Word × State :=
  let c : Ch := Fin.ofNat 4 (region - 1)
  match area with
  | .none => (0, s)
  | .ctl off => s.readAs a.hf.val region false off
  | .bitWord off b =>
    if off = indBase region + 4 then (0, s)
    else
      let w := if isPairReg region false off then (s.readAs a.hf.val region false off).1 else s.readReg region false off
      (BitVec.ofNat 32 (fld w b 1), s)
  | .spad o => s.spadWindowRead c o others

/-- A register frame acts (R401, R402): it is checked, it has its effect, and its COMPLETION is queued. `others` is what the
other scratchpad masters request meanwhile. -/
def State.regAct (s : State) (a : RegAcc) (write : Bool) (addr : BitVec 32) (data : Word) (others : List (List SpadReq)) : State :=
  let region := regionOf addr
  let area := areaOf addr
  let s := (s.takeFrame 2 (regFrameBytes a write addr data)).1
  let opc := if write then 0x21 else 0x20
  let st := s.frameCheck a write addr
  if st ≠ 0 then
    let s := match area with | .spad o => if st = 6 then s.spadRefused a (Fin.ofNat 4 (region - 1)) write o else s | _ => s
    s.complete a.hf region st a.rtag opc []
  else if write then
    (s.frameWrite a region area data others).complete a.hf region 0 a.rtag opc [] (bellOf region area data)
  else if area = .ctl (indBase region + 4) then (s.startInd a region false 0).reserveCompletion a.hf region
  else
    let r := s.frameRead a region area others
    r.2.complete a.hf region 0 a.rtag opc (toBytes 4 r.1.toNat)

/-! ## The register port (R414) -/

/-- The ranks of the requesters at a region's register port: 0 host frames, 1 Oluek, 2 the boot controller. -/
def State.portRanks (s : State) (region : Nat) : List Nat :=
  if region = 0 then s.regRanks else (s.chan (Fin.ofNat 4 (region - 1))).regRanks
/-- Change them. -/
def State.setPortRanks (s : State) (region : Nat) (l : List Nat) : State :=
  if region = 0 then { s with regRanks := l } else s.modChan (Fin.ofNat 4 (region - 1)) (fun x => { x with regRanks := l })

/-- A rival access is served. -/
def State.rivalAct (s : State) (region : Nat) (r : RegRival) : State :=
  match r.write with
  | some v => s.landAll (if r.boot then .boot else .oluek) region false (r.off.toNat / 4 * 4) v
  | none => (s.readAs 8 region false (r.off.toNat / 4 * 4)).2

/-- The number of the requester of an access: no rival is the frame itself. -/
def portNum : Option RegRival → Nat
  | none => 0
  | some r => if r.boot then 2 else 1

/-- The accesses that meet at a port are served one a cycle: while two or more are pending, rotating priority decides and the
winner drops to the lowest rank (R414). -/
def State.portRounds (a : RegAcc) (write : Bool) (addr : BitVec 32) (data : Word) (others : List (List SpadReq)) :
    Nat → List (Option RegRival) → State → State
  | 0, _, s => s
  | n + 1, l, s =>
    let serve (s : State) : Option RegRival → State
      | some r => s.rivalAct (regionOf addr) r
      | none => s.regAct a write addr data others
    match l with
    | [] => s
    | [x] => serve s x
    | l =>
      match rotate (s.portRanks (regionOf addr)) (fun i => l.any (fun x => portNum x == i)) with
      | none => s
      | some (w, ranks) =>
        let s := s.setPortRanks (regionOf addr) ranks
        let s := match l.find? (fun x => portNum x == w) with | some x => serve s x | none => s
        State.portRounds a write addr data others n (dropFirst (fun x => portNum x == w) l) s

/-- A register frame with the accesses that meet it at its region's port; an access in the scratchpad window uses none. -/
def State.regServe (s : State) (a : RegAcc) (write : Bool) (addr : BitVec 32) (data : Word) (others : List (List SpadReq)) : State :=
  match areaOf addr with
  | .ctl _ | .bitWord _ _ =>
    State.portRounds a write addr data others (a.rivals.length + 1) (Option.none :: a.rivals.map some) s
  | _ => s.regAct a write addr data others

/-- Address of a direct register: region 0 the module, 1 + c channel c. -/
def regAddr (region off : Nat) : BitVec 32 := BitVec.ofNat 32 (region * 2 ^ 24 + off)

/-- Address of the alias of a register bit (R421). -/
def aliasAddr (region off b : Nat) : BitVec 32 := BitVec.ofNat 32 (region * 2 ^ 24 + 0x800000 + (off / 4 * 32 + b) * 4)

/-- CONFIG_PARITY_MISMATCH: a configuration register's parity does not match (R418). -/
def execConfigParityMismatch (region : Fin 5) (indirect : Bool) (off : BitVec 24) (flip : Word) (s : State) : Out :=
  .next (s.parityFault region indirect off.toNat flip)

end Sys2Proof.Machine
end

