-- ==== Sys2Proof/Machine/RegRows.lean ====
section
/-! DEFINITION. The frames of VC2 in their order (R246, R403): register, mailbox (R404), bulk (R405), WRITE_DIRECT (R407) and
TIME_OF_DAY frames; and the register writes and reads that have a row of their own, each a frame of a host function to the
register that the row names, with the other bits of the register written back as they read. -/

namespace Sys2Proof.Machine

/-- Region of a channel. -/
def chRegion (c : Ch) : Nat := c.val + 1

/-! ## Mailbox, bulk and direct frames -/

/-- A channel does not serve logic-die frames (R31). -/
def State.chDown (s : State) (c : Ch) : Bool := (s.chan c).power == .off || (s.chan c).power == .wake

/-- Write bytes into a request buffer. -/
def Mailbox.put (b : Mailbox) (off : Nat) (l : List Byte) : Mailbox :=
  { b with buf := padTo (max b.buf.length (off + l.length)) (padTo off b.buf ++ l ++ b.buf.drop (off + l.length)) }

/-- The frame status of an MBX_WRITE (R404). -/
def State.mbxCheck (s : State) (hf : Hf) (c : Ch) (mbx offw lenw : Nat) : Nat :=
  if lenw = 0 ∨ 256 < 4 * (offw + lenw) then 8
  else if !s.mayMbx hf c mbx then 1
  else if s.chDown c then 3
  else if ((s.chan c).mgr.box mbx).state ≠ .empty then 7 else 0

/-- An MBX_WRITE acts: data go into a mailbox's request buffer (R404). A mailbox whose final response has left is EMPTY for it
(R411). -/
def State.runMbxWrite (s : State) (hf : Hf) (c : Ch) (rtag : BitVec 16) (mbx : Fin 16) (offw : BitVec 6) (lenw : BitVec 7)
    (data : List Word) : State :=
  let s := s.responseSent c mbx
  let bytes := (data.map (fun w => toBytes 4 w.toNat)).flatten
  let head := toBytes 8 (0x22 * 2 ^ 56 + hf.val * 2 ^ 53 + c.val * 2 ^ 51 + rtag.toNat * 2 ^ 32 + mbx.val * 2 ^ 28
    + offw.toNat * 2 ^ 22 + lenw.toNat * 2 ^ 15)
  let s := (s.takeFrame 2 (head ++ bytes)).1
  let st := s.mbxCheck hf c mbx offw.toNat lenw.toNat
  let s := if st ≠ 0 then s
    else s.modMgr c (fun m => { m with
      boxes := modAt mbx (fun b => b.put (4 * offw.toNat) (padTo (4 * lenw.toNat) bytes)) m.boxes })
  s.complete hf (chRegion c) st rtag 0x22 []

/-- The frame status of a bulk frame (R405, R428). -/
def State.bulkCheck (s : State) (hf : Hf) (c : Ch) (unitsM1 off64 : Nat) : Nat :=
  if windowSize < 64 * (off64 + unitsM1 + 1) then 8
  else if !(s.mayMbx hf c (2 * hf.val) || s.mayMbx hf c (2 * hf.val + 1)) then 1
  else if s.chDown c then 3 else 0

/-- The header of a bulk frame (Table 15.10). -/
def bulkHead (opc : Nat) (hf : Hf) (c : Ch) (rtag : BitVec 16) (unitsM1 : BitVec 4) (off64 : BitVec 19) : List Byte :=
  toBytes 8 (opc * 2 ^ 56 + hf.val * 2 ^ 53 + c.val * 2 ^ 51 + rtag.toNat * 2 ^ 32 + unitsM1.toNat * 2 ^ 28 + off64.toNat * 2 ^ 9)

/-- A BULK_WRITE acts: whole units go into the staging window with fresh checks (R253, R405). -/
def State.runBulkWrite (s : State) (hf : Hf) (c : Ch) (rtag : BitVec 16) (unitsM1 : BitVec 4) (off64 : BitVec 19)
    (data : List (BitVec 512)) : State :=
  let bytes := (data.map (fun u => toBytes 64 u.toNat)).flatten
  let s := (s.takeFrame 2 (bulkHead 0x23 hf c rtag unitsM1 off64 ++ bytes)).1
  let st := s.bulkCheck hf c unitsM1.toNat off64.toNat
  let s := if st ≠ 0 then s
    else (data.take (unitsM1.toNat + 1)).zipIdx.foldl
      (fun s u => s.modChan c (fun x => x.stageWrite hf (64 * (off64.toNat + u.2)) u.1)) s
  s.complete hf (chRegion c) st rtag 0x23 []

/-- A BULK_READ acts: the units of the window; an uncorrectable one is 64 zero bytes and gives ECC_ERR (R405). -/
def State.runBulkRead (s : State) (hf : Hf) (c : Ch) (rtag : BitVec 16) (unitsM1 : BitVec 4) (off64 : BitVec 19) : State :=
  let s := (s.takeFrame 2 (bulkHead 0x24 hf c rtag unitsM1 off64)).1
  let st := s.bulkCheck hf c unitsM1.toNat off64.toNat
  if st ≠ 0 then s.complete hf (chRegion c) st rtag 0x24 []
  else
    let us := (List.range (unitsM1.toNat + 1)).map (fun i => (s.chan c).stageRead hf (64 * (off64.toNat + i)))
    let bytes := (us.map (fun u => toBytes 64 ((u.getD 0).toNat))).flatten
    s.complete hf (chRegion c) (if us.any (·.isNone) then 9 else 0) rtag 0x24 bytes

/-- A WRITE_DIRECT acts: its items join the direct queue of a channel; those for a channel in OFF or WAKE are discarded with
their credits returned, and the frame is counted (R407). -/
def State.runWriteDirect (s : State) (hf : Hf) (c : Ch) (items : List (BitVec 256)) : State :=
  let n := items.length
  let head := toBytes 8 (0x25 * 2 ^ 56 + hf.val * 2 ^ 53 + c.val * 2 ^ 51 + (n - 1) * 2 ^ 27)
  let s := (s.takeFrame 2 (head ++ (items.map (fun i => toBytes 32 i.toNat)).flatten)).1
  if s.chDown c then
    (s.modChan c (fun x => { x with dwrCr := (x.dwrCr + n) % 65536 })).count (modR 0x1208) 1
  else
    s.modChan c (fun x => { x with
      direct := x.direct ++ items.map (fun i => ⟨hf, i, x.dwrFrames + 1⟩), dwrFrames := x.dwrFrames + 1, dwrOut := x.dwrOut - n })

/-! ## The order of VC2 (R246, R403) -/

/-- A frame cannot act yet: it needs a completion and their queue is full (R403); its indirect pair is BUSY (R424); or the
direct queue of 4,096 items has no room for its items. -/
def State.vc2Waits (s : State) : Vc2 → Bool
  | .reg a _ addr _ _ => !s.completionRoom || s.indWaits a.hf (regionOf addr) (areaOf addr)
  | .mbx .. | .bulkWrite .. | .bulkRead .. => !s.completionRoom
  | .direct _ c items => !s.chDown c && decide (4096 < (s.chan c).direct.length + items.length)
  | .timeOfDay .. => false

/-- A frame acts. -/
def State.runVc2 (s : State) : Vc2 → State
  | .reg a write addr data others => s.regServe a write addr data others
  | .mbx hf c rtag mbx offw lenw data => s.runMbxWrite hf c rtag mbx offw lenw data
  | .bulkWrite hf c rtag n off data => s.runBulkWrite hf c rtag n off data
  | .bulkRead hf c rtag n off => s.runBulkRead hf c rtag n off
  | .direct hf c items => s.runWriteDirect hf c items
  | .timeOfDay hf seconds => s.runTimeOfDay hf seconds

/-- The waiting frames act in order, until one cannot; those behind it wait with it. -/
def State.drainVc2 : Nat → State → State
  | 0, s => s
  | n + 1, s =>
    match s.vc2 with
    | [] => s
    | f :: rest => if s.vc2Waits f then s else State.drainVc2 n ({ s with vc2 := rest }.runVc2 f)

/-- All of them. -/
def State.serveVc2 (s : State) : State := State.drainVc2 s.vc2.length s

/-- A frame of VC2: it acts when no frame waits before it and it can, and waits otherwise. -/
def State.vc2Frame (s : State) (f : Vc2) : State :=
  let s := s.serveVc2
  if s.vc2.isEmpty && !s.vc2Waits f then s.runVc2 f else { s with vc2 := s.vc2 ++ [f] }

/-- A register frame. -/
def State.regFrame (s : State) (a : RegAcc) (write : Bool) (addr : BitVec 32) (data : Word) (others : List (List SpadReq) := []) :
    State :=
  s.vc2Frame (.reg a write addr data others)

/-- MBX_WRITE: data go into a mailbox's request buffer (R404). -/
def execMbxWrite (hf : Hf) (c : Ch) (rtag : BitVec 16) (mbx : Fin 16) (offw : BitVec 6) (lenw : BitVec 7) (data : List Word)
    (s : State) : Out := .next (s.vc2Frame (.mbx hf c rtag mbx offw lenw data))

/-- BULK_WRITE (R253, R405). -/
def execBulkWrite (hf : Hf) (c : Ch) (rtag : BitVec 16) (unitsM1 : BitVec 4) (off64 : BitVec 19) (data : List (BitVec 512))
    (s : State) : Out := .next (s.vc2Frame (.bulkWrite hf c rtag unitsM1 off64 data))

/-- BULK_READ (R405). -/
def execBulkRead (hf : Hf) (c : Ch) (rtag : BitVec 16) (unitsM1 : BitVec 4) (off64 : BitVec 19) (s : State) : Out :=
  .next (s.vc2Frame (.bulkRead hf c rtag unitsM1 off64))

/-- WRITE_DIRECT (R407). A frame for which the direct queue has no room waits. -/
def execWriteDirect (hf : Hf) (c : Ch) (items : List (BitVec 256)) (s : State) : Out := .next (s.vc2Frame (.direct hf c items))

/-- TIME_OF_DAY (R208, R408). -/
def execTimeOfDay (hf : Hf) (seconds : BitVec 48) (s : State) : Out := .next (s.vc2Frame (.timeOfDay hf seconds))

/-- HOST_EGRESS_CYCLE: the next host-link cycle of the egress arbiter (R450); then the frames of VC2 that waited act, as far as
they can (R403). `mem` is what the step found in the base die's memories (R465). -/
def execHostEgressCycle (mem : Fec) (s : State) : Out := .next (s.hostCycle mem).serveVc2

/-! ## Register frames and indirect accesses -/

/-- IND_ACCESS_DONE: the slow domain answers a read or applies a posted write (R424); without a target a read gives 0 and
a write is ignored (R425). A frame that waited for the pair goes on. -/
def execIndAccessDone (region : Fin 5) (requester : Fin 9) (s : State) : Out :=
  let p := s.pair region requester.val
  match p.flight with
  | Option.none => .next s
  | some f =>
    match indOwner region f.addr with
    | Option.none => .next ((s.indError region p 1).completeInd region f 0).serveVc2
    | some _ =>
      let s := s.setPair { p with flight := Option.none }
      if f.write then .next (s.land (.host f.acc.hf) region true f.addr f.data (~~~0) f.acc.hw).serveVc2
      else
        let r := s.readAs requester.val region true f.addr
        .next (r.2.completeInd region f r.1).serveVc2

/-- IND_TIMEOUT: the slow domain has not answered within 2 µs (R425). -/
def execIndTimeout (region : Fin 5) (requester : Fin 9) (s : State) : Out :=
  let p := s.pair region requester.val
  match p.flight with
  | Option.none => .next s
  | some f => .next (((s.atTime (f.at_ + usT 2)).indError region p 2).completeInd region f 0).serveVc2

/-- REGISTER_WRITE: a write frame to any register address. -/
def execRegisterWrite (a : RegAcc) (addr : BitVec 32) (data : Word) (s : State) : Out := .next (s.regFrame a true addr data)

/-- ALIAS_WRITE: a write frame to a bit-alias word; to any other address it is the register frame that it spells. -/
def execAliasWrite (a : RegAcc) (addr : BitVec 32) (data : Word) (s : State) : Out := .next (s.regFrame a true addr data)

/-- IND_DATA_READ: a read frame of IND_DATA. -/
def execIndDataRead (region : Fin 5) (a : RegAcc) (s : State) : Out :=
  .next (s.regFrame a false (regAddr region (indBase region + 4)) 0)

/-- IND_DATA_WRITE: a write frame of IND_DATA. -/
def execIndDataWrite (region : Fin 5) (a : RegAcc) (data : Word) (s : State) : Out :=
  .next (s.regFrame a true (regAddr region (indBase region + 4)) data)

/-- SPAD_WINDOW_ACCESS: a register frame in the scratchpad window (R442), among the accesses of the other masters (R440). -/
def execSpadWindowAccess (a : RegAcc) (addr : BitVec 32) (write : Bool) (data : SpadMeet) (s : State) : Out :=
  .next (s.regFrame a write addr data.data data.others)

/-! ## Register writes with a row of their own -/

/-- A write frame to a direct register. -/
def State.writeFrame (s : State) (a : RegAcc) (region off : Nat) (v : Word) : State := s.regFrame a true (regAddr region off) v

/-- A write frame that gives a field a value and writes the other bits of the register back as they read (R420). -/
def State.writeField (s : State) (a : RegAcc) (region off lo n v : Nat) : State :=
  s.writeFrame a region off (setFld (s.readReg region false off) lo n v)

/-- CH_STATE_REQ_ON: STATE_REQ is written ON (R27). -/
def execChStateReqOn (c : Ch) (a : RegAcc) (s : State) : Out := .next (s.writeField a (chRegion c) 4 1 2 1)
/-- CH_STATE_REQ_IDLE: STATE_REQ is written IDLE (R27). -/
def execChStateReqIdle (c : Ch) (a : RegAcc) (s : State) : Out := .next (s.writeField a (chRegion c) 4 1 2 2)
/-- CH_STATE_REQ_OFF: STATE_REQ is written OFF (R27). -/
def execChStateReqOff (c : Ch) (a : RegAcc) (s : State) : Out := .next (s.writeField a (chRegion c) 4 1 2 3)
/-- CH_STATE_REQ_CANCEL: STATE_REQ is written 0b00 (R28). -/
def execChStateReqCancel (c : Ch) (a : RegAcc) (s : State) : Out := .next (s.writeField a (chRegion c) 4 1 2 0)
/-- CH_ADMIT_EN_WRITE: ADMIT_EN is written (R26). -/
def execChAdmitEnWrite (c : Ch) (a : RegAcc) (en : Bool) (s : State) : Out := .next (s.writeField a (chRegion c) 4 0 1 (b2n en))
/-- PROFILE_ENABLE: PROF_CTRL.EN is written 1 (R119). -/
def execProfileEnable (c : Ch) (p : Fin 64) (a : RegAcc) (s : State) : Out :=
  .next (s.writeField a (chRegion c) (0x2000 + 4 * p.val) 0 1 1)
/-- PROFILE_DISABLE: PROF_CTRL.EN is written 0 (R119). -/
def execProfileDisable (c : Ch) (p : Fin 64) (a : RegAcc) (s : State) : Out :=
  .next (s.writeField a (chRegion c) (0x2000 + 4 * p.val) 0 1 0)
/-- FLOW_TABLE_ENABLE: FT_CTRL.EN is written 1 (R125). -/
def execFlowTableEnable (c : Ch) (t : Fin 16) (a : RegAcc) (s : State) : Out :=
  .next (s.writeField a (chRegion c) (0x4100 + 16 * t.val) 0 1 1)
/-- EPOCH_CMD_STAGE (R196). -/
def execEpochCmdStage (c : Ch) (a : RegAcc) (s : State) : Out := .next (s.writeField a (chRegion c) 0x5010 0 6 1)
/-- EPOCH_CMD_COMMIT (R196). -/
def execEpochCmdCommit (c : Ch) (a : RegAcc) (s : State) : Out := .next (s.writeField a (chRegion c) 0x5010 0 6 2)
/-- EPOCH_CMD_ARM (R205). -/
def execEpochCmdArm (c : Ch) (a : RegAcc) (s : State) : Out := .next (s.writeField a (chRegion c) 0x5010 0 6 4)
/-- EPOCH_CMD_DISARM (R196). -/
def execEpochCmdDisarm (c : Ch) (a : RegAcc) (s : State) : Out := .next (s.writeField a (chRegion c) 0x5010 0 6 8)
/-- EPOCH_CMD_END_SLACK (R199). -/
def execEpochCmdEndSlack (c : Ch) (a : RegAcc) (s : State) : Out := .next (s.writeField a (chRegion c) 0x5010 0 6 16)
/-- EPOCH_CMD_FREE (R196). -/
def execEpochCmdFree (c : Ch) (a : RegAcc) (s : State) : Out := .next (s.writeField a (chRegion c) 0x5010 0 6 32)
/-- TIME_CMD_SET (R210). -/
def execTimeCmdSet (a : RegAcc) (s : State) : Out := .next (s.writeField a 0 0x5020 0 2 1)
/-- TIME_CMD_INVALIDATE (R210). -/
def execTimeCmdInvalidate (a : RegAcc) (s : State) : Out := .next (s.writeField a 0 0x5020 0 2 2)
/-- TIME_SNAPSHOT_READ: a direct read of TIME_SEC_HI (R422). -/
def execTimeSnapshotRead (a : RegAcc) (s : State) : Out := .next (s.regFrame a false (regAddr 0 0x5008) 0)
/-- CASC_ENABLE: CASC_CTRL.EN is written (R218). -/
def execCascEnable (a : RegAcc) (en : Bool) (s : State) : Out := .next (s.writeField a 0 0x6000 0 1 (b2n en))
/-- CASC_BYPASS: CASC_CTRL.BYPASS is written (R238). -/
def execCascBypass (a : RegAcc) (on : Bool) (s : State) : Out := .next (s.writeField a 0 0x6000 1 1 (b2n on))
/-- MBX_DOORBELL (R245). -/
def execMbxDoorbell (c : Ch) (a : RegAcc) (bells : BitVec 16) (s : State) : Out :=
  .next (s.writeField a (chRegion c) 0xA000 0 16 bells.toNat)
/-- MGR_RESTART: MGR_CTRL.RESTART (R261). -/
def execMgrRestart (c : Ch) (a : RegAcc) (s : State) : Out := .next (s.writeField a (chRegion c) 0xA00C 0 1 1)
/-- CAL_CTRL_SWAP (R313). -/
def execCalCtrlSwap (c : Ch) (a : RegAcc) (s : State) : Out := .next (s.writeField a (chRegion c) 0x6800 0 1 1)
/-- LINK_ENABLE: LINK_CTRL.EN is written 1 (R385). -/
def execLinkEnable (a : RegAcc) (s : State) : Out := .next (s.writeField a 0 0x1000 0 1 1)
/-- LINK_DISABLE: LINK_CTRL.EN is written 0 (R387). -/
def execLinkDisable (a : RegAcc) (s : State) : Out := .next (s.writeField a 0 0x1000 0 1 0)
/-- LINK_RETRAIN: LINK_CTRL.RETRAIN (R386). -/
def execLinkRetrain (a : RegAcc) (s : State) : Out := .next (s.writeField a 0 0x1000 6 1 1)
/-- CTX_HWM_CLR: CTX_HWM.CLR (Table 06.6). -/
def execCtxHwmClr (c : Ch) (a : RegAcc) (s : State) : Out := .next (s.writeField a (chRegion c) 0x3004 31 1 1)
/-- EVT_CLR (R457). -/
def execEvtClr (region : Fin 5) (idx : Fin 15) (bits : Word) (a : RegAcc) (s : State) : Out :=
  .next (s.writeFrame a region ((if region.val = 0 then 0x4040 else 0xB040) + 4 * idx.val) bits)
/-- SPAD_HANDOVER_REQUEST: SPAD_BANK.OWNER_REQ is written by software, or by Oluek through its own port (R438, R439). -/
def execSpadHandoverRequest (c : Ch) (bank : Fin 16) (owner : BitVec 2) (manager : Bool) (a : RegAcc) (s : State) : Out :=
  let off := 0x9010 + 4 * bank.val
  if manager then
    .next (s.land .oluek (chRegion c) false off (setFld (s.readReg (chRegion c) false off) 0 2 owner.toNat) (~~~0) a.hw)
  else .next (s.writeField a (chRegion c) off 0 2 owner.toNat)
/-- MARCH_START: SPAD_MARCH_CTRL is written with START (R445). -/
def execMarchStart (c : Ch) (bank : Fin 16) (destructive : Bool) (pattern : BitVec 2) (a : RegAcc) (s : State) : Out :=
  let w := s.readReg (chRegion c) false 0x9050
  .next (s.writeFrame a (chRegion c) 0x9050
    (putFields w [(0, 1, 1), (4, 4, bank.val), (8, 1, b2n destructive), (9, 2, pattern.toNat)]))
/-- MOD_RESET: BOOT_CTRL.MOD_RESET (R492). -/
def execModReset (a : RegAcc) (s : State) : Out := .next (s.writeField a 0 0x800C 0 1 1)
/-- BOOT_UPDATE_START: BOOT_UPD_CTRL.START (R507). -/
def execBootUpdateStart (a : RegAcc) (s : State) : Out := .next (s.writeField a 0 0x8070 0 1 1)

end Sys2Proof.Machine
end

