-- ==== Sys2Proof/Machine/Cmd.lean ====
section
/-! DEFINITION. What every mailbox command shares (R265 to R270): its checks, its locks, the items it queues and journals,
and Oluek's record of tables and entries. A command row is one turn of Oluek on an executor: it goes on as far as it can;
a command that must wait for a lock, a write or an event leaves the rest to a later turn (log entry 15). -/

namespace Sys2Proof.Machine

/-! ## Checks (R265 to R267) -/

/-- The outcome of a check: none when it passes, else the status and DETAIL that end the command. -/
abbrev Chk := Option (Nat × Nat)
/-- A check that fails when `p` holds. -/
def chk (p : Bool) (st : Nat) (d : Nat := 0) : Chk := if p then some (st, d) else none
/-- The first failing check of a list (R267). -/
def firstChk (l : List Chk) : Chk := l.findSome? id
/-- Reserved bits of parameter byte `i` (R265). -/
def Exec.rsv (e : Exec) (i m : Nat) : Chk := chk ((e.par i 1 &&& m) != 0) stBadParam i
/-- `n` reserved parameter bytes. -/
def Exec.rsvBytes (e : Exec) (i n : Nat) : List Chk := (List.range n).map (fun k => e.rsv (i + k) 0xFF)
/-- PLEN is one of the values of Table 10.2. -/
def Exec.plenIn (e : Exec) (l : List Nat) (d : Nat := 0) : Chk := chk (!l.contains e.plen) stBadParam d
/-- OFFSET of the staging reference at parameter byte `i` (R266). -/
def Exec.stOff (e : Exec) (i : Nat) : Nat := e.par i 4
/-- LENGTH of it. -/
def Exec.stLen (e : Exec) (i : Nat) : Nat := e.par (i + 4) 4
/-- The checks of a staging reference (R252, R266). -/
def Exec.stageRef (e : Exec) (i : Nat) : List Chk :=
  [chk (e.stOff i % 64 != 0) stBadParam i, chk (!inWindow (e.stOff i) (e.stLen i)) stBadParam (i + 4)]
/-- The host function that owns the command's mailbox. -/
def Exec.host (e : Exec) : Hf := Fin.ofNat 8 e.hf
/-- Right T for a table (R269). -/
def State.rightT (s : State) (c : Ch) (e : Exec) (t : Nat) : Chk := chk (!s.mayWrite e.host c t) stDenied
/-- Right S. -/
def State.rightS (s : State) (c : Ch) (e : Exec) (t : Nat) : Chk :=
  chk (!(s.mayWrite e.host c t || s.maySearch e.host c t)) stDenied
/-- Right F. -/
def State.rightF (s : State) (c : Ch) (e : Exec) (t : Nat) : Chk := chk (!s.mayFlow e.host c t) stDenied
/-- Right C, the channel right. -/
def State.rightC (s : State) (c : Ch) (e : Exec) : Chk := chk (!s.mayReg e.host (c.val + 1) 0 true) stDenied
/-- A command marked "no" in the IDLE column runs in ON only. -/
def State.onlyOn (s : State) (c : Ch) : Chk := chk ((s.chan c).power != .on) stBusy

/-- The checks of a command: whether it journals, and its checks before and after the journal's. -/
abbrev Checks := Bool × List Chk × List Chk

/-- The checks of a command in the order of R267: those up to step 7, then the journal's room for a command that journals
(R504), then the rest. -/
def State.gate (s : State) (c : Ch) (x : Nat) (q : Checks) (k : State) : State :=
  match firstChk q.2.1 with
  | some r => s.finish c x r.1 r.2
  | none =>
    if q.1 && (s.flash c).full then (s.evM 134).finish c x stBusy
    else match firstChk q.2.2 with
      | some r => s.finish c x r.1 r.2
      | none => k

/-- A turn of a command with code `code` on executor `x`: nothing unless the executor runs it for a mailbox and it may go on; its
response, once it is known, leaves when it may (R504). -/
def State.command (s : State) (c : Ch) (x : Fin 8) (code : Nat) (body : Exec → State → State) : State :=
  let m := (s.chan c).mgr
  match m.exec? x with
  | none => s
  | some e =>
    if e.code != code || e.mbx == 16 || !m.up || e.broken.isSome || !e.want.isEmpty then s
    else if e.resp.isSome then s.tryRespond c x
    else body e (s.modMgr c (fun m => { m with served := s.now }))

/-- Store where a command has come. -/
def State.setPhase (s : State) (c : Ch) (x : Nat) (phase : Nat) (nums : List Nat) : State :=
  match (s.chan c).mgr.exec? x with
  | none => s
  | some e => s.setExec c x { e with phase := phase, nums := nums, since := s.now }

/-! ## Locks of a command (R255 to R259) -/

/-- A holder has a lock. -/
def State.holds (s : State) (c : Ch) (x key : Nat) : Bool := ((s.chan c).mgr.keysOf x).contains key
/-- Keys in ascending order. -/
def sortKeys (l : List Nat) : List Nat := l.foldl (fun a k => insertNat k a) []
/-- A command asks for keys; LOCK_GRANT grants them one by one. -/
def State.askLocks (s : State) (c : Ch) (x : Nat) (keys : List Nat) : State :=
  match (s.chan c).mgr.exec? x with
  | none => s
  | some e => s.setExec c x { e with want := sortKeys keys }
/-- The command holds all of some locks, or it asks for the missing ones, in ascending order, and waits. -/
def State.lockAll (s : State) (c : Ch) (x : Nat) (keys : List Nat) (k : State) : State :=
  let missing := keys.filter (fun q => !s.holds c x q)
  if missing.isEmpty then k else s.askLocks c x missing
/-- Some item of an executor still waits in the manager queue. -/
def State.writing (s : State) (c : Ch) (x : Nat) : Bool := (s.chan c).mgr.items.any (fun i => i.owner == x)
/-- The command holds the locks of its present turn; else it waits for its writes under the former ones, gives those up,
and asks for these (Table 10.2, "in turn"). None when it may go on. -/
def State.lockTurn (s : State) (c : Ch) (x : Nat) (keys : List Nat) : Option State :=
  if keys.all (fun q => s.holds c x q) then none
  else if s.writing c x then some s
  else some ((s.modMgr c (fun m => m.release x)).askLocks c x keys)

/-! ## Items and the journal (R502 to R504) -/

/-- Journal items of a command; its final response may have to wait for the record that holds the last one. -/
def State.journalBy (s : State) (c : Ch) (x : Nat) (its : List (BitVec 256)) : State :=
  if its.isEmpty then s
  else
    let s := s.journal c its
    match (s.chan c).mgr.exec? x with
    | none => s
    | some e => s.setExec c x { e with jpos := some (s.flash c).lastPos }

/-- Oluek writes the register that a REG item names. Block 32's map entry is written by the repair engine (R48, R306); bit
1 of byte 1 names the module region, for REL_MIRROR (log entry 16). -/
def State.applyReg (s : State) (c : Ch) (it : BitVec 256) : State :=
  let off := itemField it 8 4
  let v : Word := BitVec.ofNat 32 (itemField it 12 4)
  match itemField it 1 1 % 4 with
  | 0 => s.landAll .oluek (c.val + 1) false off v
  | 1 =>
    match blkIdx off 0x100000 with
    | some (b, 32) => State.blockEvents s (s.setReg (blkR c b 32) ((s.reg (blkR c b 32) &&& ~~~0x7FF) ||| (v &&& 0x7FF))) c
    | _ => s.landAll .oluek (c.val + 1) true off v
  | _ => if inArr off 0x2010 4 4 then s.landAll .oluek 0 false off v else s

/-- The state of an epoch slot from its code. -/
def EpState.ofCode (n : Nat) : EpState := match n with | 1 => .staged | 2 => .current | 3 => .slack | 4 => .retiring | _ => .free

/-- Oluek restores the epoch state that an EPOCH item holds. -/
def State.applyEpoch (s : State) (c : Ch) (it : BitVec 256) : State :=
  let s := (s.setField (chR c 0x5004) 0 16 (itemField it 8 2)).setField (chR c 0x5008) 0 16 (itemField it 10 2)
  s.modEp c (fun e => { e with
    st0 := EpState.ofCode (itemField it 12 1), st1 := EpState.ofCode (itemField it 13 1), armed := false, commitAt := none })

/-- Register and epoch items take effect as they reach the front of the manager queue: they need no slot. -/
def State.drainAux (c : Ch) : Nat → State → State
  | 0, s => s
  | n + 1, s =>
    match (s.chan c).mgr.items with
    | [] => s
    | m :: rest =>
      if itemType m.item < 16 then s
      else
        let s := s.modMgr c (fun g => { g with items := rest })
        State.drainAux c n (if itemType m.item = 16 then s.applyReg c m.item else s.applyEpoch c m.item)

/-- Take every such item off the front. -/
def State.drain (s : State) (c : Ch) : State := State.drainAux c (s.chan c).mgr.items.length s

/-- Items join the manager queue. -/
def State.queueItems (s : State) (c : Ch) (owner : Nat) (its : List (BitVec 256)) : State :=
  (s.modMgr c (fun m => { m with items := m.items ++ its.map (fun i => ⟨owner, i⟩) })).drain c

/-- Items of a command join the manager queue and the journal. -/
def State.enqueue (s : State) (c : Ch) (x : Nat) (its : List (BitVec 256)) : State :=
  (s.journalBy c x (its.map bareItem)).queueItems c x its

/-- Oluek writes a register at once, and journals it. -/
def State.oluekReg (s : State) (c : Ch) (x : Nat) (ind : Bool) (off : Nat) (v : Word) : State :=
  let it := regItem ind off v
  (s.applyReg c it).journalBy c x [it]

/-- The EPOCH item of a channel's present state (R502). -/
def State.epochItem (s : State) (c : Ch) : BitVec 256 :=
  BitVec.ofNat 256 (ofBytes ([0x11] ++ toBytes 7 0 ++ toBytes 2 (s.epochNum c 0) ++ toBytes 2 (s.epochNum c 1)
    ++ toBytes 1 (s.chan c).ep.st0.code ++ toBytes 1 (s.chan c).ep.st1.code ++ toBytes 1 (s.chan c).curSlot ++ toBytes 17 0))

/-! ## Oluek's record of tables (R66, R270, R279 to R281) -/

/-- No record. -/
def TableRec.none_ : TableRec := ⟨0, false, 0, 0, []⟩
/-- The record of a table. -/
def Mgr.table? (m : Mgr) (t : Nat) : Option TableRec := (m.tables.find? (fun p => p.1 == t)).map (·.2)
/-- Store it. -/
def State.setTable (s : State) (c : Ch) (t : Nat) (r : TableRec) : State :=
  s.modMgr c (fun m => { m with tables := sset (fun _ => TableRec.none_) m.tables t r })
/-- Indirect address of a block's map entry. -/
def blkOff (blk : Nat) : Nat := 0x100000 + 0x100 * (blk / 33) + 4 * (blk % 33)
/-- The blocks of a job: its target counts for the source's table from step 2 to the fence (Table 13.1). -/
def Job.extra (j : Option Job) (blocks : List Nat) : List Nat :=
  match j with
  | some k => if 2 ≤ k.step ∧ blocks.contains k.src then [k.dst] else []
  | none => []
/-- The blocks that the map will show for a table once the queued releases are written. -/
def State.mappedBlocks (s : State) (c : Ch) (t : Nat) : List Nat :=
  let gone := (s.chan c).mgr.items.filterMap (fun i =>
    if itemType i.item = 16 ∧ itemField i.item 1 1 = 1 ∧ itemField i.item 12 4 % 2 = 0 then some (itemField i.item 8 4) else none)
  ((s.tableBlocks c t).map (fun q => q.1 * 33 + q.2.1)).filter (fun b =>
    !gone.contains (blkOff b) && !(s.chan c).mgr.freeing.contains (b, true))
/-- The registers of a table agree with Oluek's record of it (R66). -/
def State.recordOk (s : State) (c : Ch) (t : Nat) (r : TableRec) : Bool :=
  let w := s.reg (tblR c t)
  let m := (s.chan c).mgr
  let blocks := r.blocks ++ Job.extra m.mig r.blocks ++ Job.extra m.rep r.blocks
  wbit w 0 && fld w 1 2 == r.width && fld w 3 4 == r.groups && sortKeys (s.mappedBlocks c t) == sortKeys blocks
    && blocks.all (fun b => bmWidth (s.reg (blkR c (b / 33) (b % 33))) == r.width)
/-- The checks of step 6 for a ternary table. -/
def State.tableChk (s : State) (c : Ch) (t : Nat) : Chk :=
  match (s.chan c).mgr.table? t with
  | none => some (stBadTable, 0)
  | some r => chk (!s.recordOk c t r) stFault
/-- A table of Oluek's record that differs from its registers (R66). -/
def State.recordBad (s : State) (c : Ch) (t : Nat) : Bool :=
  match (s.chan c).mgr.table? t with
  | none => false
  | some r => !s.recordOk c t r
/-- The record of a table that has passed the checks. -/
def State.tableOf (s : State) (c : Ch) (t : Nat) : TableRec := ((s.chan c).mgr.table? t).getD TableRec.none_

/-- A block that an engine job or the return of one to the free state still occupies (Table 13.1). -/
def Mgr.engaged (m : Mgr) (blk : Nat) : Bool :=
  (match m.mig with | some j => j.dst == blk | none => false) || (match m.rep with | some j => j.dst == blk | none => false)
    || m.freeing.any (fun p => p.1 == blk)
/-- The block is free: unallocated and in the free state. -/
def State.blkFree (s : State) (c : Ch) (blk : Nat) : Bool :=
  !s.bit (blkR c (blk / 33) (blk % 33)) 0 && !(s.chan c).mgr.engaged blk
/-- The free blocks for a table of some groups, in the order of R280. -/
def State.freeBlocks (s : State) (c : Ch) (groups width : Nat) (range : Bool) : List Nat :=
  let banks := (List.range 36).filter (fun b => groups.testBit (b / 9))
  let span (lo n : Nat) : List Nat := (banks.map (fun b => (List.range n).map (fun k => b * 33 + lo + k))).flatten
  let order := if range then span 24 8 ++ span 0 24 else span 0 24 ++ (if 1 ≤ width then span 24 8 else [])
  order.filter (fun b => s.blkFree c b)

/-- Enabled profiles. -/
def State.liveProfiles (s : State) (c : Ch) : List Nat := (List.range 64).filter (fun p => s.bit (profR c p) 0)
/-- An enabled profile would have two lookups in one bank group if table `t` took the groups `g` (R279, R47). -/
def State.groupClash (s : State) (c : Ch) (t g : Nat) : Option Nat :=
  (s.liveProfiles c).find? (fun p =>
    let b := s.profBody c p
    let tabs := (List.range (min (pbNlook b) 4)).map (ldTable b)
    let grp (u : Nat) : Nat := if u = t then g else s.field (tblR c u) 3 4
    tabs.contains t && (List.range tabs.length).any (fun i => (List.range i).any (fun j =>
      ((grp (tabs.getD i 0)) &&& (grp (tabs.getD j 0))) != 0)))

/-! ## Oluek's record of entries (R270, R273) -/

/-- An entry's content: its words, its range segments, its AD and its PRIORITY. -/
structure Ent where
  words : List (BitVec 80 × BitVec 80)
  segs : List (RangeUnit × RangeUnit)
  ad : BitVec 64
  prio : Nat
deriving DecidableEq, Repr

/-- Some range unit is enabled. -/
def Ent.ranged (e : Ent) : Bool := e.segs.any (fun u => u.1.en || u.2.en)
/-- Range units stand in the block of a word (R49, R51). -/
def hasUnits (width key : Nat) : Bool := decide (1 ≤ width) && decide (24 ≤ key / 4096 % 33)
/-- The AD of an entry (R81). -/
def ArrayMem.adOf (a : ArrayMem) (width key : Nat) : BitVec 64 := adOfPair width key (a.pairAd (key / 2))
/-- The entry whose first word is `key`. -/
def ArrayMem.ent (a : ArrayMem) (width key : Nat) : Ent :=
  { words := (List.range (widthWords width)).map (fun j => ((a.word (key + j)).data, (a.word (key + j)).mask))
    segs := (List.range (widthWords width / 2)).map (fun j => ((a.unit3 (key + 2 * j)).eff, (a.unit3 (key + 2 * j + 1)).eff))
    ad := a.adOf width key, prio := ecfPrio (a.word key).ecf }
/-- The first words of a table's VALID entries, in ascending INDEX. -/
def ArrayMem.entries (a : ArrayMem) (r : TableRec) : List Nat :=
  (a.words.filter (fun p => p.1 % widthWords r.width == 0 && r.blocks.contains (p.1 / 4096) && ecfValid p.2.ecf)).map (·.1)
/-- The entry is live in a slot. -/
def ArrayMem.live (a : ArrayMem) (slot key : Nat) : Bool := ecfE (a.word key).ecf slot
/-- The entries that carry an AD key and are live in some slot. -/
def ArrayMem.carriers (a : ArrayMem) (r : TableRec) (key : BitVec 64) : List Nat :=
  (a.entries r).filter (fun k => (a.live 0 k || a.live 1 k) && (a.adOf r.width k &&& r.mask) == key)
/-- The lowest free entry of a block. -/
def ArrayMem.freeIn (a : ArrayMem) (width blk : Nat) : Option Nat :=
  ((List.range (4096 / widthWords width)).find? (fun e => !ecfValid (a.word (blk * 4096 + e * widthWords width)).ecf)).map
    (fun e => blk * 4096 + e * widthWords width)
/-- A range block (R49). -/
def isRangeBlk (blk : Nat) : Bool := decide (24 ≤ blk % 33) && decide (blk % 33 ≤ 31)
/-- The lowest free eligible entry among some blocks (R273). -/
def ArrayMem.freeEntry (a : ArrayMem) (width : Nat) (blocks : List Nat) (ranged : Bool) : Option Nat :=
  let l := sortKeys blocks
  let inR := (l.filter isRangeBlk).findSome? (a.freeIn width)
  if ranged then inR else (match (l.filter (fun b => !isRangeBlk b)).findSome? (a.freeIn width) with | some k => some k | none => inR)
/-- INDEX of a word, as DETAIL holds it (Table 03.1). -/
def State.indexOf (s : State) (c : Ch) (key : Nat) : Nat :=
  (globalIndex s.casc.pos c (key / 4096 / 33) (key / 4096 % 33) (key % 4096)).toNat

/-! ## Items for entries (R273, R275) -/

/-- A record for the word `key`. -/
def keyItem (ty t key : Nat) (payload : List Byte) : BitVec 256 := mkItem ty t (key / 4096 / 33) (key / 4096 % 33) (key % 4096) payload
/-- An ECF item. -/
def ecfItem (t key : Nat) (ecf : BitVec 24) : BitVec 256 := keyItem 6 t key (toBytes 3 ecf.toNat)
/-- The AD item of an entry. At width 80 it writes one half, beside what its WRITE slot finds in the other (R83); the pair that it
carries for the journal is the planned one. -/
def ArrayMem.adItem (a : ArrayMem) (t width key : Nat) (ad : BitVec 64) : BitVec 256 :=
  let half := if width ≠ 0 then 0 else 1 + key % 2
  let v := a.mergeAd (key / 2) half (if half = 2 then ad <<< 32 else ad)
  halfItem half (keyItem 3 t (key - key % 2) (toBytes 8 v.toNat))
/-- The items that write an entry, in the order of R273. -/
def ArrayMem.putItems (a : ArrayMem) (t width key : Nat) (e : Ent) (e0 e1 : Bool) : List (BitVec 256) :=
  let img (w : BitVec 80 × BitVec 80) (ecf : BitVec 24) : List Byte := wordImage (mkWord w.1 w.2 ecf)
  let words := e.words.zipIdx.map (fun p => (p.2, keyItem 1 t (key + p.2) (img p.1
    (if p.2 = 0 then mkEcf true e0 e1 e.prio else mkEcf true false false 0))))
  [a.adItem t width key e.ad] ++ (words.filter (fun p => p.1 != 0)).map (·.2)
    ++ (if hasUnits width key then e.segs.zipIdx.map (fun p => keyItem 2 t (key + 2 * p.2) (rangeImage p.1.1 p.1.2)) else [])
    ++ (words.filter (fun p => p.1 == 0)).map (·.2)
/-- A disabled segment. -/
def deadUnit : RangeUnit := ⟨0, 0, 0, false⟩
/-- The items that free an entry, in the order of R275. -/
def ArrayMem.dropItems (a : ArrayMem) (t width key : Nat) : List (BitVec 256) :=
  (List.range (widthWords width)).map (fun j => ecfItem t (key + j) 0)
    ++ (if hasUnits width key then (List.range (widthWords width / 2)).map (fun j => keyItem 2 t (key + 2 * j) (rangeImage deadUnit deadUnit))
        else [])
    ++ [a.adItem t width key 0]
/-- The items that return a block to the free state of R281: for every word that is VALID or poisoned, every enabled
segment and every AD pair that is not 0. A poisoned word is written whole (R328). -/
def ArrayMem.freeBlkItems (a : ArrayMem) (t blk : Nat) : List (BitVec 256) :=
  let here (k : Nat) : Bool := k / 4096 == blk
  ((a.words.filter (fun p => here p.1 && (ecfValid p.2.ecf || p.2.poison))).map (fun p =>
      if p.2.poison then keyItem 1 t p.1 (wordImage emptyWord) else ecfItem t p.1 0))
    ++ (((a.units.filter (fun p => here p.1 && p.2.eff.en)).map (fun p => p.1 - p.1 % 2)).dedup.map (fun k =>
        keyItem 2 t k (rangeImage deadUnit deadUnit)))
    ++ ((a.ads.filter (fun p => here (2 * p.1) && a.pairAd p.1 != 0)).map (fun p => keyItem 3 t (2 * p.1) (toBytes 8 0)))

/-- An ECF with the epoch bit of a slot changed. -/
def ecfSetE (e : BitVec 24) (slot : Nat) (v : Bool) : BitVec 24 :=
  let m : BitVec 24 := BitVec.ofNat 24 (2 ^ (1 + slot))
  if v then e ||| m else e &&& ~~~m

/-! ## Which slots a change reaches (Table 10.3) -/

/-- How Oluek must remember a change: not at all, for an abort or commit, or for the retire sweep. -/
inductive Track
  | no | staged | retire
deriving DecidableEq, Repr

/-- The slots that a change of the rules with an AD key reaches, and how it is remembered; none: EPOCH_STATE. -/
def State.reach (s : State) (c : Ch) (a : ArrayMem) (r : TableRec) (target : Nat) (key : BitVec 64) : Option (List Nat × Track) :=
  let x := s.chan c
  let cur := x.curSlot
  let oth := x.othSlot
  match target, x.othState with
  | 1, .staged => some ([oth], .staged)
  | 1, _ => none
  | _, .free => some ([cur, oth], .no)
  | _, .staged =>
    if (a.carriers r key).any (fun k => !(a.live 0 k && a.live 1 k)) then none else some ([cur, oth], .no)
  | _, _ => some ([cur], .retire)

/-- Oluek remembers changed entries. -/
def State.track (s : State) (c : Ch) (tr : Track) (keys : List Nat) : State :=
  s.modEp c (fun e => match tr with
    | .no => e
    | .staged => { e with stagedWork := keys.foldl (fun l k => insertNat k l) e.stagedWork }
    | .retire => { e with retireWork := keys.foldl (fun l k => insertNat k l) e.retireWork })
/-- Entries that exist no more are not changed entries. -/
def State.untrack (s : State) (c : Ch) (gone : Nat → Bool) : State :=
  s.modEp c (fun e => { e with stagedWork := e.stagedWork.filter (fun k => !gone k), retireWork := e.retireWork.filter (fun k => !gone k) })

/-- An entry leaves some slots: it is freed when it is live in no other, else only their epoch bits clear (R275). -/
def State.dropFrom (s : State) (c : Ch) (x t : Nat) (r : TableRec) (tr : Track) (slots : List Nat) (key : Nat) : State :=
  let a := s.planned c
  if [0, 1].any (fun i => a.live i key && !slots.contains i) then
    let e := slots.foldl (fun e i => ecfSetE e i false) (a.word key).ecf
    (s.enqueue c x [ecfItem t key e]).track c tr [key]
  else (s.enqueue c x (a.dropItems t r.width key)).untrack c (fun k => k == key)

end Sys2Proof.Machine
end

