-- ==== Sys2Proof/Machine/CmdRules.lean ====
section
/-! DEFINITION. The rule commands (R271 to R278). -/

namespace Sys2Proof.Machine

/-! ## The RULE_INSERT parameter block -/

/-- Words per entry that a PLEN of RULE_INSERT stands for. -/
def insertWords (plen : Nat) : Nat := if plen = 36 then 1 else if plen = 68 then 2 else if plen = 120 then 4 else 8
/-- PLEN of RULE_INSERT at `n` words per entry. -/
def insertPlen (n : Nat) : Nat := if n = 1 then 36 else 16 + 26 * n
/-- The entry that a parameter block of `n` words per entry describes. -/
def entOf (p : List Byte) (n : Nat) : Ent :=
  { words := (List.range n).map (fun j => (BitVec.ofNat 80 (bytesAt p (16 + 20 * j) 10), BitVec.ofNat 80 (bytesAt p (26 + 20 * j) 10)))
    segs := (List.range (n / 2)).map (fun j => unitsOfImage ((p.drop (16 + 20 * n + 12 * j)).take 12))
    ad := BitVec.ofNat 64 (bytesAt p 8 8), prio := bytesAt p 2 3 % 2 ^ 20 }
/-- The form of a parameter block: TARGET, reserved bits, R34 and the AD of an 80-bit entry (R265, R271, R272). -/
def entChk (p : List Byte) (n : Nat) : Chk :=
  let zero (i m : Nat) : Chk := chk ((bytesAt p i 1 &&& m) != 0) stBadParam i
  let e := entOf p n
  let bad := e.words.zipIdx.find? (fun w => (w.1.1 &&& ~~~w.1.2) != 0)
  let seg := 16 + 20 * n
  firstChk ([chk (2 ≤ bytesAt p 1 1) stBadParam 1, zero 2 0xF0, zero 5 0xFF, zero 6 0xFF, zero 7 0xFF,
      bad.bind (fun w => some (stBadParam, w.2)), chk (n == 1 && bytesAt p 8 4 != 0) stBadParam 8]
    ++ ((List.range (n / 2)).map (fun j => [zero (seg + 12 * j + 8) 0x88, zero (seg + 12 * j + 9) 0xFF, zero (seg + 12 * j + 10) 0xFF,
        zero (seg + 12 * j + 11) 0xFF])).flatten)

/-! ## One insert (R272, R273) -/

/-- What an attempt to insert gives. -/
inductive Ins
  | wait (s : State)
  | fail (status detail : Nat)
  | done (s : State) (index : Nat)

/-- Insert an entry into a table, in the slots that TARGET reaches. -/
def State.insertOne (s : State) (c : Ch) (x t : Nat) (target : Nat) (e : Ent) : Ins :=
  let r := s.tableOf c t
  let a := s.planned c
  let key := e.ad &&& r.mask
  match s.reach c a r target key with
  | none => .fail stEpoch 0
  | some (slots, tr) =>
    match (a.carriers r key).find? (fun k => slots.any (fun i => a.live i k)) with
    | some k => .fail stExists (s.indexOf c k)
    | none =>
      match a.freeEntry r.width r.blocks e.ranged with
      | none => .fail stNoSpace 0
      | some k =>
        match s.lockTurn c x [k / 4096] with
        | some s => .wait s
        | none =>
          let s := s.enqueue c x (a.putItems t r.width k e (slots.contains 0) (slots.contains 1))
          .done (s.track c tr [k]) (s.indexOf c k)

/-- The checks of RULE_INSERT. -/
def State.ruleInsertChecks (s : State) (c : Ch) (e : Exec) : Checks :=
  let t := e.par 0 1
  (true,
    [e.plenIn [36, 68, 120, 224] 4, entChk (e.req.drop 16) (insertWords e.plen), s.rightT c e t, s.tableChk c t,
      chk (e.plen != insertPlen (widthWords (s.tableOf c t).width)) stBadParam 4, s.onlyOn c],
    [])

/-- RULE_INSERT: the checks of R267 and R272, then one insert (R273). -/
def execRuleInsert (c : Ch) (x : Fin 8) (s : State) : Out := .next (s.command c x 0x10 fun e s =>
  let p := e.req.drop 16
  s.gate c x (s.ruleInsertChecks c e)
    (match s.insertOne c x (e.par 0 1) (e.par 1 1 % 4) (entOf p (insertWords e.plen)) with
      | .wait s => s
      | .fail st d => s.finish c x st d
      | .done s i => s.finish c x stOK i))

/-! ## Delete and modify (R274 to R276) -/

/-- The form shared by the commands that name a rule by its AD key. -/
def Exec.keyForm (e : Exec) : List Chk := [chk (2 ≤ e.par 1 1) stBadParam 1] ++ e.rsvBytes 2 6

/-- The slots that a delete or modify command reaches: its AD key, masked by the table's ADKEY_MASK. -/
def State.keyWay (s : State) (c : Ch) (e : Exec) : Option (List Nat × Track) :=
  let r := s.tableOf c (e.par 0 1)
  s.reach c (s.planned c) r (e.par 1 1 % 4) (BitVec.ofNat 64 (e.par 8 8) &&& r.mask)
/-- The checks of RULE_DELETE. -/
def State.ruleDeleteChecks (s : State) (c : Ch) (e : Exec) : Checks :=
  let t := e.par 0 1
  (true, [e.plenIn [16]] ++ e.keyForm ++ [s.rightT c e t, s.tableChk c t, s.onlyOn c], [chk (s.keyWay c e).isNone stEpoch])

/-- RULE_DELETE: the entries that carry the key leave the slots that the change reaches (R274, R275). -/
def execRuleDelete (c : Ch) (x : Fin 8) (s : State) : Out := .next (s.command c x 0x11 fun e s =>
  let t := e.par 0 1
  let r := s.tableOf c t
  let a := s.planned c
  let key : BitVec 64 := BitVec.ofNat 64 (e.par 8 8) &&& r.mask
  s.gate c x (s.ruleDeleteChecks c e)
    (match s.keyWay c e with
      | none => s
      | some (slots, tr) =>
        let ks := (a.carriers r key).filter (fun k => slots.any (fun i => a.live i k))
        match ks with
        | [] => s.finish c x stNotFound
        | k :: _ =>
          s.lockAll c x ((ks.map (· / 4096)).dedup)
            ((ks.foldl (fun s k => s.dropFrom c x t r tr slots k) s).finish c x stOK (s.indexOf c k))))

/-- The checks of RULE_MODIFY_AD. -/
def State.ruleModifyChecks (s : State) (c : Ch) (e : Exec) : Checks :=
  let t := e.par 0 1
  let r := s.tableOf c t
  let key : BitVec 64 := BitVec.ofNat 64 (e.par 8 8) &&& r.mask
  let ad : BitVec 64 := BitVec.ofNat 64 (e.par 16 8)
  (true,
    [e.plenIn [24]] ++ e.keyForm
      ++ [chk (r != TableRec.none_ && ((ad &&& r.mask) != key || (r.width == 0 && e.par 16 4 != 0))) stBadParam 16,
        s.rightT c e t, s.tableChk c t, s.onlyOn c],
    [chk (s.keyWay c e).isNone stEpoch])

/-- RULE_MODIFY_AD: one pair write when the entry is live only where the change reaches, else a copy with the new AD
(R274, R276). -/
def execRuleModifyAd (c : Ch) (x : Fin 8) (s : State) : Out := .next (s.command c x 0x12 fun e s =>
  let t := e.par 0 1
  let r := s.tableOf c t
  let a := s.planned c
  let key : BitVec 64 := BitVec.ofNat 64 (e.par 8 8) &&& r.mask
  let ad : BitVec 64 := BitVec.ofNat 64 (e.par 16 8)
  s.gate c x (s.ruleModifyChecks c e)
    (match s.keyWay c e with
      | none => s
      | some (slots, tr) =>
        match (a.carriers r key).find? (fun k => slots.any (fun i => a.live i k)) with
        | none => s.finish c x stNotFound
        | some k =>
          if [0, 1].all (fun i => !a.live i k || slots.contains i) then
            s.lockAll c x [k / 4096] ((s.enqueue c x [a.adItem t r.width k ad]).finish c x stOK (s.indexOf c k))
          else
            let old := a.ent r.width k
            match a.freeEntry r.width r.blocks old.ranged with
            | none => s.finish c x stNoSpace
            | some k' =>
              s.lockAll c x ([k / 4096, k' / 4096].dedup)
                (let on (i : Nat) : Bool := slots.contains i && a.live i k
                 let s := s.enqueue c x (a.putItems t r.width k' { old with ad := ad } (on 0) (on 1))
                 let s := (s.track c tr [k']).dropFrom c x t r tr slots k
                 s.finish c x stOK (s.indexOf c k'))))

/-! ## RULE_READ (R277) -/

/-- Bytes of an entry record at a width. -/
def recordSize (width : Nat) : Nat := 64 * (width + 1)
/-- The entry record of R277. -/
def State.entryRecord (s : State) (c : Ch) (a : ArrayMem) (width key : Nat) : List Byte :=
  let n := widthWords width
  let segs := (List.range (n / 2)).map (fun j => rangeImage (a.unit3 (key + 2 * j)).eff (a.unit3 (key + 2 * j + 1)).eff)
  padTo (recordSize width) (toBytes 4 (s.indexOf c key) ++ toBytes 4 0
    ++ ((List.range n).map (fun j => wordImage (a.word (key + j)))).flatten ++ segs.flatten
    ++ toBytes 8 (a.adOf width key).toNat)

/-- The checks of RULE_READ. -/
def State.ruleReadChecks (s : State) (c : Ch) (e : Exec) : Checks :=
  let t := e.par 0 1
  let scan := e.par 1 1 % 2 = 1
  (false,
    [e.plenIn [24], e.rsv 1 0xFE] ++ e.rsvBytes 2 6 ++ (if scan then e.rsvBytes 12 4 else []) ++ e.stageRef 16
      ++ [s.rightS c e t, s.tableChk c t, chk (decide scan && decide (e.stLen 16 < recordSize (s.tableOf c t).width)) stBadParam 16],
    [])

/-- RULE_READ: the entries of a key, or a scan from CURSOR (R277). -/
def execRuleRead (c : Ch) (x : Fin 8) (s : State) : Out := .next (s.command c x 0x13 fun e s =>
  let t := e.par 0 1
  let scan := e.par 1 1 % 2 = 1
  let r := s.tableOf c t
  let a := s.planned c
  let size := recordSize r.width
  let off := e.stOff 16
  let len := e.stLen 16
  let key : BitVec 64 := BitVec.ofNat 64 (e.par 8 8) &&& r.mask
  let all := if scan then (a.entries r).filter (fun k => decide (e.par 8 4 ≤ s.indexOf c k)) else a.carriers r key
  let put (ks : List Nat) : State := s.modChan c (fun q => q.stagePutBytes e.hf off ((ks.map (s.entryRecord c a r.width)).flatten))
  s.gate c x (s.ruleReadChecks c e)
    (if scan then
      let ks := all.take (len / size)
      let next := match (all.drop (len / size)) with | [] => 0xFFFFFFFF | k :: _ => s.indexOf c k
      (put ks).finish c x stOK ks.length (toBytes 4 next)
    else if all = [] then s.finish c x stNotFound
    else if len < size * all.length then s.finish c x stBadParam 16
    else (put all).finish c x stOK all.length))

/-! ## RULE_BULK_INSERT (R278) -/

/-- Bytes of an insert record at a width. -/
def bulkSize (width : Nat) : Nat := match width with | 0 => 64 | 1 => 128 | 2 => 128 | _ => 256

/-- Insert the records from number `done` on: `last` is the INDEX of the last one inserted. -/
def State.bulkRun (c : Ch) (x t target size n : Nat) (data : List Byte) : Nat → Nat → Nat → State → State
  | 0, done, last, s => s.finish c x stOK (done * 2 ^ 32 + last)
  | k + 1, done, last, s =>
    let p := (data.drop (done * size)).take size
    match entChk p n with
    | some r => s.finish c x r.1 (done * 2 ^ 32 + last)
    | none =>
      match s.insertOne c x t target (entOf p n) with
      | .wait s => s.setPhase c x 1 [done, last]
      | .fail st _ => s.finish c x st (done * 2 ^ 32 + last)
      | .done s i => State.bulkRun c x t target size n data k (done + 1) i s

/-- The checks of RULE_BULK_INSERT. -/
def State.bulkInsertChecks (s : State) (c : Ch) (e : Exec) : Checks :=
  let t := e.par 0 1
  let count := e.par 4 4
  let size := bulkSize (s.tableOf c t).width
  let len := e.stLen 8
  let form : Chk :=
    if len < count * size then some (stBadParam, len / size)
    else if count * size < len then some (stBadParam, count)
    else match (s.chan c).stageBytes e.hf (e.stOff 8) len with
      | .bad o => some (stFault, o)
      | .bytes data =>
        ((List.range count).find? (fun i => bytesAt data (i * size) 1 != t || bytesAt data (i * size + 1) 1 % 4 != e.par 1 1 % 4)).map
          (fun i => (stBadParam, i))
  (true,
    [e.plenIn [16], chk (2 ≤ e.par 1 1) stBadParam 1] ++ e.rsvBytes 2 2 ++ e.stageRef 8
      ++ [s.rightT c e t, s.tableChk c t, form, s.onlyOn c],
    [])

/-- RULE_BULK_INSERT: the records in order, until one fails (R278). -/
def execRuleBulkInsert (c : Ch) (x : Fin 8) (s : State) : Out := .next (s.command c x 0x14 fun e s =>
  let t := e.par 0 1
  let target := e.par 1 1 % 4
  let count := e.par 4 4
  let r := s.tableOf c t
  let size := bulkSize r.width
  let off := e.stOff 8
  let len := e.stLen 8
  let got := (s.chan c).stageBytes e.hf off len
  let done := e.nums.getD 0 0
  let last := e.nums.getD 1 0
  let run (s : State) : State := match got with
    | .bad o => s.finish c x stFault o
    | .bytes data => State.bulkRun c x t target size (widthWords r.width) data (count - done) done last s
  if e.phase = 1 then run s
  else s.gate c x (s.bulkInsertChecks c e) (run s))

end Sys2Proof.Machine
end

