-- ==== Sys2Proof/Machine/CmdTables.lean ====
section
/-! DEFINITION. The table commands (R279 to R283) and DEFRAG (R295). -/

namespace Sys2Proof.Machine

/-- Bank groups in a GROUPS field. -/
def groupCount (g : Nat) : Nat := ((List.range 4).filter (fun i => g.testBit i)).length
/-- The BLKMAP word of a block that a table takes, from its present word. -/
def blkWord (old : Word) (t width : Nat) : Word := setFld (setFld (setFld old 0 1 1) 1 2 width) 3 8 t
/-- The REG item that releases a block: its stored word with EN clear. -/
def State.releaseItem (s : State) (c : Ch) (blk : Nat) : BitVec 256 :=
  regItem true (blkOff blk) (setBit (s.reg (blkR c (blk / 33) (blk % 33))) 0 false)
/-- Oluek gives blocks to a table: their map entries (R280). -/
def State.takeBlocks (s : State) (c : Ch) (x t width : Nat) (blks : List Nat) : State :=
  blks.foldl (fun s b => s.oluekReg c x true (blkOff b) (blkWord (s.reg (blkR c (b / 33) (b % 33))) t width)) s
/-- Oluek returns blocks to the free state and then releases them (R281). -/
def State.freeBlks (s : State) (c : Ch) (x t : Nat) (blks : List Nat) : State :=
  let a := s.planned c
  let s := s.enqueue c x ((blks.map (a.freeBlkItems t)).flatten)
  let s := s.enqueue c x (blks.map (s.releaseItem c))
  s.untrack c (fun k => blks.contains (k / 4096))

/-- The blocks that TABLE_CREATE takes. -/
def State.createBlocks (s : State) (c : Ch) (e : Exec) : List Nat :=
  (s.freeBlocks c (e.par 2 1 % 16) (e.par 1 1 % 4) ((e.par 1 1).testBit 2)).take (e.par 4 2)
/-- The checks of TABLE_CREATE. -/
def State.tableCreateChecks (s : State) (c : Ch) (e : Exec) : Checks :=
  let t := e.par 0 1
  let width := e.par 1 1 % 4
  let range := (e.par 1 1).testBit 2
  let groups := e.par 2 1 % 16
  let n := e.par 4 2
  let blks := s.createBlocks c e
  (true,
    [e.plenIn [16], e.rsv 1 0xF8, chk (width == 0 && range) stBadParam 1, e.rsv 2 0xF0, chk (groups == 0) stBadParam 2, e.rsv 3 0xFF,
      chk (n == 0 || decide (288 * groupCount groups < n)) stBadParam 4, e.rsv 6 0xFF, e.rsv 7 0xFF, chk (e.par 8 8 == 0) stBadParam 8,
      (s.groupClash c t groups).map (fun p => (stBadParam, p)), s.rightT c e t, s.onlyOn c],
    [chk (((s.chan c).mgr.table? t).isSome || s.bit (tblR c t) 0) stExists, chk (decide (blks.length < n)) stNoSpace blks.length])

/-- TABLE_CREATE (R279, R280). -/
def execTableCreate (c : Ch) (x : Fin 8) (s : State) : Out := .next (s.command c x 0x01 fun e s =>
  let t := e.par 0 1
  let width := e.par 1 1 % 4
  let range := (e.par 1 1).testBit 2
  let groups := e.par 2 1 % 16
  let mask := e.par 8 8
  let blks := s.createBlocks c e
  s.gate c x (s.tableCreateChecks c e)
    (s.lockAll c x blks
      (let s := s.takeBlocks c x t width blks
       let w := setFld (setFld (setFld (s.reg (tblR c t)) 0 1 1) 1 2 width) 3 4 groups
       let s := s.setTable c t ⟨width, range, groups, BitVec.ofNat 64 mask, sortKeys blks⟩
       let it := regItem false (0x1400 + 4 * t) w
       let s := (s.applyReg c it).journalBy c x [it ||| BitVec.ofNat 256 (mask * 2 ^ 64 + b2n range * 2 ^ 56)]
       s.finish c x stOK)))

/-- The checks of TABLE_DESTROY. -/
def State.tableDestroyChecks (s : State) (c : Ch) (e : Exec) : Checks :=
  let t := e.par 0 1
  let user := (s.liveProfiles c).find? (fun p => (pbTables (s.profBody c p)).contains t)
  let engine := (s.tableOf c t).blocks.any (fun b => match (s.chan c).mgr.lock? b with | some l => decide (8 ≤ l.holder) | none => false)
  (true,
    [e.plenIn [4]] ++ e.rsvBytes 1 3 ++ [s.rightT c e t, s.tableChk c t, s.onlyOn c, user.map (fun p => (stBusy, p)), chk engine stBusy],
    [])

/-- TABLE_DESTROY (R281, R282). -/
def execTableDestroy (c : Ch) (x : Fin 8) (s : State) : Out := .next (s.command c x 0x02 fun e s =>
  let t := e.par 0 1
  let r := s.tableOf c t
  s.gate c x (s.tableDestroyChecks c e)
    (s.lockAll c x r.blocks
      (let s := s.oluekReg c x false (0x1400 + 4 * t) (setBit (s.reg (tblR c t)) 0 false)
       let s := s.setTable c t TableRec.none_
       (s.freeBlks c x t r.blocks).finish c x stOK)))

/-- The blocks that a growing table takes. -/
def State.growBlocks (s : State) (c : Ch) (e : Exec) : List Nat :=
  let r := s.tableOf c (e.par 0 1)
  (s.freeBlocks c r.groups r.width r.range).take (e.par 2 2 - r.blocks.length)
/-- The blocks of a table that hold no VALID word, highest INDEX first. -/
def State.emptyBlocks (s : State) (c : Ch) (e : Exec) : List Nat :=
  ((s.tableOf c (e.par 0 1)).blocks.filter (fun b => !(s.planned c).words.any (fun p => p.1 / 4096 == b && ecfValid p.2.ecf))).reverse
/-- The checks of TABLE_RESIZE. -/
def State.tableResizeChecks (s : State) (c : Ch) (e : Exec) : Checks :=
  let t := e.par 0 1
  let n := e.par 2 2
  let r := s.tableOf c t
  let have_ := r.blocks.length
  let clash := if have_ < n then s.groupClash c t r.groups else none
  let more := s.growBlocks c e
  let empty := s.emptyBlocks c e
  (true,
    [e.plenIn [4], e.rsv 1 0xFF, clash.map (fun p => (stBadParam, p)), s.rightT c e t, s.tableChk c t, s.onlyOn c],
    [chk (decide (have_ + more.length < n)) stNoSpace more.length,
      chk (decide (n < have_ - (empty.take (have_ - n)).length)) stNoSpace empty.length])

/-- TABLE_RESIZE: a table grows by R280, or gives up blocks that hold no VALID word, highest INDEX first (R283). -/
def execTableResize (c : Ch) (x : Fin 8) (s : State) : Out := .next (s.command c x 0x03 fun e s =>
  let t := e.par 0 1
  let n := e.par 2 2
  let r := s.tableOf c t
  let have_ := r.blocks.length
  let more := s.growBlocks c e
  let less := (s.emptyBlocks c e).take (have_ - n)
  s.gate c x (s.tableResizeChecks c e)
    (if have_ ≤ n then
      s.lockAll c x more
        (let s := s.takeBlocks c x t r.width more
         (s.setTable c t { r with blocks := sortKeys (r.blocks ++ more) }).finish c x stOK)
    else
      s.lockAll c x less
        (let s := s.setTable c t { r with blocks := r.blocks.filter (fun b => !less.contains b) }
         (s.freeBlks c x t less).finish c x stOK)))

/-! ## DEFRAG (R295) -/

/-- The VALID entries in a block. -/
def ArrayMem.fill (a : ArrayMem) (r : TableRec) (blk : Nat) : Nat := ((a.entries r).filter (fun k => k / 4096 == blk)).length
/-- Block `a` is less filled than `b`; of equal ones the higher counts as the less filled (DESIGN CHOICE, log entry 17). -/
def emptier (a : ArrayMem) (r : TableRec) (p q : Nat) : Bool :=
  if a.fill r p = a.fill r q then decide (q < p) else decide (a.fill r p < a.fill r q)

/-- What DEFRAG does next: release an empty block, move an entry, or nothing more. -/
inductive Defrag
  | release (blk : Nat)
  | move (src dst : Nat)
  | done
deriving DecidableEq, Repr

/-- The next act of DEFRAG on a table. -/
def nextDefrag (a : ArrayMem) (r : TableRec) : Defrag :=
  match bestBy (emptier a r) r.blocks with
  | none => .done
  | some b =>
    match (a.entries r).find? (fun k => k / 4096 == b) with
    | none => .release b
    | some k =>
      match a.freeEntry r.width (r.blocks.filter (fun q => q != b)) (a.ent r.width k).ranged with
      | none => .done
      | some k' => .move k k'

/-- Some word of an entry is beyond correction (Table 13.2). -/
def ArrayMem.entBad (a : ArrayMem) (width key : Nat) : Bool :=
  (List.range (widthWords width)).any (fun j =>
    let w := a.word (key + j)
    w.poison || rsDecode (toBytes 10 w.data.toNat ++ toBytes 10 w.mask.toNat) w.chk == .uncorrectable)

/-- An entry is written at another place and freed at its own (R273, R275), with its priority, AD, units and epoch bits. -/
def State.moveEnt (s : State) (c : Ch) (x t width src dst : Nat) : State :=
  let a := s.planned c
  let s := s.enqueue c x (a.putItems t width dst (a.ent width src) (a.live 0 src) (a.live 1 src))
  let s := s.enqueue c x ((s.planned c).dropItems t width src)
  let moved (l : List Nat) : List Nat := if l.contains src then insertNat dst (l.filter (fun k => k != src)) else l
  s.modEp c (fun e => { e with stagedWork := moved e.stagedWork, retireWork := moved e.retireWork })

/-- DEFRAG's acts, `n` at most, from `done` released blocks on. -/
def State.defragRun (c : Ch) (x t goal : Nat) : Nat → Nat → State → State
  | 0, done, s => s.finish c x stOK done
  | n + 1, done, s =>
    let r := s.tableOf c t
    let a := s.planned c
    if goal ≠ 0 ∧ goal ≤ done then s.finish c x stOK done
    else
      match nextDefrag a r with
      | .done => s.finish c x stOK done
      | .release b =>
        match s.lockTurn c x [b] with
        | some s => s.setPhase c x 1 [done]
        | none =>
          let s := s.setTable c t { r with blocks := r.blocks.filter (fun q => q != b) }
          State.defragRun c x t goal n (done + 1) (s.freeBlks c x t [b])
      | .move k k' =>
        if a.entBad r.width k then s.finish c x stFault done
        else
          match s.lockTurn c x [k / 4096, k' / 4096] with
          | some s => s.setPhase c x 1 [done]
          | none => State.defragRun c x t goal n done (s.moveEnt c x t r.width k k')

/-- The checks of DEFRAG. -/
def State.defragChecks (s : State) (c : Ch) (e : Exec) : Checks :=
  (true, [e.plenIn [4], e.rsv 1 0xFF, s.rightT c e (e.par 0 1), s.tableChk c (e.par 0 1), s.onlyOn c], [])

/-- DEFRAG: entries move from the least-filled block until GOAL blocks are released (R295). -/
def execDefrag (c : Ch) (x : Fin 8) (s : State) : Out := .next (s.command c x 0x42 fun e s =>
  let t := e.par 0 1
  let r := s.tableOf c t
  let turns := (((s.planned c).entries r).length + 1) * (r.blocks.length + 1)
  let run (s : State) : State := State.defragRun c x t (e.par 2 2) turns (e.nums.getD 0 0) s
  if e.phase = 1 then run s
  else s.gate c x (s.defragChecks c e) (run s))

end Sys2Proof.Machine
end

