-- ==== Sys2Proof/Machine/CmdEpoch.lean ====
section
/-! DEFINITION. The epoch commands (R284 to R288, R212, R213) and Oluek's own retire sweep (R200). -/

namespace Sys2Proof.Machine

/-! ## Restoring R195 -/

/-- R195 is restored for one changed entry: live in the other slot only, it is deleted (R275); live in the current slot
only, it gets the other slot's epoch bit (R200, R286). -/
def State.settle (s : State) (c : Ch) (owner key : Nat) : State :=
  let a := s.planned c
  let x := s.chan c
  let w := (a.word key).ecf
  let m := s.reg (blkR c (key / 4096 / 33) (key / 4096 % 33))
  if !ecfValid w || a.live x.curSlot key == a.live x.othSlot key then s
  else if a.live x.curSlot key then s.enqueue c owner [ecfItem (bmTable m) key (ecfSetE w x.othSlot true)]
  else s.enqueue c owner (a.dropItems (bmTable m) (bmWidth m) key)

/-- The sweep's write for one entry that the committed version changed (R200): an entry live in the retiring slot only is deleted
by one ECF write that clears VALID in its first word; one live in the current slot only gets its other epoch bit set. -/
def State.sweepEntry (s : State) (c : Ch) (owner key : Nat) : State :=
  let x := s.chan c
  let w := (x.arr.word key).ecf
  let t := bmTable (s.reg (blkR c (key / 4096 / 33) (key / 4096 % 33)))
  if !ecfValid w || x.arr.live x.curSlot key == x.arr.live x.othSlot key then s
  else s.enqueue c owner [ecfItem t key (if x.arr.live x.curSlot key then ecfSetE w x.othSlot true else w &&& ~~~1)]

/-- The record of the executor on which Oluek runs a sweep of its own: it has no mailbox, and the code of EPOCH_RETIRE, so that its
locks are broken and asked for again by R259 as that command's are (log entry 18). -/
def Exec.sweep (now : Nat) : Exec := { Exec.none with req := toBytes 1 0x23, phase := 1, since := now }

/-- The executor that holds the sweep's locks: Oluek's own, else that of the EPOCH_RETIRE that began the sweep. -/
def Mgr.sweepHolder (m : Mgr) : Option Nat :=
  match m.execs.find? (fun p => p.2.mbx == 16 && p.2.code == 0x23) with
  | some p => some p.1
  | none => (m.execs.find? (fun p => p.2.code == 0x23 && p.2.phase == 1)).map (·.1)

/-- The sweep ends: the slot is freed, and an executor of its own is free again. -/
def State.endSweep (s : State) (c : Ch) (h : Nat) : State :=
  let s := s.epFree c
  let s := s.journal c [s.epochItem c]
  if (s.chan c).mgr.sweeping then
    ((s.modMgr c (fun m => { (m.release h) with sweeping := false }))).freeExec c h
  else s

/-- The sweep goes on block by block, each under its lock (R198); it waits for locks, and for its writes under the last one. -/
def State.sweepRun (c : Ch) (h : Nat) : Nat → State → State
  | 0, s => s
  | n + 1, s =>
    match (s.chan c).mgr.exec? h with
    | none => s
    | some e =>
      if e.broken.isSome || !e.want.isEmpty then s
      else
        match (s.chan c).ep.retireWork with
        | [] => if s.writing c h then s else s.endSweep c h
        | k :: _ =>
          match s.lockTurn c h [k / 4096] with
          | some s => s
          | none =>
            let ks := (s.chan c).ep.retireWork.filter (fun q => q / 4096 == k / 4096)
            let s := ks.foldl (fun s q => s.sweepEntry c h q) s
            State.sweepRun c h n (s.modEp c (fun e => { e with
              retireWork := e.retireWork.filter (fun q => !ks.contains q), swept := e.swept + ks.length }))

/-- RETIRE_SWEEP: Oluek sweeps the entries that the committed version changed (R200), for EPOCH_RETIRE or by itself, under the
block locks of an executor (R259), and frees the slot once everything is written. -/
def execRetireSweep (c : Ch) (s : State) : Out :=
  let x := s.chan c
  if x.othState ≠ .retiring || !x.mgr.up || x.power ≠ .on then .next s
  else
    match x.mgr.sweepHolder with
    | some h => .next (State.sweepRun c h (x.ep.retireWork.length + 1) s)
    | none =>
      match (List.range 8).find? (fun h => (x.mgr.exec? h).isNone) with
      | none => .next s
      | some h =>
        let s := (s.setExec c h (Exec.sweep s.now)).modMgr c (fun m => { m with sweeping := true })
        .next (State.sweepRun c h (x.ep.retireWork.length + 1) s)

/-! ## Prepare, commit, abort, retire -/

/-- The checks of EPOCH_PREPARE. -/
def State.epochPrepareChecks (s : State) (c : Ch) (e : Exec) : Checks :=
  (true, [e.plenIn [4], e.rsv 2 0xFF, e.rsv 3 0xFF, s.rightC c e, s.onlyOn c],
    [chk ((s.chan c).othState != .free || e.par 0 2 == s.epochNum c (s.chan c).curSlot) stEpoch])

/-- EPOCH_PREPARE: NUM of the next version is written and STAGE is triggered (R284). -/
def execEpochPrepare (c : Ch) (x : Fin 8) (s : State) : Out := .next (s.command c x 0x20 fun e s =>
  let o := (s.chan c).othSlot
  let num := e.par 0 2
  s.gate c x (s.epochPrepareChecks c e)
    (let k := 0x5004 + 4 * o
     let s := (s.landAll .oluek (c.val + 1) false k (setFld (s.reg (chR c k)) 0 16 num)).epStage c
     (s.journalBy c x [s.epochItem c]).finish c x stOK))

/-- SLACK_US of a command or image: 0xFFFF keeps the register (R285, R213). -/
def State.writeSlack (s : State) (c : Ch) (x us : Nat) : State :=
  if us = 0xFFFF then s else s.oluekReg c x false 0x5000 (setFld (s.reg (chR c 0x5000)) 0 16 us)
/-- EPOCH_SCHED is written. -/
def State.writeSched (s : State) (c : Ch) (sec ns : Nat) : State :=
  let put (s : State) (off v : Nat) : State := s.landAll .oluek (c.val + 1) false off (BitVec.ofNat 32 v)
  put (put (put s 0x5014 (sec / 2 ^ 32)) 0x5018 (sec % 2 ^ 32)) 0x501C ns

/-- The checks of EPOCH_COMMIT. -/
def State.epochCommitChecks (s : State) (c : Ch) (e : Exec) : Checks :=
  let ep := (s.chan c).ep
  (true,
    [e.plenIn [16], e.rsv 0 0xFE, e.rsv 1 0xFF, chk (decide (e.par 0 1 % 2 = 1) && decide (1000000000 ≤ e.par 10 4)) stBadParam 10,
      e.rsv 14 0xFF, e.rsv 15 0xFF, s.rightC c e, s.onlyOn c],
    [chk ((s.chan c).othState != .staged || ep.armed || ep.pending) stEpoch])

/-- EPOCH_COMMIT: at once at the next wrap, or by schedule (R285). -/
def execEpochCommit (c : Ch) (x : Fin 8) (s : State) : Out := .next (s.command c x 0x21 fun e s =>
  let ep := (s.chan c).ep
  if e.phase = 1 then
    if ep.pending || (s.chan c).curSlot == e.nums.getD 0 0 then s
    else
      let d := s.field (chR c 0x5024) 0 32 * 2 ^ 32 + s.field (chR c 0x5028) 0 30
      (s.journalBy c x [s.epochItem c]).finish c x stOK d
  else
    let sched := e.par 0 1 % 2 = 1
    s.gate c x (s.epochCommitChecks c e)
      (let s := s.writeSlack c x (e.par 2 2)
       if sched then
         let s := (s.writeSched c (e.par 4 6) (e.par 10 4)).epArm c
         s.finish c x (if (s.chan c).ep.armed then stOK else stEpoch)
       else (s.epCommit c).setPhase c x 1 [(s.chan c).curSlot]))

/-- The entries of the staged version, block by block (R286). -/
def State.abortRun (c : Ch) (x : Nat) : Nat → Nat → State → State
  | 0, _, s => s
  | n + 1, done, s =>
    match (s.chan c).ep.stagedWork with
    | [] =>
      if s.writing c x then s.setPhase c x 1 [done]
      else
        let s := s.epFree c
        (s.journalBy c x [s.epochItem c]).finish c x stOK done
    | k :: _ =>
      match s.lockTurn c x [k / 4096] with
      | some s => s.setPhase c x 1 [done]
      | none =>
        let s := s.settle c x k
        State.abortRun c x n (done + 1) (s.modEp c (fun e => { e with stagedWork := e.stagedWork.drop 1 }))

/-- The checks of EPOCH_ABORT. -/
def State.epochAbortChecks (s : State) (c : Ch) (e : Exec) : Checks :=
  (true, [e.plenIn [0], s.rightC c e, s.onlyOn c], [chk ((s.chan c).othState != .staged || (s.chan c).ep.pending) stEpoch])

/-- EPOCH_ABORT: disarm, restore every entry that the staged version changed, and free the slot; a schedule that fires in the
cycle of the DISARM makes the commit proceed and the command end EPOCH_STATE (R286). -/
def execEpochAbort (c : Ch) (x : Fin 8) (s : State) : Out := .next (s.command c x 0x22 fun e s =>
  let ep := (s.chan c).ep
  let lost := (s.chan c).othState != .staged || ep.pending || s.schedDue c
  let run (s : State) : State := State.abortRun c x ((s.chan c).ep.stagedWork.length + 1) (e.nums.getD 0 0) s
  if e.phase = 1 then (if lost then s.finish c x stEpoch else run s)
  else s.gate c x (s.epochAbortChecks c e)
    (let s' := if ep.armed then s.epDisarm c else s
     if lost then s'.finish c x stEpoch else run s'))

/-- The checks of EPOCH_RETIRE. -/
def State.epochRetireChecks (s : State) (c : Ch) (e : Exec) : Checks :=
  (true, [e.plenIn [0], s.rightC c e, s.onlyOn c], [chk ((s.chan c).othState == .staged) stEpoch])

/-- EPOCH_RETIRE: end slack water, and wait for Oluek's sweep and FREE (R287). -/
def execEpochRetire (c : Ch) (x : Fin 8) (s : State) : Out := .next (s.command c x 0x23 fun e s =>
  let st := (s.chan c).othState
  if e.phase = 1 then (if st = .free ∨ st = .staged then s.finish c x stOK (s.chan c).ep.swept else s)
  else s.gate c x (s.epochRetireChecks c e)
    (if st = .free then s.finish c x stOK
     else (if st = .slack then s.epEndSlack c else s).setPhase c x 1 []))

/-! ## EPOCH_IMAGE_LOAD (R212, R213, R288) -/

/-- Body record `i` of an epoch image, from 0. -/
def imgRecord (b : List Byte) (i : Nat) : BitVec 256 := BitVec.ofNat 256 (bytesAt b (64 + 32 * i) 32)
/-- RECORDS of a header. -/
def imgRecords (b : List Byte) : Nat := bytesAt b 28 4
/-- The form of an epoch image: MAGIC, FORMAT, HDR_CRC and END (Tables 07.5 to 07.7). -/
def epochImageForm (b : List Byte) : Bool :=
  let n := imgRecords b
  let e := imgRecord b n
  decide (64 ≤ b.length) && bytesAt b 0 4 == 0x56455031 && bytesAt b 4 2 == 1 && bytesAt b 60 4 == (crc32c (b.take 60)).toNat
    && decide (96 + 32 * n ≤ b.length) && itemField e 0 1 == 0x0F && itemField e 1 7 == 0 && itemField e 8 4 == n
    && itemField e 12 4 == (crc32c (b.take (64 + 32 * n))).toNat && itemField e 16 16 == 0
/-- The target of an epoch image (Table 07.7). -/
def State.epochImageHere (s : State) (c : Ch) (b : List Byte) : Bool :=
  let dom := s.field (modR 0x5040)
  bytesAt b 6 2 == dom 0 16 && (decide (bytesAt b 8 2 ≥ 2 ^ 15) || bytesAt b 8 2 % 2 ^ 14 == dom 16 14) && bytesAt b 10 1 % 4 == c.val

/-- A record that R288 refuses. -/
def State.badRecord (s : State) (c : Ch) (a : ArrayMem) (it : BitVec 256) : Bool :=
  let t := itemTable it
  let ty := itemType it
  match (s.chan c).mgr.table? t with
  | none => true
  | some r =>
    let n := widthWords r.width
    let k := wordKey (itemBank it) (itemBlock it) (itemWord it)
    !(decide (1 ≤ ty) && decide (ty ≤ 5)) || !itemInArray it || !r.blocks.contains (k / 4096)
      || (decide (4 ≤ ty) && k % n != 0) || (ty == 3 && k % 2 != 0) || (ty == 2 && !(k % 2 == 0 && hasUnits r.width k))
      || (ty == 1 && ecfValid (a.word (k - k % n)).ecf && a.live (s.chan c).curSlot (k - k % n))

/-- The records in the order in which they are written: each entry's first word after the entry's other words and segments
(R44, R213). -/
def writeOrder (firstWord : BitVec 256 → Bool) (entry : BitVec 256 → Nat) : List (BitVec 256) → List (BitVec 256)
  | [] => []
  | it :: t =>
    let rest := writeOrder firstWord entry t
    if firstWord it then
      -- behind the last record of the same entry that is no first word
      let later := rest.filter (fun q => entry q == entry it && !firstWord q && (itemType q == 1 || itemType q == 2))
      let rec place (n : Nat) : List (BitVec 256) → List (BitVec 256)
        | [] => [it]
        | q :: u => if n = 0 then it :: q :: u
            else q :: place (if entry q == entry it && !firstWord q && (itemType q == 1 || itemType q == 2) then n - 1 else n) u
      place later.length rest
    else it :: rest

/-- First word of the entry that a record belongs to. -/
def State.recEntry (s : State) (c : Ch) (it : BitVec 256) : Nat :=
  let k := wordKey (itemBank it) (itemBlock it) (itemWord it)
  k - k % widthWords (s.tableOf c (itemTable it)).width
/-- The record writes the first word of an entry. -/
def State.isFirstWord (s : State) (c : Ch) (it : BitVec 256) : Bool :=
  itemType it == 1 && s.recEntry c it == wordKey (itemBank it) (itemBlock it) (itemWord it)

/-- What the load writes for a record: WORD with the staged slot's bit set and the current slot's clear; SET_E and CLEAR_E as
the ECF that results (R213). -/
def State.loadItem (s : State) (c : Ch) (it : BitVec 256) : BitVec 256 :=
  let x := s.chan c
  let k := wordKey (itemBank it) (itemBlock it) (itemWord it)
  let e := ((s.planned c).word k).ecf
  match itemType it with
  | 1 =>
    let w := wordOfImage (itemPayload it)
    let f := ecfSetE (ecfSetE w.ecf0 x.othSlot true) x.curSlot false
    keyItem 1 (itemTable it) k (wordImage (mkWord w.data w.mask f))
  | 4 => ecfItem (itemTable it) k (ecfSetE e x.othSlot true)
  | 5 => ecfItem (itemTable it) k (ecfSetE e x.othSlot false)
  | _ => bareItem it

/-- Write the records from `done` on, each block under its lock in turn. -/
def State.loadRun (c : Ch) (x : Nat) : List (BitVec 256) → Nat → State → Sum State State
  | [], _, s => .inr s
  | it :: t, done, s =>
    let k := wordKey (itemBank it) (itemBlock it) (itemWord it)
    match s.lockTurn c x [k / 4096] with
    | some s => .inl (s.setPhase c x 1 [done])
    | none =>
      let s := s.enqueue c x [s.loadItem c it]
      let s := if itemType it = 2 ∨ itemType it = 3 then s else s.track c .staged [s.recEntry c it]
      State.loadRun c x t (done + 1) s

/-- A later turn reads the staged bytes again; an area that cannot be read then ends the command HW_FAULT too (R253). -/
def State.stagedOr (s : State) (c : Ch) (x : Nat) (e : Exec) (i : Nat) (k : State) : State :=
  match (s.chan c).stageBytes e.hf (e.stOff i) (e.stLen i) with
  | .bytes _ => k
  | .bad o => s.finish c x stFault o

/-- The staged bytes that a reference at parameter byte `i` names, none when they cannot be read. -/
def State.stagedFor (s : State) (c : Ch) (e : Exec) (i : Nat) : List Byte :=
  match (s.chan c).stageBytes e.hf (e.stOff i) (e.stLen i) with | .bytes l => l | .bad _ => []
/-- The offset of the first byte of them that cannot be read. -/
def State.stagedBad (s : State) (c : Ch) (e : Exec) (i : Nat) : Option Nat :=
  match (s.chan c).stageBytes e.hf (e.stOff i) (e.stLen i) with | .bytes _ => none | .bad o => some o
/-- The body records of a staged epoch image. -/
def imgRecs (b : List Byte) : List (BitVec 256) := (List.range (min (imgRecords b) ((b.length - 64) / 32))).map (imgRecord b)
/-- The checks of EPOCH_IMAGE_LOAD (Table 07.7, R288). -/
def State.epochImageChecks (s : State) (c : Ch) (e : Exec) : Checks :=
  let b := s.stagedFor c e 0
  let recs := imgRecs b
  let cur := s.epochNum c (s.chan c).curSlot
  let a := s.planned c
  (true,
    [e.plenIn [8]] ++ e.stageRef 0
      ++ [s.rightC c e, (s.stagedBad c e 0).map (fun o => (stFault, o)),
        chk (recs.any (fun it => !s.mayWrite e.host c (itemTable it))) stDenied,
        chk (recs.any (fun it => s.recordBad c (itemTable it))) stFault, s.onlyOn c],
    [chk (!epochImageForm b || !s.epochImageHere c b) stImage,
      chk ((s.chan c).othState != .free || bytesAt b 14 2 != cur || bytesAt b 12 2 == cur) stEpoch,
      (recs.zipIdx.find? (fun p => s.badRecord c a p.1)).map (fun p => (stImage, p.2 + 1))])

/-- EPOCH_IMAGE_LOAD: the checks of Table 07.7 and R288, then R213. -/
def execEpochImageLoad (c : Ch) (x : Fin 8) (s : State) : Out := .next (s.command c x 0x24 fun e s =>
  let b := s.stagedFor c e 0
  let recs := imgRecs b
  let n := recs.length
  let finishLoad (s : State) : State :=
    if s.writing c x then s.setPhase c x 1 [n]
    else
      let s := s.writeSlack c x (bytesAt b 26 2)
      if bytesAt b 16 10 = 0 then s.finish c x stOK n
      else
        let s := (s.writeSched c (bytesAt b 16 6) (bytesAt b 22 4)).epArm c
        s.finish c x (if (s.chan c).ep.armed then stOK else stEpoch) n
  let run (done : Nat) (s : State) : State :=
    match State.loadRun c x ((writeOrder (s.isFirstWord c) (s.recEntry c) recs).drop done) done s with
    | .inl s => s
    | .inr s => finishLoad s
  if e.phase = 1 then s.stagedOr c x e 0 (run (e.nums.getD 0 0) s)
  else
    s.gate c x (s.epochImageChecks c e)
      (let k := 0x5004 + 4 * (s.chan c).othSlot
       let s := (s.landAll .oluek (c.val + 1) false k (setFld (s.reg (chR c k)) 0 16 (bytesAt b 12 2))).epStage c
       run 0 (s.journalBy c x [s.epochItem c])))

end Sys2Proof.Machine
end

