-- ==== Sys2Proof/Machine/CmdFlow.lean ====
section
/-! DEFINITION. The flow table commands (R289 to R292). -/

namespace Sys2Proof.Machine

/-! ## FLOW_TABLE_CREATE (R289, R126) -/

/-- The region of a flow table is zeroed and every pen entry of its number is freed (R126, R289). -/
def State.zeroFlowTable (s : State) (c : Ch) (t : Nat) : State :=
  let r := s.ftRange c t
  let inside (i : Nat) : Bool := decide (r.1 ≤ i) && decide (i < r.2)
  let old := s
  let s := s.modChan c (fun x => { x with
    hbm := x.hbm.filter (fun p => !inside p.1)
    flow := { x.flow with lines := x.flow.lines.filter (fun l => !inside l.slot), pen := x.flow.pen.filter (fun p => p.2.table != t) } })
  State.penEvents old (s.setField (ftR c t + 8) 0 28 0) c

/-- The first HBM slot of the table that FLOW_TABLE_CREATE makes, and the slot past its last. -/
def Exec.newFlowRange (e : Exec) : Nat × Nat := (e.par 4 2 * 4096, e.par 4 2 * 4096 + 4 * 2 ^ (e.par 1 1))
/-- FT_CTRL of that table, with EN clear. -/
def Exec.newFlowCtrl (e : Exec) : Nat := e.par 2 1 % 4 * 64 + (e.par 2 1 / 4 % 2) * 256 + e.par 1 1 % 32 * 2
/-- The checks of FLOW_TABLE_CREATE. -/
def State.flowCreateChecks (s : State) (c : Ch) (e : Exec) : Checks :=
  let t := e.par 0 1
  let l2 := e.par 1 1
  let r := e.newFlowRange
  let overlap := (List.range 16).any (fun u => u != t && s.bit (ftR c u) 0
    && (let q := s.ftRange c u; decide (r.1 < q.2) && decide (q.1 < r.2)))
  (true,
    [e.plenIn [40], chk (decide (16 ≤ t)) stBadParam 0, chk (decide (l2 < 10) || decide (25 < l2)) stBadParam 1, e.rsv 2 0xF8, e.rsv 3 0xFF,
        chk (decide (2 ^ 27 < r.2) || overlap) stBadParam 4, e.rsv 6 0xFF, e.rsv 7 0xFF]
      ++ (List.range 8).map (fun k => e.rsv (8 + 4 * k) 0xFF) ++ [s.rightF c e t, s.onlyOn c],
    [chk (s.bit (ftR c t) 0) stExists])

/-- FLOW_TABLE_CREATE. -/
def execFlowTableCreate (c : Ch) (x : Fin 8) (s : State) : Out := .next (s.command c x 0x30 fun e s =>
  let t := e.par 0 1
  let off := 0x4100 + 16 * t
  let ctrl := e.newFlowCtrl
  s.gate c x (s.flowCreateChecks c e)
    (s.lockAll c x [flowKeyLock t]
      (let reg (s : State) (o v : Nat) : State := s.oluekReg c x false o (BitVec.ofNat 32 v)
       let s := reg (reg s (off + 4) (e.par 4 2)) off ctrl
       let s := (List.range 8).foldl (fun s k => reg s (0x4200 + 0x20 * t + 4 * k) (e.par (8 + 4 * k) 4)) s
       (reg (s.zeroFlowTable c t) off (ctrl + 1)).finish c x stOK)))

/-! ## FLOW_INSERT, FLOW_DELETE, FLOW_READ (R290, R152) -/

/-- Bytes of a flow table's key: KEY_W / 8. -/
def State.ftKeyBytes (s : State) (c : Ch) (t : Nat) : Nat := widthBits (s.field (ftR c t) 6 2) / 8
/-- The checks of a flow command on a key that begins at parameter byte `at_`. -/
def State.flowChks (s : State) (c : Ch) (e : Exec) (at_ : Nat) : List Chk :=
  let t := e.par 0 1
  [s.rightF c e t, chk (!s.bit (ftR c t) 0) stBadTable, chk (e.plen != at_ + s.ftKeyBytes c t) stBadParam 4, s.onlyOn c]
/-- The PLEN and table number of such a command. -/
def Exec.flowForm (e : Exec) (at_ : Nat) : List Chk :=
  [e.plenIn [at_ + 10, at_ + 20, at_ + 40, at_ + 80], chk (decide (16 ≤ e.par 0 1)) stBadParam 0]

/-- A flow command takes its place in the order of its buckets. -/
def State.openFlow (s : State) (c : Ch) (x : Nat) (e : Exec) (at_ : Nat) : State :=
  let t := e.par 0 1
  let id := (s.chan c).flow.nextTicket
  (s.openTicket c (.mailbox x) t (e.par at_ (s.ftKeyBytes c t)) false).setPhase c x 1 [id]

/-- What a flow command does once its operation may take effect: its outcome, its result, and whether it creates a flow. -/
structure FlowAct where
  st : State
  status : Nat
  res : List Byte
  create : Bool

/-- A flow command whose operation is first on its buckets, with its lines here, commits and ends (R145, R146). -/
def State.commitFlow (s : State) (c : Ch) (x : Nat) (e : Exec) (act : State → FlowKey → Found → Option FlowAct) : State :=
  let s := s.flowDue c
  match (s.chan c).flow.tickets.find? (fun t => t.id == e.nums.getD 0 0) with
  | none => s
  | some tk =>
    if !s.ticketReady c tk then s
    else
      let q := s.flowKey c tk.table tk.key.toNat tk.b1 tk.b2
      let s1 := s.readPlaces c q
      match act s1 q ((s1.chan c).find q) with
      | none => s
      | some r0 =>
        let s1 := s1.atTime (s.ticketTime c tk r0.create)
        match act s1 q ((s1.chan c).find q) with
        | none => s
        | some r =>
          let s2 := (r.st.noteCommit c [q.s1, q.s2] r.create).dropTicket c tk.id
          (State.penEvents s1 s2 c).finish c x r.status 0 r.res

/-- The checks of FLOW_INSERT. -/
def State.flowInsertChecks (s : State) (c : Ch) (e : Exec) : Checks :=
  (false, e.flowForm 12 ++ [e.rsv 1 0xE0, e.rsv 3 0xFF] ++ s.flowChks c e 12, [])
/-- Those of FLOW_DELETE. -/
def State.flowDeleteChecks (s : State) (c : Ch) (e : Exec) : Checks :=
  (false, e.flowForm 4 ++ [e.rsv 1 0xFE, e.rsv 2 0xFF, e.rsv 3 0xFF] ++ s.flowChks c e 4, [])
/-- Those of FLOW_READ. -/
def State.flowReadChecks (s : State) (c : Ch) (e : Exec) : Checks :=
  (false, e.flowForm 4 ++ [e.rsv 1 0xFF, e.rsv 2 0xFF, e.rsv 3 0xFF] ++ s.flowChks c e 4, [])

/-- FLOW_INSERT: a new flow is placed by R136; a present one is replaced, or EXISTS (R290). -/
def execFlowInsert (c : Ch) (x : Fin 8) (s : State) : Out := .next (s.command c x 0x31 fun e s =>
  let b := e.par 1 1
  let age := b / 4 % 8
  let st := b.testBit 1
  let action := e.par 4 8
  if e.phase = 1 then
    s.commitFlow c x e (fun s q found =>
      let y := s.chan c
      match found with
      | .eccErr => some ⟨s, stFault, [], false⟩
      | .at_ p =>
        if b % 2 = 0 then some ⟨s, stExists, toBytes 1 p.loc, false⟩
        else
          let d := (y.at p).data
          some ⟨s.setChan c (y.putFlow s.now q p (mkFlow (frKey d) (frPkt d) (frBytes d) (frSeen d) (e.par 2 1) action) age st),
            stOK, toBytes 1 p.loc, false⟩
      | .absent =>
        match y.freePlace q with
        | none => some ⟨s, stNoSpace, [], false⟩
        | some p =>
          let d := mkFlow q.headKey 0 0 s.flowTick (e.par 2 1) action
          some ⟨(s.setChan c (y.putFlow s.now q p d age st)).addFlows c q.table true, stOK, toBytes 1 p.loc, true⟩)
  else s.gate c x (s.flowInsertChecks c e) (s.openFlow c x e 12))

/-- FLOW_DELETE: the flow is freed; with EXPORT a frame is queued, for which the command waits (R290). -/
def execFlowDelete (c : Ch) (x : Fin 8) (s : State) : Out := .next (s.command c x 0x32 fun e s =>
  let exp := e.par 1 1 % 2 = 1
  if e.phase = 1 then
    s.commitFlow c x e (fun s q found =>
      match found with
      | .eccErr => some ⟨s, stFault, [], false⟩
      | .absent => some ⟨s, stNotFound, [], false⟩
      | .at_ p =>
        if decide exp && s.host.isUp && decide (2048 ≤ (s.chan c).flow.exports.length) then none
        else some ⟨s.freeRecord c q.table (p, q.double) exp, stOK, [], false⟩)
  else s.gate c x (s.flowDeleteChecks c e) (s.openFlow c x e 4))

/-- FLOW_READ: the record with its sideband byte 6 and LOC (R290). -/
def execFlowRead (c : Ch) (x : Fin 8) (s : State) : Out := .next (s.command c x 0x33 fun e s =>
  if e.phase = 1 then
    s.commitFlow c x e (fun s q found =>
      let y := s.chan c
      match found with
      | .eccErr => some ⟨s, stFault, [], false⟩
      | .absent => some ⟨s, stNotFound, [], false⟩
      | .at_ p =>
        let v := y.at p
        some ⟨s, stOK, toBytes 64 v.data.toNat ++ (if q.double then toBytes 64 (y.at p.tailOf).data.toNat else [])
          ++ toBytes 1 (natBits v.sb.toNat 8 8) ++ toBytes 1 p.loc, false⟩)
  else s.gate c x (s.flowReadChecks c e) (s.openFlow c x e 4))

/-! ## FLOW_FLUSH (R291) -/

/-- The first slots of the buckets of a table that hold anything, from a bucket on, in ascending order. An empty bucket has
nothing to free. -/
def State.usedBuckets (s : State) (c : Ch) (t from_ : Nat) : List Nat :=
  let r := s.ftRange c t
  let x := s.chan c
  let slots := x.hbm.map (·.1) ++ x.flow.lines.map (·.slot)
  sortKeys ((slots.filter (fun i => decide (r.1 ≤ i) && decide (i < r.2) && decide (from_ ≤ (i - r.1) / 4))).map (fun i => i - i % 4)).dedup

/-- The records that FLOW_FLUSH selects among some: all, or those whose STATE matches. A record beyond correction has no STATE
to compare. -/
def Chan.flushPick (x : Chan) (mode value mask : Nat) (rs : List (FPlace × Bool)) : List (FPlace × Bool) :=
  rs.filter (fun r => mode != 1 || (!x.recordBad r && (frState (x.at r.1).data &&& mask) == (value &&& mask)))

/-- Free the selected records of one bucket or pen entry in one commit, if the export queue has room for their frames; with
the host link down the frames are discarded. -/
def State.flushAt (s : State) (c : Ch) (t mode value mask : Nat) (exp : Bool) (rs : List (FPlace × Bool)) : Option (State × Nat) :=
  let x := s.chan c
  let pick := x.flushPick mode value mask rs
  let good := pick.filter (fun r => !x.recordBad r)
  if exp && s.host.isUp && decide (2048 < x.flow.exports.length + good.length) then none
  else
    let s := (rs.filter (fun r => x.recordBad r)).foldl (fun s r => s.countBad c (x.badPlace r)) s
    some (pick.foldl (fun s r => s.freeRecord c t r (exp && !x.recordBad r)) s, pick.length)

/-- The head and single pen entries of a table. -/
def Chan.penOf (x : Chan) (t : Nat) : List Nat := (x.flow.pen.filter (fun p => p.2.table == t && p.2.occ != 3)).map (·.1)

/-- The checks of FLOW_FLUSH; only MODE 0b10 journals. -/
def State.flowFlushChecks (s : State) (c : Ch) (e : Exec) : Checks :=
  let t := e.par 0 1
  (decide (e.par 1 1 % 4 = 2),
    [e.plenIn [8], chk (decide (16 ≤ t)) stBadParam 0, e.rsv 1 0xF8, chk (e.par 1 1 % 4 == 3) stBadParam 1] ++ e.rsvBytes 4 4
      ++ [s.rightF c e t, chk (!s.bit (ftR c t) 0) stBadTable, s.onlyOn c],
    [])

/-- The ticket that a command's step holds: its number plus 1 is among `nums`, 0 for none. -/
def Exec.stepTicket (e : Exec) (s : State) (c : Ch) (i : Nat) : Option Ticket :=
  if e.nums.getD i 0 = 0 then Option.none else (s.chan c).flow.tickets.find? (fun t => t.id + 1 == e.nums.getD i 0)

/-- The next step of a flush takes its place in the order of operations (R145): the next bucket that holds anything, from `b` on;
then the next record of the pen, from entry `b - 2^25` on; none when the walk is over. Answers the bucket, or 2^25 and the
entry. -/
def State.flushNext (s : State) (c : Ch) (x t b : Nat) : Option (Nat × State) :=
  let own : FlowOwner := .mailbox x
  match (if b < 2 ^ 25 then (s.usedBuckets c t b).head? else none) with
  | some i =>
    let b := s.bucketOf c t i
    some (b, s.openStep c own t b b true)
  | none =>
    (((s.chan c).penOf t).find? (fun e => decide (b - 2 ^ 25 ≤ e))).map (fun e =>
      let p := (s.chan c).penEntry e
      (2 ^ 25 + e, s.openStep c own t p.b1 p.b2 false))

/-- A step of a flush takes effect: the selected records of its bucket, or of its pen entry, are freed in one commit; `none` while
the export queue has no room. Answers how many. -/
def State.flushStep (s : State) (c : Ch) (tk : Ticket) (b mode value mask : Nat) (exp : Bool) : Option (State × Nat) :=
  let t := tk.table
  if b < 2 ^ 25 then
    let i := s.bucketSlot c t b
    let s := s.fixBucket c i
    (s.flushAt c t mode value mask exp ((s.chan c).bucketRecords (s.ftDouble c t) i)).map (fun r => (r.1.noteCommit c [i] false, r.2))
  else
    let p := (s.chan c).penEntry (b - 2 ^ 25)
    if p.occ = 0 ∨ p.occ = 3 ∨ p.table ≠ t then some (s, 0)
    else
      let pl := (s.chan c).penPlace (b - 2 ^ 25)
      let s := s.fixPenRecord c pl
      (s.flushAt c t mode value mask exp [(pl, p.occ == 2)]).map (fun r =>
        (State.penEvents s (r.1.noteCommit c [s.bucketSlot c t tk.b1, s.bucketSlot c t tk.b2] false) c, r.2))

/-- The walk goes on from `b` with `n` flows freed, or ends: MODE 0b10 then disables the table (R291). -/
def State.flushGo (s : State) (c : Ch) (x t mode b n : Nat) : State :=
  match s.flushNext c x t b with
  | some (b, s') => s'.setPhase c x 1 [b, n, (s.chan c).flow.nextTicket + 1]
  | none =>
    let s := if mode = 2 then s.oluekReg c x false (0x4100 + 16 * t) (setBit (s.reg (ftR c t)) 0 false) else s
    s.finish c x stOK n

/-- FLOW_FLUSH: every bucket, then the pen entries, each a step in the order of operations (R152, R291). -/
def execFlowFlush (c : Ch) (x : Fin 8) (s : State) : Out := .next (s.command c x 0x34 fun e s =>
  let t := e.par 0 1
  let mode := e.par 1 1 % 4
  let b := e.nums.getD 0 0
  let n := e.nums.getD 1 0
  if e.phase = 1 then
    let s := s.flowDue c
    match e.stepTicket s c 2 with
    | none => s.flushGo c x t mode b n
    | some tk =>
      if !s.ticketReady c tk then s
      else
        match (s.atTime (s.ticketTime c tk false)).flushStep c tk b mode (e.par 2 1) (e.par 3 1) ((e.par 1 1).testBit 2) with
        | none => s
        | some (s, k) => (s.dropTicket c tk.id).flushGo c x t mode (b + 1) (n + k)
  else s.gate c x (s.flowFlushChecks c e) (s.lockAll c x [flowKeyLock t] (s.flushGo c x t mode 0 0)))

/-! ## FLOW_RELOCATE (R292) -/

/-- The readable residents of a bucket that a displacement may move: single records, or heads of double ones. -/
def Chan.movable (x : Chan) (double : Bool) (i0 : Nat) : List Nat :=
  (slots4 i0).filter (fun i =>
    let v := x.flowSlot i
    !v.bad && sbOcc v.sb == (if double then 2 else 1) && (!double || (let t := x.flowSlot (i + 1); !t.bad && sbOcc t.sb == 3)))

/-- A chain of at most `d` displacements that ends in a free place, for a record that needs a place in the bucket `b`: the slot
that it leaves free there, and its moves in the order in which they are applied, from the free end on. -/
def State.chainIn (s : State) (c : Ch) (t : Nat) (double : Bool) : Nat → Nat → Option (Nat × List Move)
  | d, b =>
    let i0 := s.bucketSlot c t b
    match (s.chan c).freeIn double i0 with
    | some i => some (i, [])
    | none =>
      match d with
      | 0 => none
      | d + 1 => ((s.chan c).movable double i0).findSome? (fun i =>
          (State.chainIn s c t double d (s.otherBucket c t b double i)).map (fun r => (i, r.2 ++ [⟨i, r.1⟩])))

/-- The shortest chain of at most `n` displacements, by way of b1 before b2 and the lower slot first (DESIGN CHOICE, log
entry 19): LOC, the freed slot, the moves. -/
def State.bestChain (s : State) (c : Ch) (t : Nat) (double : Bool) (b1 b2 n : Nat) : Option (Nat × Nat × List Move) :=
  (List.range (n + 1)).findSome? (fun d =>
    match s.chainIn c t double d b1 with
    | some r => some (1, r.1, r.2)
    | none => (s.chainIn c t double d b2).map (fun r => (2, r.1, r.2)))

/-- The reads of such a search: the slots of each bucket that it looks into are corrected (R161, R162). -/
def State.chainReads (c : Ch) (t : Nat) (double : Bool) : Nat → Nat → State → State
  | d, b, s =>
    let i0 := s.bucketSlot c t b
    let s := s.fixBucket c i0
    match d with
    | 0 => s
    | d + 1 =>
      if ((s.chan c).freeIn double i0).isSome then s
      else ((s.chan c).movable double i0).foldl (fun s i => State.chainReads c t double d (s.otherBucket c t b double i) s) s

/-- A displacement moves a whole record. -/
def Chan.applyWhole (x : Chan) (now : Nat) (double : Bool) (m : Move) : Chan :=
  let x := x.applyMove now m
  if double then x.applyMove now ⟨m.src + 1, m.dst + 1⟩ else x

/-- A step of a chain may still be taken: the record at its source is readable, its other bucket is that of the destination,
and the destination is free. -/
def State.moveHolds (s : State) (c : Ch) (t : Nat) (double : Bool) (m : Move) : Bool :=
  let x := s.chan c
  let b := s.bucketOf c t m.src
  (x.movable double (m.src - m.src % 4)).contains m.src && s.otherBucket c t b double m.src == s.bucketOf c t m.dst
    && (x.flowSlot m.dst).free && (!double || (x.flowSlot (m.dst + 1)).free)

/-- The moves of a chain as numbers, and back. -/
def flatMoves (ms : List Move) : List Nat := (ms.map (fun m => [m.src, m.dst])).flatten
/-- Back. -/
def readMoves : List Nat → List Move
  | a :: b :: t => ⟨a, b⟩ :: readMoves t
  | _ => []

/-- The next step of the chain takes its place in the order of operations: a move names its two buckets, and the last step those
of the pen record (R145). -/
def State.chainStep (s : State) (c : Ch) (x t e moved i : Nat) (ms : List Move) : State :=
  let p := (s.chan c).penEntry e
  let id := (s.chan c).flow.nextTicket
  let s := match ms with
    | m :: _ => s.openStep c (.mailbox x) t (s.bucketOf c t m.src) (s.bucketOf c t m.dst) true
    | [] => s.openStep c (.mailbox x) t p.b1 p.b2 true
  s.setPhase c x 1 ([e, moved, id + 1, i] ++ flatMoves ms)

/-- The pen records `es` of a table in turn: for the first that has a chain of at most `depth` displacements its first step
begins; the command ends when none has one. -/
def State.relocGo (c : Ch) (x t depth moved : Nat) : List Nat → State → State
  | [], s => s.finish c x stOK (moved * 2 ^ 32 + ((s.chan c).penOf t).length)
  | e :: rest, s =>
    let p := (s.chan c).penEntry e
    let double := p.occ == 2
    let pl := (s.chan c).penPlace e
    let s := s.fixPenRecord c pl
    if ((s.chan c).at pl).bad || (double && ((s.chan c).at pl.tailOf).bad) then
      State.relocGo c x t depth moved rest (s.countBad c ((s.chan c).badPlace (pl, double)))
    else
      let s := State.chainReads c t double depth p.b2 (State.chainReads c t double depth p.b1 s)
      match s.bestChain c t double p.b1 p.b2 depth with
      | none => State.relocGo c x t depth moved rest s
      | some (_, i, ms) => s.chainStep c x t e moved i ms

/-- The pen records of a table from an entry on. -/
def Chan.penFrom (x : Chan) (t e : Nat) : List Nat := (x.penOf t).filter (fun i => decide (e ≤ i))

/-- A step of a chain takes effect, in one commit: a displacement, or the pen record's move to the place that the chain has freed.
Where the order of operations has changed what the step rests on, the search begins again for that record. -/
def State.relocStep (s : State) (c : Ch) (x t depth : Nat) (nums : List Nat) (tk : Ticket) : State :=
  let e := nums.getD 0 0
  let moved := nums.getD 1 0
  let i := nums.getD 3 0
  let p := (s.chan c).penEntry e
  let double := p.occ == 2
  let s := (tk.buckets.foldl (fun s b => s.fixBucket c (s.bucketSlot c t b)) s).dropTicket c tk.id
  let again := State.relocGo c x t depth moved ((s.chan c).penFrom t e) s
  if p.occ = 0 ∨ p.occ = 3 ∨ p.table ≠ t then again
  else
    match readMoves (nums.drop 4) with
    | m :: ms =>
      if !s.moveHolds c t double m then again
      else
        let s1 := s.setChan c ((s.chan c).applyWhole s.now double m)
        (s1.noteCommit c [m.src - m.src % 4, m.dst - m.dst % 4] false).chainStep c x t e moved i ms
    | [] =>
      let free := ((s.chan c).flowSlot i).free && (!double || ((s.chan c).flowSlot (i + 1)).free)
      if !free || !(tk.b1 == p.b1 && tk.b2 == p.b2) then again
      else
        let s1 := s.setChan c ((s.chan c).relocate s.now double ((s.chan c).penPlace e) (.slot 1 i, []))
        let s1 := State.penEvents s (s1.noteCommit c [s.bucketSlot c t p.b1, s.bucketSlot c t p.b2] false) c
        State.relocGo c x t depth (moved + 1) ((s1.chan c).penFrom t (e + 1)) s1

/-- The checks of FLOW_RELOCATE. -/
def State.flowRelocateChecks (s : State) (c : Ch) (e : Exec) : Checks :=
  let t := e.par 0 1
  (false,
    [e.plenIn [4], chk (decide (16 ≤ t)) stBadParam 0, chk (e.par 1 1 == 0 || decide (8 < e.par 1 1)) stBadParam 1, e.rsv 2 0xFF, e.rsv 3 0xFF,
      s.rightF c e t, chk (!s.bit (ftR c t) 0) stBadTable, s.onlyOn c],
    [])

/-- FLOW_RELOCATE: pen records move into the table along chains of displacements, one commit a step, from the free end (R292). -/
def execFlowRelocate (c : Ch) (x : Fin 8) (s : State) : Out := .next (s.command c x 0x35 fun e s =>
  let t := e.par 0 1
  let depth := e.par 1 1
  if e.phase = 1 then
    let s := s.flowDue c
    match e.stepTicket s c 2 with
    | none => State.relocGo c x t depth (e.nums.getD 1 0) ((s.chan c).penFrom t (e.nums.getD 0 0)) s
    | some tk =>
      if !s.ticketReady c tk then s
      else (s.atTime (s.ticketTime c tk false)).relocStep c x t depth e.nums tk
  else s.gate c x (s.flowRelocateChecks c e)
    (s.lockAll c x [flowKeyLock t] (State.relocGo c x t depth 0 ((s.chan c).penOf t) s)))

end Sys2Proof.Machine
end

