-- ==== Sys2Proof/Machine/CmdPlace.lean ====
section
/-! DEFINITION. The placement commands BLOCK_MIGRATE, BLOCK_REPAIR and MIRROR_SET (R293, R294, R296). The engines run the
jobs that the first two start; the engine's end is the command's (Table 13.1). -/

namespace Sys2Proof.Machine

/-- A job before its locks are granted. -/
def Job.start (src dst : Nat) (owner : Option Nat) : Job :=
  { src := src, dst := dst, owner := owner, step := 0, next := 0, dirty := [], lost := [], failed := false, passed := none }

/-- A block named by two parameter bytes: bank and block in range. -/
def blkNamed (bank block : Nat) : Bool := decide (bank < 36) && decide (block < 33)

/-- Some entry of a block has an enabled range unit. -/
def ArrayMem.blkRanged (a : ArrayMem) (blk : Nat) : Bool := a.units.any (fun p => p.1 / 4096 == blk && p.2.eff.en)

/-- The block that BLOCK_MIGRATE moves entries to: the one it names, or the first that suits (R293). -/
def State.migrateTarget (s : State) (c : Ch) (e : Exec) : Option Nat :=
  let src := e.par 0 1 * 33 + e.par 1 1
  let r := s.tableOf c (bmTable (s.reg (blkR c (e.par 0 1) (e.par 1 1))))
  let ranged := (s.planned c).blkRanged src
  if e.par 2 2 == 0xFFFF then ((s.freeBlocks c r.groups r.width r.range).filter (fun b => !ranged || isRangeBlk b)).head?
  else some (e.par 2 1 * 33 + e.par 3 1)
/-- The checks of BLOCK_MIGRATE. -/
def State.migrateChecks (s : State) (c : Ch) (e : Exec) : Checks :=
  let src := e.par 0 1 * 33 + e.par 1 1
  let w := s.reg (blkR c (e.par 0 1) (e.par 1 1))
  let t := bmTable w
  let groups := s.field (tblR c t) 3 4
  let ranged := (s.planned c).blkRanged src
  let any := e.par 2 2 == 0xFFFF
  let dst := e.par 2 1 * 33 + e.par 3 1
  (true,
    [e.plenIn [8], chk (!blkNamed (e.par 0 1) (e.par 1 1) || !wbit w 0) stBadParam 0]
      ++ (if any then [] else
        [chk (e.par 3 1 == 32) stBadParam 3, chk (!blkNamed (e.par 2 1) (e.par 3 1) || !s.blkFree c dst) stBadParam 2,
          chk (!groups.testBit (e.par 2 1 / 9)) stBadParam 2, chk (ranged && !isRangeBlk dst) stBadParam 3,
          chk (isRangeBlk dst && bmWidth w == 0) stBadParam 3])
      ++ e.rsvBytes 4 4 ++ [(s.groupClash c t groups).map (fun p => (stBadParam, p)), s.rightT c e t, s.tableChk c t, s.onlyOn c,
        chk (s.chan c).mgr.mig.isSome stBusy],
    [chk (s.migrateTarget c e).isNone stNoSpace])

/-- BLOCK_MIGRATE (R293). -/
def execBlockMigrate (c : Ch) (x : Fin 8) (s : State) : Out := .next (s.command c x 0x40 fun e s =>
  if e.phase = 1 then s
  else s.gate c x (s.migrateChecks c e)
    (match s.migrateTarget c e with
      | none => s
      | some d => (s.modMgr c (fun m => { m with mig := some (Job.start (e.par 0 1 * 33 + e.par 1 1) d (some x)) })).setPhase c x 1 []))

/-- The checks of BLOCK_REPAIR. -/
def State.repairChecks (s : State) (c : Ch) (e : Exec) : Checks :=
  let bank := e.par 0 1
  let w := s.reg (blkR c bank (e.par 1 1))
  let t := bmTable w
  (true,
    [e.plenIn [4], chk (decide (36 ≤ bank)) stBadParam 0, chk (decide (32 ≤ e.par 1 1)) stBadParam 1, chk (!wbit w 0) stBadParam 0,
      e.rsv 2 0xFF, e.rsv 3 0xFF, s.rightT c e t, s.tableChk c t, s.onlyOn c, chk (s.chan c).mgr.rep.isSome stBusy],
    [chk (!s.blkFree c (bank * 33 + 32)) stNoSpace])

/-- BLOCK_REPAIR: onto block 32 of the same bank (R294). -/
def execBlockRepair (c : Ch) (x : Fin 8) (s : State) : Out := .next (s.command c x 0x41 fun e s =>
  let bank := e.par 0 1
  if e.phase = 1 then s
  else s.gate c x (s.repairChecks c e)
    ((s.modMgr c (fun m => { m with rep := some (Job.start (bank * 33 + e.par 1 1) (bank * 33 + 32) (some x)) })).setPhase c x 1 []))

/-- The REG item of REL_MIRROR (log entry 16). -/
def mirrorItem (c : Ch) (v : Word) : BitVec 256 :=
  BitVec.ofNat 256 (ofBytes ([0x10, 2] ++ toBytes 6 0 ++ toBytes 4 (0x2010 + 4 * c.val) ++ toBytes 4 v.toNat ++ toBytes 16 0))

/-- The checks of MIRROR_SET; the channel right is needed in both channels (R269). -/
def State.mirrorChecks (s : State) (c : Ch) (e : Exec) : Checks :=
  let m := e.par 0 1
  (true,
    [e.plenIn [4], chk (decide (4 ≤ m) || (decide (e.par 1 1 % 2 = 1) && m == c.val)) stBadParam 0, e.rsv 1 0xFE, e.rsv 2 0xFF, e.rsv 3 0xFF,
      s.rightC c e, s.rightC (Fin.ofNat 4 m) e],
    [])

/-- MIRROR_SET: REL_MIRROR of the channel is written (R296). -/
def execMirrorSet (c : Ch) (x : Fin 8) (s : State) : Out := .next (s.command c x 0x43 fun e s =>
  let m := e.par 0 1
  let it := mirrorItem c (BitVec.ofNat 32 (m + 4 * (e.par 1 1 % 2)))
  s.gate c x (s.mirrorChecks c e)
    (((s.applyReg c it).journalBy c x [it]).finish c x stOK))

end Sys2Proof.Machine
end

