-- ==== Sys2Proof/Machine/CmdMisc.lean ====
section
/-! DEFINITION. The profile, test, calibration, channel, manager and statistics commands (R297 to R303, R307), and the waits
that end a command with TIMEOUT. -/

namespace Sys2Proof.Machine

/-! ## Profiles (R297, R298) -/

/-- Body words from 384 staged bytes. -/
def bodyOf (b : List Byte) : List Word := (List.range 96).map (fun i => BitVec.ofNat 32 (bytesAt b (4 * i) 4))
/-- The first of some numbers that satisfies a condition. -/
def firstOf (l : List Nat) (p : Nat → Bool) (off : Nat → Nat) : Option Nat := (l.find? p).map off
/-- Whether register word `i` of a body holds a field value that its table marks invalid. -/
def wordInvalid (b : List Word) (i : Nat) : Bool :=
  let w := pw b i
  i == 6 && fld w 9 2 == 3
    || decide (16 ≤ i) && exSrc w == 3

/-- The body offset that R297 reports for the first condition of R111, and of the current GROUPS, that fails. -/
def State.bodyFault (s : State) (c : Ch) (b : List Word) : Option Nat :=
  let n := pbNlook b
  let ks := List.range n
  let st := ldStage b
  let grp (k : Nat) : Nat := s.field (tblR c (ldTable b k)) 3 4
  let cells (lo : Nat) : List Nat := (List.range 16).map (lo + ·)
  let badKey (k i : Nat) : Bool :=
    let e := pw b i
    decide (4 ≤ exSrc e) && !(decide (exSrc e - 4 < n) && decide (st (exSrc e - 4) < st k))
  [ if 4 < n then some 0 else none,
    if 5 < pbFlowOp b ∨ (pbFlowOp b = 0 ∧ n = 0) then some 0x18 else none,
    firstOf ks (fun k => (List.range k).any (fun j => ldTable b j == ldTable b k)) (fun k => 0x20 + 4 * k),
    firstOf ks (fun k => if k = 0 then st 0 != 0 else !(st k == st (k - 1) || st k == st (k - 1) + 1)) (fun k => 0x20 + 4 * k),
    ks.findSome? (fun k => firstOf (cells (16 + 16 * k)) (badKey k) (4 * ·)),
    if pbFlowOp b = 0 then none
      else firstOf (cells 80) (fun i => decide (4 ≤ exSrc (pw b i)) && decide (n ≤ exSrc (pw b i) - 4)) (4 * ·),
    if fld (pbFlow b) 9 2 ≠ 0 ∧ n ≤ fld (pbFlow b) 11 2 then some 0x18 else none,
    firstOf (List.range 96) (wordInvalid b) (4 * ·),
    if !pbEarly b ∧ pbLns b < 128 + 86 * (pbStages b - 1) then some 0 else none,
    firstOf ks (fun k => (List.range k).any (fun j => (grp j &&& grp k) != 0)) (fun k => 0x20 + 4 * k)
  ].findSome? id

/-- EN of a profile is written by Oluek. -/
def State.writeProfEn (s : State) (c : Ch) (x p : Nat) (en : Bool) : State :=
  s.oluekReg c x false (0x2000 + 4 * p) (setBit (s.reg (profR c p)) 0 en)

/-- Steps 2 and 3 of R297: the body, and with ENABLE set, EN. -/
def State.writeProfile (s : State) (c : Ch) (x p : Nat) (b : List Word) (en : Bool) : State :=
  let s := b.zipIdx.foldl (fun s w => s.oluekReg c x true (0x200000 + 0x400 * p + 4 * w.2) w.1) s
  let s := if en then s.writeProfEn c x p true else s
  s.finish c x stOK

/-- The staged body of PROFILE_WRITE. -/
def State.stagedBody (s : State) (c : Ch) (e : Exec) : List Word :=
  match (s.chan c).stageBytes e.hf (e.stOff 4) 384 with | .bytes l => bodyOf l | .bad _ => []
/-- The checks of PROFILE_WRITE. -/
def State.profileWriteChecks (s : State) (c : Ch) (e : Exec) : Checks :=
  let bad := match (s.chan c).stageBytes e.hf (e.stOff 4) 384 with | .bytes _ => (none : Option Nat) | .bad o => some o
  (true,
    [e.plenIn [12], chk (decide (64 ≤ e.par 0 1)) stBadParam 0, e.rsv 1 0xFE, e.rsv 2 0xFF, e.rsv 3 0xFF] ++ e.stageRef 4
      ++ [chk (e.stLen 4 != 384) stBadParam 8, bad.map (fun o => (stFault, o)),
        (s.bodyFault c (s.stagedBody c e)).map (fun o => (stBadParam, o)), s.rightC c e],
    [])

/-- PROFILE_WRITE (R297). -/
def execProfileWrite (c : Ch) (x : Fin 8) (s : State) : Out := .next (s.command c x 0x50 fun e s =>
  let p := e.par 0 1
  let en := e.par 1 1 % 2 = 1
  let body := s.stagedBody c e
  if e.phase = 1 then s.stagedOr c x e 4 (if s.profActive c p then s else s.writeProfile c x p body en)
  else s.gate c x (s.profileWriteChecks c e)
    (let s := if s.bit (profR c p) 0 then s.writeProfEn c x p false else s
     if s.profActive c p then s.setPhase c x 1 [] else s.writeProfile c x p body en))

/-- The 384 body bytes of a profile and its PROF_CTRL, as they read. -/
def State.profileBytes (s : State) (c : Ch) (p : Nat) : List Byte :=
  ((List.range 96).map (fun i => toBytes 4 (s.readReg (c.val + 1) true (0x200000 + 0x400 * p + 4 * i)).toNat)).flatten
    ++ toBytes 4 (s.readReg (c.val + 1) false (0x2000 + 4 * p)).toNat
/-- The checks of PROFILE_READ. -/
def State.profileReadChecks (s : State) (c : Ch) (e : Exec) : Checks :=
  (false,
    [e.plenIn [12], chk (decide (64 ≤ e.par 0 1)) stBadParam 0, e.rsv 1 0xFF, e.rsv 2 0xFF, e.rsv 3 0xFF] ++ e.stageRef 4
      ++ [chk (decide (e.stLen 4 < 448)) stBadParam 8, s.rightC c e],
    [])

/-- PROFILE_READ (R298). -/
def execProfileRead (c : Ch) (x : Fin 8) (s : State) : Out := .next (s.command c x 0x51 fun e s =>
  let p := e.par 0 1
  let ctrl := toBytes 4 (s.readReg (c.val + 1) false (0x2000 + 4 * p)).toNat
  s.gate c x (s.profileReadChecks c e)
    ((s.modChan c (fun y => y.stagePutBytes e.hf (e.stOff 4) (padTo 448 (s.profileBytes c p)))).finish c x stOK 0 ctrl))

/-! ## TEST_MARCH (R299) -/

/-- Oluek asks for a bank's owner to change (R437). -/
def State.askOwner (s : State) (c : Ch) (bank owner : Nat) : State :=
  s.landAll .oluek (c.val + 1) false (0x9010 + 4 * bank) (setFld (s.reg (spadR c bank)) 0 2 owner)

/-- The checks of TEST_MARCH. -/
def State.marchChecks (s : State) (c : Ch) (e : Exec) : Checks :=
  let bank := e.par 0 1
  let b := e.par 1 1
  (false,
    [e.plenIn [4], chk (bank == 0 || decide (15 < bank)) stBadParam 0, e.rsv 1 0xF8, chk (b / 2 % 4 == 3) stBadParam 1, e.rsv 2 0xFF, e.rsv 3 0xFF,
      s.rightC c e, chk (b % 2 == 1 && s.bit (spadR c bank) 6) stBusy],
    [])

/-- TEST_MARCH: the bank is lent to the test engine, tested and returned (R299, R445). In phase 2 its test runs; MARCH_END leaves
the result with the command, in phase 4. -/
def execTestMarch (c : Ch) (x : Fin 8) (s : State) : Out := .next (s.command c x 0x60 fun e s =>
  let bank := e.par 0 1
  let b := e.par 1 1
  let owner := s.spadOwner c bank
  match e.phase with
  | 1 =>
    if owner ≠ 3 ∨ (s.chan c).march.isSome then s
    else
      let s := s.landAll .oluek (c.val + 1) false 0x9050 (BitVec.ofNat 32 (1 + 16 * bank + 256 * (b % 8)))
      s.setPhase c x 2 e.nums
  | 2 => s
  | 4 => (s.askOwner c bank (e.nums.getD 0 0)).setPhase c x 3 e.nums
  | 3 =>
    if owner ≠ e.nums.getD 0 0 then s
    else if e.nums.getD 1 0 = 0 then s.finish c x stOK
    else s.finish c x stFault ((e.nums.getD 1 0 - 1) * 8)
  | _ => s.gate c x (s.marchChecks c e) ((s.askOwner c bank 3).setPhase c x 1 [owner]))

/-! ## CAL_RUN (R300) -/

/-- The allocated blocks that CAL_RUN names. -/
def State.calNamed (s : State) (c : Ch) (bank block : Nat) : List Nat :=
  ((s.allocBlocks c).filter (fun q => (bank == 0xFF || q.1 == bank) && (block == 0xFF || q.2.1 == block))).map (fun q => q.1 * 33 + q.2.1)
/-- A block has a pass queued or in progress. -/
def Chan.passQueued (x : Chan) (blk : Nat) : Bool :=
  x.maint.prio.contains (blk / 33, blk % 33) || x.inPass (blk / 33) (blk % 33)
/-- The block's table holds a sample (R342). -/
def State.hasSample (s : State) (c : Ch) (blk : Nat) : Bool :=
  !(sget (fun _ => []) (s.chan c).maint.samples (bmTable (s.reg (blkR c (blk / 33) (blk % 33))))).isEmpty
/-- Queue the passes that a CAL_RUN still owes, but those that are queued. -/
def State.queueOwed (s : State) (c : Ch) (l : List Nat) : State :=
  (l.filter (fun b => !(s.chan c).passQueued b)).foldl (fun s b =>
    (s.modChan c (fun x => x.queuePass (b / 33) (b % 33))).setB (calR c (b / 33) (b % 33)) 21 true) s
/-- A pass of a block has ended: each CAL_RUN that owes it counts it. -/
def State.calRunPassed (s : State) (c : Ch) (blk : Nat) (ok : Bool) : State :=
  s.modMgr c (fun m => { m with execs := m.execs.map (fun p =>
    if p.2.code == 0x61 && p.2.phase == 1 && (p.2.nums.drop 1).contains blk then
      (p.1, { p.2 with nums := (p.2.nums.headD 0 + b2n ok) :: (p.2.nums.drop 1).filter (fun b => b != blk) })
    else p) })

/-- The checks of CAL_RUN. -/
def State.calRunChecks (s : State) (c : Ch) (e : Exec) : Checks :=
  let bank := e.par 0 1
  let block := e.par 1 1
  (false,
    [e.plenIn [4], chk (decide (36 ≤ bank) && bank != 0xFF) stBadParam 0, chk (decide (33 ≤ block) && block != 0xFF) stBadParam 1,
      e.rsv 2 0xFF, e.rsv 3 0xFF, s.rightC c e, s.onlyOn c],
    [])

/-- CAL_RUN: one pass of each named allocated block whose table holds a sample, as a priority pass (R300). `nums` holds the
blocks calibrated and then those still owed; a pass that a tide period boundary drops is queued again. -/
def execCalRun (c : Ch) (x : Fin 8) (s : State) : Out := .next (s.command c x 0x61 fun e s =>
  let bank := e.par 0 1
  let block := e.par 1 1
  let named := s.calNamed c bank block
  let ending (s : State) (done : Nat) : State :=
    let bad := (named.filter (fun b => s.excl c (b / 33) (b % 33))).length
    let code := if bank ≠ 0xFF ∧ block ≠ 0xFF then toBytes 1 (s.field (calR c bank block) 0 5) else []
    s.finish c x (if bad = 0 then stOK else stFault) (done * 2 ^ 32 + bad) code
  let owed (l : List Nat) : List Nat := l.filter (fun b => named.contains b && s.hasSample c b)
  if e.phase = 1 then
    let l := owed (e.nums.drop 1)
    if l = [] then ending s (e.nums.headD 0) else s.queueOwed c l
  else s.gate c x (s.calRunChecks c e)
    (let l := owed named
     if l = [] then ending s 0 else (s.queueOwed c l).setPhase c x 1 (0 :: l)))

/-! ## CHANNEL_DRAIN, CHANNEL_RESUME (R301, R302) -/

/-- The checks of CHANNEL_DRAIN. -/
def State.drainChecks (s : State) (c : Ch) (e : Exec) : Checks := (false, [e.plenIn [4], e.rsv 0 0xFE, e.rsv 1 0xFF, s.rightC c e], [])

/-- CHANNEL_DRAIN: ADMIT_EN clears, INFLIGHT clears, and with TO_IDLE the channel is asked to enter IDLE. -/
def execChannelDrain (c : Ch) (x : Fin 8) (s : State) : Out := .next (s.command c x 0x70 fun e s =>
  let idle := e.par 0 1 % 2 = 1
  let drained (s : State) : State :=
    if !(s.chan c).charges.isEmpty then s
    else if idle then
      let s := s.writeReq c 2
      if (s.chan c).power = .idle then s.finish c x stOK else s.setPhase c x 2 []
    else s.finish c x stOK
  match e.phase with
  | 1 => drained s
  | 2 => if (s.chan c).power = .idle then s.finish c x stOK else s
  | _ => s.gate c x (s.drainChecks c e) (drained ((s.clearAdmit c).setPhase c x 1 [])))

/-- ADMIT_EN is set by Oluek. -/
def State.setAdmit (s : State) (c : Ch) : State := s.landAll .oluek (c.val + 1) false 4 (setBit (s.reg (chCtrl c)) 0 true)

/-- The checks of CHANNEL_RESUME. -/
def State.resumeChecks (s : State) (c : Ch) (e : Exec) : Checks := (false, [e.plenIn [0], s.rightC c e, chk (s.chan c).faulted stFault], [])

/-- CHANNEL_RESUME: ON is requested, and ADMIT_EN set once the channel is READY. -/
def execChannelResume (c : Ch) (x : Fin 8) (s : State) : Out := .next (s.command c x 0x71 fun e s =>
  let refused (s : State) : State := s.finish c x (if (s.chan c).faulted then stFault else stBusy)
  let ready (s : State) : State :=
    if (s.chan c).power = .on ∧ (s.chan c).ready then (s.setAdmit c).finish c x stOK
    else if (s.chan c).req ≠ some .on then refused s else s
  if e.phase = 1 then ready s
  else s.gate c x (s.resumeChecks c e)
    (if (s.chan c).power = .on then (s.setAdmit c).finish c x stOK
     else
       let s := s.writeReq c 1
       if (s.chan c).power = .idle ∧ (s.chan c).req ≠ some .on then refused s else s.setPhase c x 1 []))

/-- The limit of the wait that a command is in, if it has one (R297, R301). -/
def State.waitLimit (s : State) (c : Ch) (e : Exec) : Option Nat :=
  let ms := if e.par 2 2 = 0 then 100 else e.par 2 2
  match e.code, e.phase with
  | 0x50, 1 => if s.profActive c (e.par 0 1) then some (msT 1) else none
  | 0x70, 1 => if (s.chan c).charges.isEmpty then none else some (msT ms)
  | 0x70, 2 => if (s.chan c).power = .idle then none else some (msT ms)
  | _, _ => none

/-- COMMAND_TIMEOUT: a wait stated in a command exceeds its limit: the command ends TIMEOUT (Table 10.1). -/
def execCommandTimeout (c : Ch) (x : Fin 8) (s : State) : Out :=
  match (s.chan c).mgr.exec? x with
  | none => .next s
  | some e =>
    match s.waitLimit c e with
    | none => .next s
    | some l => if e.resp.isSome || !(s.chan c).mgr.up then .next s else .next ((s.atTime (e.since + l)).finish c x stTimeout)

/-! ## MANAGER_UPDATE (R262, R263, R303) -/

/-- Oluek's slot that is not active gets an image. -/
def Flash.putImage (f : Flash) (b : List Byte) : Flash := if f.olActive then { f with olA := b } else { f with olB := b }

/-- The checks of MANAGER_UPDATE. -/
def State.updateChecks (s : State) (c : Ch) (e : Exec) : Checks :=
  (false, [e.plenIn [8]] ++ e.stageRef 0 ++ [s.rightC c e, chk ((s.chan c).mgr.locks.any (fun l => decide (8 ≤ l.2.holder))) stBusy],
    [chk ((s.chan c).othState == .retiring) stEpoch])

/-- MANAGER_UPDATE: no further mailbox is taken; when the other commands have ended, the image is checked and written to the
inactive slot. MGR_UPDATE_HALT goes on from there. -/
def execManagerUpdate (c : Ch) (x : Fin 8) (s : State) : Out := .next (s.command c x 0x72 fun e s =>
  let m := (s.chan c).mgr
  match e.phase with
  | 1 =>
    if 1 < m.execs.length ∨ !m.items.isEmpty then s
    else
      let quit (st d : Nat) : State := (s.modMgr c (fun m => { m with upd := none })).finish c x st d
      match (s.chan c).stageBytes e.hf (e.stOff 0) (e.stLen 0) with
      | .bad o => quit stFault o
      | .bytes b =>
        if !imageGood false s.boot.revoked b then quit stImage 0
        else (s.modFlash c (fun f => f.putImage b)).setPhase c x 2 []
  | 2 => s
  | _ => s.gate c x (s.updateChecks c e)
    ((s.modMgr c (fun m => { m with
      upd := some ⟨e.mbx, e.hf, e.seq, (bytesAt e.req 1 1).testBit 1, (s.flash c).olActive, none⟩ })).setPhase c x 1 []))

/-- MGR_UPDATE_HALT: the new image is marked active and the core halts; PENDING mailboxes get BUSY (Table 09.6). -/
def execMgrUpdateHalt (c : Ch) (s : State) : Out :=
  let m := (s.chan c).mgr
  match m.upd with
  | none => .next s
  | some u =>
    if u.haltAt.isSome || !m.execs.any (fun p => p.2.code == 0x72 && p.2.phase == 2) then .next s
    else
      let s := s.modFlash c (fun f => { f with olActive := !u.old })
      let s := s.modMgr c (fun m => { m with
        up := false, loading := true, execs := [], rung := [], upd := some { u with haltAt := some s.now } })
      let ns := (List.range 16).filter (fun n => (m.box n).state == .pending)
      .next (ns.foldl (fun s n => s.hwRespond c stBusy n) s)

/-- The response of a MANAGER_UPDATE whose command the halt ended. -/
def State.answerUpdate (s : State) (c : Ch) (u : MgrUpd) (st d : Nat) : State :=
  (s.modMgr c (fun m => { m with upd := none })).sendFinal c u.mbx (responseBytes st u.seq 0x72 u.mbx d [])

/-- MGR_UPDATE_COMPLETE: the new Oluek sets MGR_UP within 200 ms of the halt (R263), and answers the command with its version
(Table 09.6). -/
def execMgrUpdateComplete (c : Ch) (s : State) : Out :=
  match (s.chan c).mgr.upd with
  | none => .next s
  | some u =>
    if (match u.haltAt with | some t => decide (t + msT 200 < s.now) | none => true) then .next s
    else
      let v := imgVersion ((s.flash c).image (s.flash c).olActive)
      let s := (s.setReg (chR c 0xA010) (BitVec.ofNat 32 v)).modMgr c (fun m => { m with up := true, loading := false, served := s.now, sheepAt := s.now })
      .next ((s.answerUpdate c u stOK v).evC c 390)

/-- MGR_UPDATE_FALLBACK: 200 ms after the halt the previous image is active again and restarts; it answers IMAGE_INVALID
(R263). -/
def execMgrUpdateFallback (c : Ch) (s : State) : Out :=
  match (s.chan c).mgr.upd with
  | none => .next s
  | some u =>
    match u.haltAt with
    | none => .next s
    | some t =>
      let s := s.atTime (t + msT 200)
      let s := (s.modFlash c (fun f => { f with olActive := u.old })).startOluek c
      if !(s.chan c).mgr.up then .next s
      else .next (((s.evC c 389).answerUpdate c u stImage 0).evC c 391)

/-! ## STATS_READ (R307) -/

/-- The CNT-class registers of a channel's control area, in ascending offset (Table 16.23). -/
def cntOffsets : List Nat :=
  [0x1008, 0x1020, 0x1024, 0x102C, 0x1030]
    ++ ([(0x2100, 10), (0x3100, 6), (0x4020, 2), (0x4400, 16), (0x5100, 7), (0x6900, 8), (0x7010, 7), (0x8100, 10), (0x9100, 10), (0xA100, 8),
      (0xB200, 1), (0xC100, 3), (0xD100, 7), (0xE100, 2)].map (fun p => (List.range p.2).map (fun i => p.1 + 4 * i))).flatten

/-- The bytes that STATS_READ stages: the time, the number of counters, and each counter's offset and value. -/
def State.statsBytes (s : State) (c : Ch) : List Byte :=
  toBytes 6 s.time.seconds ++ toBytes 4 s.time.nanos ++ toBytes 2 cntOffsets.length ++ toBytes 4 0
    ++ (cntOffsets.map (fun o => toBytes 4 o ++ toBytes 4 (s.readReg (c.val + 1) false o).toNat)).flatten
/-- The checks of STATS_READ. -/
def State.statsChecks (s : State) (c : Ch) (e : Exec) : Checks :=
  (false,
    [e.plenIn [12], e.rsv 0 0xFE, e.rsv 1 0xFF, e.rsv 2 0xFF, e.rsv 3 0xFF] ++ e.stageRef 4
      ++ [chk (decide (e.stLen 4 < 16 + 8 * cntOffsets.length)) stBadParam 8, s.rightC c e],
    [])

/-- STATS_READ: the time and every counter, with CLEAR loading 0. -/
def execStatsRead (c : Ch) (x : Fin 8) (s : State) : Out := .next (s.command c x 0x90 fun e s =>
  s.gate c x (s.statsChecks c e)
    (let s := s.modChan c (fun y => y.stagePutBytes e.hf (e.stOff 4) (s.statsBytes c))
     let s := if e.par 0 1 % 2 = 1 then cntOffsets.foldl (fun s o => s.setReg (chR c o) 0) s else s
     s.finish c x stOK cntOffsets.length))

end Sys2Proof.Machine
end

