-- ==== Sys2Proof/Machine/CmdImage.lean ====
section
/-! DEFINITION. Table images, restore and replay (R304 to R306, R505, R506). -/

namespace Sys2Proof.Machine

/-! ## The body of an image (R505) -/

/-- A REG item for a register as it stands. -/
def State.regItemOf (s : State) (c : Ch) (ind : Bool) (off : Nat) : BitVec 256 :=
  regItem ind off (s.reg (if ind then chI c off else chR c off))
/-- The REG item of a table: ADKEY_MASK and RANGE, which no register holds, follow the value in bytes 16 to 24 (log entry 20). -/
def State.tableItem (s : State) (c : Ch) (t : Nat) : BitVec 256 :=
  let r := s.tableOf c t
  s.regItemOf c false (0x1400 + 4 * t) ||| BitVec.ofNat 256 (r.mask.toNat * 2 ^ 64 + b2n r.range * 2 ^ 56)
/-- Offsets of the registers of a profile body, but for its read-only words (Table 04.7). -/
def bodyOffsets (p : Nat) : List Nat :=
  ((List.range 96).filter (fun i => decide (i < 12) || decide (16 ≤ i))).map (fun i => 0x200000 + 0x400 * p + 4 * i)
/-- The REG and EPOCH items of an image: block map, tables, flow tables, profiles, epochs and mirror. -/
def State.imageRegs (s : State) (c : Ch) : List (BitVec 256) :=
  let tabs := (List.range 256).filter (fun t => s.bit (tblR c t) 0)
  (s.allocBlocks c).map (fun q => s.regItemOf c true (0x100000 + 0x100 * q.1 + 4 * q.2.1))
    ++ tabs.map (s.tableItem c)
    ++ [s.regItemOf c false 0x4008, s.regItemOf c false 0x400C]
    ++ ((List.range 16).map (fun t => s.regItemOf c false (0x4104 + 16 * t) :: s.regItemOf c false (0x4100 + 16 * t)
        :: (List.range 8).map (fun k => s.regItemOf c false (0x4200 + 0x20 * t + 4 * k)))).flatten
    ++ ((List.range 64).map (fun p => (bodyOffsets p).map (s.regItemOf c true) ++ [s.regItemOf c false (0x2000 + 4 * p)])).flatten
    ++ [s.regItemOf c false 0x5000, mirrorItem c (s.reg (modR (0x2010 + 4 * c.val))), s.epochItem c]
/-- Array items for every VALID word, its range segments and its AD pair (R505). -/
def State.imageArray (s : State) (c : Ch) : List (BitVec 256) :=
  let a := s.planned c
  let ws := (a.words.filter (fun p => ecfValid p.2.ecf && s.bit (blkR c (p.1 / 4096 / 33) (p.1 / 4096 % 33)) 0)).map (·.1)
  let t (k : Nat) : Nat := bmTable (s.reg (blkR c (k / 4096 / 33) (k / 4096 % 33)))
  let w (k : Nat) : Nat := bmWidth (s.reg (blkR c (k / 4096 / 33) (k / 4096 % 33)))
  let pairs := (ws.map (fun k => k - k % 2)).dedup
  pairs.map (fun k => keyItem 3 (t k) k (toBytes 8 (a.pairAd (k / 2)).toNat))
    ++ (pairs.filter (fun k => hasUnits (w k) k)).map (fun k => keyItem 2 (t k) k (rangeImage (a.unit3 k).eff (a.unit3 (k + 1)).eff))
    ++ ws.map (fun k => keyItem 1 (t k) k (wordImage (a.word k)))
/-- The flow entries of an image: every occupied slot and pen entry with its location. -/
def State.imageFlows (s : State) (c : Ch) : List Byte :=
  let x := s.chan c
  let slots := sortKeys (((x.hbm.map (·.1) ++ x.flow.lines.map (·.slot)).filter (fun i => decide (i < flowSlots) && !(x.flowSlot i).free)))
  (slots.map (fun i => toBytes 8 i ++ toBytes 64 (x.flowSlot i).data.toNat)).flatten
    ++ (x.flow.pen.map (fun p => toBytes 8 (0xFFFFFFFF00000000 + p.1) ++ toBytes 64 p.2.data.toNat)).flatten
/-- First HBM unit of the extended AD region, and its size in units (Table 01.3). -/
def extBase : Nat := 0x200000000 / 64
/-- Units of the extended AD region. -/
def extUnits : Nat := 0x20000000 / 64
/-- The extended AD region as stored. -/
def Chan.imageExt (x : Chan) : List Byte := ((List.range extUnits).map (fun i => toBytes 64 (x.hbmSlot (extBase + i)).data.toNat)).flatten

/-- A flash record of a table image (R505, Table 20.4). -/
def imageBytes (jseq gen chan flags : Nat) (body : List Byte) : List Byte :=
  let body := padTo (roundUp body.length 32) body
  let b := toBytes 4 0x4A494D47 ++ toBytes 4 0 ++ toBytes 8 jseq ++ toBytes 4 gen ++ toBytes 1 chan ++ toBytes 1 flags ++ toBytes 2 0
    ++ toBytes 8 (64 + body.length) ++ body ++ toBytes 24 0
  b ++ toBytes 4 (crc32c b).toNat ++ toBytes 4 0x5EA1C0DE
/-- LEN of a table image. -/
def tiLen (b : List Byte) : Nat := bytesAt b 24 8
/-- GENERATION. -/
def tiGen (b : List Byte) : Nat := bytesAt b 16 4
/-- FLOWS. -/
def tiFlows (b : List Byte) : Bool := (bytesAt b 21 1).testBit 0
/-- EXT_AD. -/
def tiExt (b : List Byte) : Bool := (bytesAt b 21 1).testBit 1
/-- An image is good when its COMMIT and CRC are good (R505). -/
def tiGood (b : List Byte) : Bool :=
  let n := tiLen b
  bytesAt b 0 4 == 0x4A494D47 && decide (64 ≤ n) && decide (n ≤ b.length) && bytesAt b (n - 4) 4 == 0x5EA1C0DE
    && bytesAt b (n - 8) 4 == (crc32c (b.take (n - 8))).toNat
/-- The newest good image. -/
def Flash.newest (f : Flash) : Option (List Byte) := f.images.reverse.find? tiGood
/-- The image of a generation. -/
def Flash.generation (f : Flash) (g : Nat) : Option (List Byte) := f.images.reverse.find? (fun b => tiGen b == g)
/-- Bytes of the image area (Table 20.3). -/
def imageArea : Nat := 14208 * 2 ^ 20
/-- Erase the oldest images, but never the newest good one, until `room` bytes fit; `n` at most. -/
def makeRoom (keep : Option (List Byte)) (room : Nat) : Nat → List (List Byte) → List (List Byte)
  | 0, l => l
  | n + 1, l =>
    if (l.map List.length).foldl (· + ·) 0 + room ≤ imageArea then l
    else makeRoom keep room n (dropFirst (fun b => some b != keep) l)

/-- A new table image is written to flash (R304, R505): the state after it, or none when it does not fit. -/
def State.saveImage (s : State) (c : Ch) (flows ext : Bool) : Option State :=
  let f := s.flash c
  let items := s.imageRegs c ++ s.imageArray c
  let body := (items.map (fun i => toBytes 32 i.toNat)).flatten ++ (if flows then s.imageFlows c else [])
    ++ (if ext then (s.chan c).imageExt else [])
  let img := imageBytes f.jseq (f.gen + 1) c.val (b2n flows + 2 * b2n ext) body
  let keep := f.newest
  let left := makeRoom keep img.length f.images.length f.images
  if imageArea < (left.map List.length).foldl (· + ·) 0 + img.length then none
  else
    let s := s.modFlash c (fun f => { f with
      images := left ++ [img], gen := f.gen + 1, truncated := false, recs := f.recs.filter (fun r => decide (f.jseq ≤ r.jseq)) })
    some ((s.count (modR 0x8114) 1).evM 135)

/-- The checks of IMAGE_SAVE. -/
def State.imageSaveChecks (s : State) (c : Ch) (e : Exec) : Checks :=
  (false, [e.plenIn [4], e.rsv 0 0xFC, e.rsv 1 0xFF, e.rsv 2 0xFF, e.rsv 3 0xFF, s.rightC c e],
    [chk ((s.chan c).othState != .free) stEpoch])

/-- IMAGE_SAVE (R304). -/
def execImageSave (c : Ch) (x : Fin 8) (s : State) : Out := .next (s.command c x 0x80 fun e s =>
  s.gate c x (s.imageSaveChecks c e)
    (match s.saveImage c (e.par 0 1 % 2 == 1) ((e.par 0 1).testBit 1) with
      | none => (s.evM 142).finish c x stNoSpace
      | some s => s.finish c x stOK (s.flash c).gen))

/-! ## Restore and replay (R506) -/

/-- A step of a restore: an item, the flow records and the extended AD region of the image, or the move of a block's entries
that a journaled fence stands for (R306). -/
inductive RStep
  | item (it : BitVec 256)
  | bulk
  | move (src dst : Nat)
deriving DecidableEq, Repr

/-- The 32-byte items at the front of a body. -/
def bodyItems : Nat → List Byte → List (BitVec 256) × List Byte
  | 0, b => ([], b)
  | n + 1, b =>
    let ty := bytesAt b 0 1
    if b.length < 32 ∨ ty = 0 ∨ 0x11 < ty then ([], b)
    else
      let r := bodyItems n (b.drop 32)
      (BitVec.ofNat 256 (bytesAt b 0 32) :: r.1, r.2)
/-- The body of a table image, without header and trailer. -/
def tiBody (b : List Byte) : List Byte := (b.take (tiLen b - 32)).drop 32
/-- Bytes of the extended AD region that an image holds, at the end of its body. -/
def tiExtLen (b : List Byte) : Nat := if tiExt b then 64 * extUnits else 0
/-- The items of a table image, and the flow entries and padding after them. -/
def tiSplit (b : List Byte) : List (BitVec 256) × List Byte :=
  bodyItems (b.length / 32) ((tiBody b).take ((tiBody b).length - tiExtLen b))
/-- The items of a table image. -/
def tiItems (b : List Byte) : List (BitVec 256) := (tiSplit b).1
/-- Width of each table by the TBL_CFG items among some. -/
def itemWidth (its : List (BitVec 256)) (t : Nat) : Nat :=
  match its.find? (fun i => itemType i == 0x10 && itemField i 1 1 == 0 && itemField i 8 4 == 0x1400 + 4 * t) with
  | some i => itemField i 12 4 / 2 % 4
  | none => 0
/-- The records to replay from JSEQ `j` up to, but not including, `last`, and whether a bad record stopped it. -/
def Flash.replay (f : Flash) (last : Nat) : Nat → Nat → List JRec × Bool
  | 0, _ => ([], false)
  | n + 1, j =>
    if last ≤ j then ([], false)
    else match f.recs.find? (fun r => r.jseq == j) with
      | none => ([], false)
      | some r =>
        if !r.good then ([], true)
        else
          let q := f.replay last n (j + 1)
          (r :: q.1, q.2)
/-- The first JSEQ that is not committed. -/
def Flash.head (f : Flash) : Nat := match f.prog with | p :: _ => p.1.jseq | [] => f.jseq

/-- The JSEQ at which a command's replay ends: the last record committed when it started (R305). -/
def Flash.replayEnd (f : Flash) (e : Exec) : Nat := if e.phase = 0 then f.head else e.nums.getD 2 0
/-- The records that a command's restore of an image replays, and whether a bad record stopped it. -/
def Flash.records (f : Flash) (e : Exec) (img : List Byte) : List JRec × Bool :=
  f.replay (f.replayEnd e) f.recs.length (bytesAt img 8 8)

/-- Two neighbouring journal items are a fence's: one allocates a block, and the next releases a block of the same width and
table (R306). They give source and target. -/
def fencePair (a b : BitVec 256) : Option (Nat × Nat) :=
  let isMap (i : BitVec 256) : Bool := itemType i == 0x10 && itemField i 1 1 == 1
  let v (i : BitVec 256) : Nat := itemField i 12 4
  match blkIdx (itemField a 8 4) 0x100000, blkIdx (itemField b 8 4) 0x100000 with
  | some (p, q), some (r, t) =>
    if isMap a && isMap b && v a % 2 == 1 && v b % 2 == 0 && natBits (v a) 1 10 == natBits (v b) 1 10 then
      some (r * 33 + t, p * 33 + q)
    else none
  | _, _ => none
/-- The steps of the journal's items: replay applies a fence where it meets one. -/
def journalSteps : List (BitVec 256) → List RStep
  | [] => []
  | a :: t =>
    let m := match t.head?.bind (fencePair a) with | some p => [RStep.move p.1 p.2] | none => []
    RStep.item a :: m ++ journalSteps t
/-- The write items by which the entries of a block of table `t` move to another one and the first one comes into the free state
(R281, R306). -/
def ArrayMem.moveItems (a : ArrayMem) (t src dst : Nat) : List (BitVec 256) :=
  let here (b k : Nat) : Bool := k / 4096 == b
  let to_ (k : Nat) : Nat := dst * 4096 + k % 4096
  let segs := ((a.units.filter (fun p => here src p.1)).map (fun p => p.1 - p.1 % 2)).dedup
  (a.words.filter (fun p => here dst p.1)).map (fun p => ecfItem t p.1 0)
    ++ (a.ads.filter (fun p => here src (2 * p.1))).map (fun p => keyItem 3 t (to_ (2 * p.1)) (toBytes 8 (a.pairAd p.1).toNat))
    ++ (if dst % 33 < 24 then [] else segs.map (fun k => keyItem 2 t (to_ k) (rangeImage (a.unit3 k).eff (a.unit3 (k + 1)).eff)))
    ++ (a.words.filter (fun p => here src p.1)).map (fun p => keyItem 1 t (to_ p.1) (wordImage p.2))
    ++ a.freeBlkItems t src
/-- The steps of a restore: the image in the write order of R213, its flows, then the journal records. -/
def restoreSteps (img : List Byte) (recs : List JRec) : List RStep :=
  let its := tiItems img
  let entry (it : BitVec 256) : Nat :=
    let k := wordKey (itemBank it) (itemBlock it) (itemWord it)
    k - k % widthWords (itemWidth its (itemTable it))
  let first (it : BitVec 256) : Bool := itemType it == 1 && entry it == wordKey (itemBank it) (itemBlock it) (itemWord it)
  (writeOrder first entry its).map RStep.item ++ [.bulk] ++ journalSteps ((recs.map (·.items)).flatten)

/-- A flow table is enabled by a REG item. -/
def enablesFlow (it : BitVec 256) : Option Nat :=
  if itemField it 1 1 = 0 ∧ inArr (itemField it 8 4) 0x4100 16 16 ∧ itemField it 12 4 % 2 = 1 then some ((itemField it 8 4 - 0x4100) / 16) else none
/-- A REG item of a restore takes effect: a profile is disabled before its body changes, the region of a flow table is
zeroed before it is enabled, a table's record takes the item's ADKEY_MASK, and REL_MIRROR is the channel's own. -/
def State.restoreReg (s : State) (c : Ch) (it : BitVec 256) : State :=
  let off := itemField it 8 4
  let v : Word := BitVec.ofNat 32 (itemField it 12 4)
  if itemField it 1 1 = 2 then s.applyReg c (mirrorItem c v)
  else if itemField it 1 1 = 1 ∧ 0x200000 ≤ off then
    let p := (off - 0x200000) / 0x400
    let s := if s.bit (profR c p) 0 then s.landAll .oluek (c.val + 1) false (0x2000 + 4 * p) (setBit (s.reg (profR c p)) 0 false) else s
    s.applyReg c it
  else
    let s := match enablesFlow it with
      | some t =>
        if s.bit (ftR c t) 0 then s
        else ((s.landAll .oluek (c.val + 1) false (0x4100 + 16 * t) (setBit v 0 false)).zeroFlowTable c t)
      | none => s
    let s := s.applyReg c it
    if itemField it 1 1 = 0 ∧ inArr off 0x1400 4 256 then
      let t := (off - 0x1400) / 4
      let mask := itemField it 16 8
      if wbit v 0 then
        s.setTable c t ⟨fld v 1 2, (itemField it 24 1).testBit 0, fld v 3 4, BitVec.ofNat 64 (if mask = 0 then 2 ^ 64 - 1 else mask), []⟩
      else s.setTable c t TableRec.none_
    else s

/-- The head of a double record that a restore has placed and whose tail comes next: its location, table, data and sideband
byte. -/
structure RestoredHead where
  loc : Nat
  table : Nat
  data : BitVec 512
  b6 : BitVec 8
deriving DecidableEq, Repr

/-- A flow table that holds a slot. -/
def State.tableAt (s : State) (c : Ch) (loc : Nat) : Option Nat :=
  (List.range 16).find? (fun t => s.bit (ftR c t) 0 && decide ((s.ftRange c t).1 ≤ loc) && decide (loc < (s.ftRange c t).2))
/-- Store an entry: a slot with its sideband, or a pen entry of a record whose head is in entry `head` and whose key is `key`. -/
def State.putEntry (s : State) (c : Ch) (loc t head key : Nat) (data : BitVec 512) (b6 : BitVec 8) : State :=
  let v : HbmSlot := ⟨data, mkSb data b6⟩
  if loc < flowSlots then s.modChan c (fun x => x.writeSlot s.now loc v)
  else
    let b := s.flowBuckets c t key
    s.modChan c (fun x => x.setPen (loc % 4096) (mkPen v t b.1 b.2 (head % 4096)))
/-- The tail of a double record: AGE_CLASS and STATIC as its head's (R129), in the pen the head's table and both entries with the
buckets of the whole key (R153). -/
def State.putTail (s : State) (c : Ch) (h : RestoredHead) (loc : Nat) (data : BitVec 512) : State :=
  let key := frKey h.data * 2 ^ 320 + frKey data
  let s := if h.loc < flowSlots then s else s.putEntry c h.loc h.table h.loc key h.data h.b6
  s.putEntry c loc h.table h.loc key data (mkB6 3 (natBits h.b6.toNat 2 3) (h.b6.getLsbD 5))
/-- One flow entry of an image goes to its place. The image holds no sideband: OCC follows from the table's record form, the
other fields of a record are free values (log entry 21). `prev` is the head of a double record whose tail this may be. -/
def State.restoreFlow (s : State) (c : Ch) (loc : Nat) (data : BitVec 512) (prev : Option RestoredHead) : State × Option RestoredHead :=
  match prev with
  | some h => (s.putTail c h loc data, none)
  | none =>
    let r := s.free
    let table := if loc < flowSlots then r.2.tableAt c loc else some (natBits r.1.toNat 4 4)
    match table with
    | none => (r.2, none)
    | some t =>
      let double := r.2.ftDouble c t
      let b6 := mkB6 (if double then 2 else 1) (natBits r.1.toNat 0 3) (r.1.getLsbD 3)
      ((r.2.putEntry c loc t loc (frKey data) data b6).addFlows c t true, if double then some ⟨loc, t, data, b6⟩ else none)

/-- The flow entries of an image. -/
def State.restoreFlows (c : Ch) : Nat → List Byte → Option RestoredHead → State → State
  | 0, _, _, s => s
  | n + 1, b, prev, s =>
    let r := s.restoreFlow c (bytesAt b 0 8) (BitVec.ofNat 512 (bytesAt b 8 64)) prev
    State.restoreFlows c n (b.drop 72) r.2 r.1

/-- The flow records and the extended AD region of an image are restored. -/
def State.restoreBulk (s : State) (c : Ch) (img : List Byte) : State :=
  let flows := (tiSplit img).2
  let n := if tiFlows img then flows.length / 72 else 0
  let s := State.penEvents s (State.restoreFlows c n flows none s) c
  if !tiExt img then s
  else
    let b := (tiBody img).drop (32 * (tiItems img).length + 72 * n)
    s.modChan c (fun x => (List.range extUnits).foldl (fun x i => x.setHbm (extBase + i) (mkUnit64 (BitVec.ofNat 512 (bytesAt b (64 * i) 64)))) x)

/-- Oluek's record of blocks and of changed entries is rebuilt from the registers and the array; a slot in slack water or
retiring is to be swept (R506). -/
def State.rebuild (s : State) (c : Ch) : State :=
  let s := s.modMgr c (fun m => { m with tables := m.tables.map (fun p =>
    (p.1, { p.2 with blocks := sortKeys ((s.tableBlocks c p.1).map (fun q => q.1 * 33 + q.2.1)) })) })
  let a := s.planned c
  let mixed := ((s.chan c).mgr.tables.map (fun p => (a.entries p.2).filter (fun k => a.live 0 k != a.live 1 k))).flatten
  let x := s.chan c
  match x.othState with
  | .staged => s.modEp c (fun e => { e with stagedWork := sortKeys mixed, retireWork := [] })
  | .slack => s.modEp c (fun e => { (e.setSlot x.othSlot .retiring) with stagedWork := [], retireWork := sortKeys mixed, swept := 0 })
  | .retiring => s.modEp c (fun e => { e with stagedWork := [], retireWork := sortKeys mixed, swept := 0 })
  | _ => s.modEp c (fun e => { e with stagedWork := [], retireWork := [] })

/-- The steps from `pos` on: register and epoch items once all writes before them have landed, array items under the lock
of their block. -/
def State.restoreRun (c : Ch) (x : Nat) (img : List Byte) (keep : List Nat) : List RStep → Nat → State → Sum State State
  | [], _, s => .inr s
  | st :: t, pos, s =>
    match st with
    | .bulk => State.restoreRun c x img keep t (pos + 1) (s.restoreBulk c img)
    | .move src dst =>
      if s.writing c x then .inl (s.setPhase c x 1 (pos :: keep))
      else
        match s.lockTurn c x [src, dst] with
        | some s => .inl (s.setPhase c x 1 (pos :: keep))
        | none =>
          let table := bmTable (s.reg (blkR c (src / 33) (src % 33)))
          State.restoreRun c x img keep t (pos + 1) (s.queueItems c x ((s.chan c).arr.moveItems table src dst))
    | .item it =>
      if 16 ≤ itemType it then
        if s.writing c x then .inl (s.setPhase c x 1 (pos :: keep))
        else State.restoreRun c x img keep t (pos + 1) (if itemType it = 16 then s.restoreReg c it else s.applyEpoch c it)
      else
        let k := wordKey (itemBank it) (itemBlock it) (itemWord it)
        match s.lockTurn c x [k / 4096] with
        | some s => .inl (s.setPhase c x 1 (pos :: keep))
        | none =>
          let e := ((s.planned c).word k).ecf
          let it := match itemType it with
            | 4 => ecfItem (itemTable it) k (ecfSetE e (s.chan c).othSlot true)
            | 5 => ecfItem (itemTable it) k (ecfSetE e (s.chan c).othSlot false)
            | _ => bareItem it
          State.restoreRun c x img keep t (pos + 1) (s.queueItems c x [it])

/-- What a replay leaves in the counters and TRUNCATED (R506). -/
def State.countReplay (s : State) (c : Ch) (n : Nat) (bad : Bool) : State :=
  let s := s.count (modR 0x8104) n
  if bad then ((s.count (modR 0x8108) 1).modFlash c (fun f => { f with truncated := true })).evM 132 else s

/-- A restore ends. -/
def State.endRestore (s : State) (c : Ch) (gen : Nat) : State :=
  ((s.modFlash c (fun f => { f with restoreDone := true })).evM 136 (gen % 2 ^ 20)).checkReady

/-- The tables that an image's records name. -/
def imageTables (its : List (BitVec 256)) : List Nat :=
  (its.filterMap (fun i =>
    if itemType i < 16 then some (itemTable i)
    else if itemType i = 16 ∧ itemField i 1 1 = 0 ∧ inArr (itemField i 8 4) 0x1400 4 256 ∧ itemField i 12 4 % 2 = 1 then
      some ((itemField i 8 4 - 0x1400) / 4)
    else none)).dedup
/-- The bank of a block 32 that some item allocates while it is allocated already (R306). -/
def State.spareClash (s : State) (c : Ch) (its : List (BitVec 256)) : Option Nat :=
  its.findSome? (fun i =>
    if itemType i = 16 ∧ itemField i 1 1 = 1 ∧ itemField i 12 4 % 2 = 1 then
      match blkIdx (itemField i 8 4) 0x100000 with
      | some (b, 32) => if s.bit (blkR c b 32) 0 then some b else none
      | _ => none
    else none)

/-- The channel whose flash an IMAGE_RESTORE reads. -/
def Exec.imageFrom (e : Exec) (c : Ch) : Ch := if e.par 0 1 = 3 ∨ e.par 0 1 = 4 then Fin.ofNat 4 (e.par 1 1) else c
/-- The image that an IMAGE_RESTORE restores: the newest good one, one of a generation, or the staged one. -/
def State.imageOf (s : State) (c : Ch) (e : Exec) : List Byte :=
  let src := e.par 0 1
  let f := s.flash (e.imageFrom c)
  let gen := if e.phase = 0 then (if src = 1 ∨ src = 3 then some (e.par 4 4) else (f.newest).map tiGen) else some (e.nums.getD 1 0)
  if src = 2 then s.stagedFor c e 8 else ((gen.bind f.generation).getD [])
/-- The checks of IMAGE_RESTORE. -/
def State.imageRestoreChecks (s : State) (c : Ch) (e : Exec) : Checks :=
  let src := e.par 0 1
  let from_ := e.imageFrom c
  let img := s.imageOf c e
  let good := tiGood img && (decide (2 ≤ src) || bytesAt img 20 1 == c.val)
  let its := tiItems img
  let all := its ++ ((if src = 2 then [] else ((s.flash from_).records e img).1).map (·.items)).flatten
  (false,
    [e.plenIn [16], chk (decide (5 ≤ src)) stBadParam 0, e.rsv 1 0xFC, chk ((src == 3 || src == 4) && from_ == c) stBadParam 1,
        e.rsv 2 0xFF, e.rsv 3 0xFF] ++ e.stageRef 8
      ++ [s.rightC c e, s.rightC from_ e, if src = 2 then (s.stagedBad c e 8).map (fun o => (stFault, o)) else none,
        chk (good && (imageTables its).any (fun t => !s.mayWrite e.host c t)) stDenied, s.onlyOn c,
        chk (s.bit (chCtrl c) 0 || !(s.chan c).mgr.tables.isEmpty || (List.range 256).any (fun t => s.bit (tblR c t) 0)
          || (List.range 16).any (fun t => s.bit (ftR c t) 0)) stBusy],
    [chk (!good) stImage, (s.spareClash c all).map (fun b => (stNoSpace, b))])

/-- The turns of a restore on executor `x`: the steps, their last writes, and the sweep of a slot that was in slack water or
retiring; then `fin`. `from_` is the channel whose journal is replayed, if one is. `nums` holds the next step, the generation,
and the JSEQ at which the replay ends. -/
def State.restoreTurn (s : State) (c : Ch) (x : Nat) (e : Exec) (img : List Byte) (from_ : Option Ch) (fin : State → State) : State :=
  let rep := match from_ with
    | some d => (s.flash d).records e img
    | none => ([], false)
  let last := match from_ with
    | some d => (s.flash d).replayEnd e
    | none => 0
  let steps := restoreSteps img rep.1
  let ending (s : State) : State :=
    if s.writing c x then s.setPhase c x 2 [steps.length, tiGen img, last]
    else (s.rebuild c).setPhase c x 3 [steps.length, tiGen img, last]
  match e.phase with
  | 2 => ending s
  | 3 =>
    if (s.chan c).othState = .retiring then s
    else
      let s := match from_ with
        | some d => s.countReplay d rep.1.length rep.2
        | none => s
      fin (s.endRestore c (tiGen img))
  | _ =>
    match State.restoreRun c x img [tiGen img, last] (steps.drop (e.nums.headD 0)) (e.nums.headD 0) s with
    | .inl s => s
    | .inr s => ending (s.setPhase c x 2 [steps.length, tiGen img, last])

/-- IMAGE_RESTORE (R305, R506). -/
def execImageRestore (c : Ch) (x : Fin 8) (s : State) : Out := .next (s.command c x 0x81 fun e s =>
  let src := e.par 0 1
  let img := s.imageOf c e
  let from_ : Option Ch := if src = 2 then none else some (e.imageFrom c)
  let fin (s : State) : State :=
    if src < 2 then s.finish c x stOK (tiGen img)
    else match s.saveImage c (tiFlows img) (tiExt img) with
      | none => (s.evM 142).finish c x stNoSpace
      | some s => s.finish c x stOK (tiGen img)
  if e.phase = 0 then
    s.gate c x (s.imageRestoreChecks c e)
      ((s.modFlash c (fun f => { f with restoreDone := false })).restoreTurn c x e img from_ fin)
  else if src = 2 then s.stagedOr c x e 8 (s.restoreTurn c x e img from_ fin)
  else s.restoreTurn c x e img from_ fin)

/-! ## The start-up restore (R506) -/

/-- The record of the executor on which Oluek restores at start-up, as IMAGE_RESTORE with SOURCE 0: it has no mailbox (log entry
22). -/
def Exec.startup (now : Nat) : Exec := { Exec.none with req := toBytes 1 0x81, since := now }
/-- The executor that runs a start-up restore. -/
def Mgr.restorer (m : Mgr) : Option (Nat × Exec) := m.execs.find? (fun p => p.2.mbx == 16 && p.2.code == 0x81)

/-- A turn of a start-up restore; at its end its executor is free. -/
def State.startupTurn (s : State) (c : Ch) (x : Nat) (e : Exec) (img : List Byte) : State :=
  s.restoreTurn c x e img (some c) (fun s => (s.modMgr c (fun m => m.release x)).freeExec c x)

/-- STARTUP_RESTORE: at module start-up Oluek restores a channel whose AUTO_RESTORE bit is set, as SOURCE 0. The first row begins
the restore, and each later one takes it on from where it waited for a lock or for its writes. -/
def execStartupRestore (c : Ch) (s : State) : Out :=
  let x := s.chan c
  let f := s.flash c
  if !s.bit (modR 0x8008) (4 + c.val) || f.restoreDone || x.power ≠ .on || !x.mgr.up then .next s
  else
    match x.mgr.restorer with
    | some (h, e) =>
      match f.generation (e.nums.getD 1 0) with
      | none => .next s
      | some img => if e.broken.isSome || !e.want.isEmpty then .next s else .next (s.startupTurn c h e img)
    | none =>
      match f.newest with
      | none => .next (s.endRestore c 0)
      | some img =>
        if bytesAt img 20 1 ≠ c.val then .next (s.endRestore c 0)
        else
          match (List.range 8).find? (fun h => (x.mgr.exec? h).isNone) with
          | none => .next s
          | some h => .next ((s.setExec c h (Exec.startup s.now)).startupTurn c h (Exec.startup s.now) img)

end Sys2Proof.Machine
end

