-- ==== Sys2Proof/Machine/Slots.lean ====
section
/-! DEFINITION. WRITE slots and scrubbing (R318 to R331): the two write queues, the checks of the scrub, its write-backs and
its repair requests. -/

namespace Sys2Proof.Machine

/-! ## WRITE slots (R318 to R320) -/

/-- Where the rounds of a WRITE slot stand: the banks that have accepted an item, and whether the direct and the manager
queue have stopped. -/
structure Rounds where
  taken : List Nat
  stopD : Bool
  stopM : Bool
deriving DecidableEq, Repr

/-- A direct item passes the checks of R320. -/
def State.directOk (s : State) (c : Ch) (d : DirectItem) : Bool :=
  let it := d.item
  let w := s.reg (blkR c (itemBank it) (itemBlock it))
  let ty := itemType it
  [1, 2, 3, 6].contains ty && itemInArray it && s.mayWrite d.hf c (itemTable it) && wbit w 0 && bmTable w == itemTable it
    && (ty != 2 || (itemWord it % 2 == 0 && decide (24 ≤ itemBlock it))) && (ty != 3 || itemWord it % 2 == 0)

/-- The direct item at the front leaves its queue, and its credit returns (R320, R382). -/
def State.popDirect (s : State) (c : Ch) : State :=
  s.modChan c (fun x => { x with direct := x.direct.drop 1, dwrOut := x.dwrOut + 1, dwrCr := (x.dwrCr + 1) % 65536 })

/-- Direct items at the front that R320 discards leave the queue. -/
def State.discardDirect (c : Ch) : Nat → State → State
  | 0, s => s
  | n + 1, s =>
    match (s.chan c).direct with
    | [] => s
    | d :: _ =>
      if s.directOk c d then s
      else State.discardDirect c n (((s.popDirect c).count (chR c 0x6914) 1).evC c 324)

/-- The direct item at the front is applied. -/
def State.applyDirect (s : State) (c : Ch) (d : DirectItem) : State :=
  ((s.popDirect c).applyItem c (.frame d.frame) d.item).count (chR c 0x6910) 1

/-- The manager item at the front is applied. -/
def State.applyManager (s : State) (c : Ch) (m : MItem) : State :=
  (((s.modMgr c (fun g => { g with items := g.items.drop 1 })).applyItem c (.exec m.owner) m.item).count (chR c 0x6918) 1).drain c

/-- One round (R319): each queue that has not stopped offers its next item. -/
def State.writeRound (s : State) (c : Ch) (r : Rounds) : State × Rounds :=
  let s := if r.stopD then s else State.discardDirect c (s.chan c).direct.length s
  let d := if r.stopD then none else (s.chan c).direct.head?
  let m := if r.stopM then none else (s.chan c).mgr.items.head?
  let busy (b : Nat) : Bool := r.taken.contains b
  let r : Rounds := { r with
    stopD := match d with | some d => busy (itemBank d.item) | none => true
    stopM := match m with | some m => busy (itemBank m.item) | none => true }
  let d := if r.stopD then none else d
  let m := if r.stopM then none else m
  match d, m with
  | some d, some m =>
    let b := itemBank d.item
    if itemBank m.item ≠ b then
      (((s.applyDirect c d).applyManager c m), { r with taken := b :: itemBank m.item :: r.taken })
    else
      let next := sget (fun _ => 0) (s.chan c).mgr.bankRanks b
      let s := s.modMgr c (fun g => { g with bankRanks := sset (fun _ => 0) g.bankRanks b (1 - next) })
      if next = 0 then (s.applyDirect c d, { r with taken := b :: r.taken, stopM := true })
      else (s.applyManager c m, { r with taken := b :: r.taken, stopD := true })
  | some d, none => (s.applyDirect c d, { r with taken := itemBank d.item :: r.taken })
  | none, some m => (s.applyManager c m, { r with taken := itemBank m.item :: r.taken })
  | none, none => (s, r)

/-- The rounds of a slot: they end when every bank has accepted an item or both queues have stopped or are empty. -/
def State.writeRounds (c : Ch) : Nat → State → Rounds → State
  | 0, s, _ => s
  | n + 1, s, r =>
    if (r.stopD && r.stopM) || decide (36 ≤ r.taken.length) then s
    else
      let p := s.writeRound c r
      State.writeRounds c n p.1 p.2

/-- A block whose last item of its return to the free state has been written is out of use; the target of a failed job is
unallocated then (R357). -/
def State.endFreeing (s : State) (c : Ch) : State :=
  let m := (s.chan c).mgr
  let busy (b : Nat) : Bool := m.items.any (fun i => i.owner == 11 && itemBank i.item * 33 + itemBlock i.item == b)
  let ended := m.freeing.filter (fun p => !busy p.1)
  let s := s.modMgr c (fun m => { m with freeing := m.freeing.filter (fun p => busy p.1) })
  (ended.filter (·.2)).foldl (fun s p => State.blockEvents s (s.setB (blkR c (p.1 / 33) (p.1 % 33)) 0 false) c) s

/-- Every executor whose response is known responds if it may. -/
def State.respondAll (s : State) (c : Ch) : State := (List.range 8).foldl (fun s x => s.tryRespond c x) s

/-- WRITE_SLOT: the next WRITE slot applies up to one item per bank (R318, R319). -/
def execWriteSlot (c : Ch) (s : State) : Out :=
  match s.takeSlot c 1 with
  | none => .next s
  | some n =>
    let s := (s.useSlot c n).drain c
    let s := State.writeRounds c 40 s ⟨[], false, false⟩
    .next ((s.endFreeing c).respondAll c)

/-! ## Scrub checks (R325, R326) -/

/-- ECF copies of a word that differ from the majority. -/
def WordCell.off (w : WordCell) : Nat := ([w.ecf0, w.ecf1, w.ecf2].filter (fun e => e != w.ecf)).length
/-- Copies of a range unit that differ from the majority. -/
def UnitCell.off (u : UnitCell) : Nat := ([u.u0, u.u1, u.u2].filter (fun e => e != u.eff)).length
/-- A word's data and mask against its checks. -/
def WordCell.decode (w : WordCell) : RsOut := rsDecode (toBytes 10 w.data.toNat ++ toBytes 10 w.mask.toNat) w.chk
/-- An AD pair against its checks. -/
def AdCell.decode (a : AdCell) : RsOut := rsDecode (toBytes 8 a.ad.toNat) a.chk
/-- The decoder found one error and corrected it. -/
def RsOut.fixed : RsOut → Bool
  | .corrected _ => true
  | _ => false

/-- The listed words of the group of 8 words that begins at a word key; an unlisted word is erased and passes every
check. -/
def ArrayMem.groupWords (a : ArrayMem) (k : Nat) : List (Nat × WordCell) := a.words.filter (fun p => p.1 / 8 == k / 8)
/-- The first words of its range segments that have a unit listed. -/
def ArrayMem.groupSegs (a : ArrayMem) (k : Nat) : List Nat :=
  ((a.units.filter (fun p => p.1 / 8 == k / 8)).map (fun p => p.1 - p.1 % 2)).dedup
/-- Its listed AD pairs. -/
def ArrayMem.groupAds (a : ArrayMem) (k : Nat) : List (Nat × AdCell) := a.ads.filter (fun p => p.1 / 4 == k / 8)

/-- The items of a group that need write-back (R327). -/
def ArrayMem.groupWb (a : ArrayMem) (k : Nat) : List (Nat × Nat) :=
  ((a.groupWords k).filter (fun p => p.2.decode.fixed || p.2.off != 0)).map (fun p => (0, p.1))
    ++ ((a.groupSegs k).filter (fun g => (a.unit3 g).off != 0 || (a.unit3 (g + 1)).off != 0)).map (fun g => (1, g))
    ++ ((a.groupAds k).filter (fun p => p.2.decode.fixed)).map (fun p => (2, p.1))

/-! ## Repair requests (R330) -/

/-- The scrub requests the repair of an allocated block, unless one is requested or under way (Table 11.8). -/
def State.requestRepair (s : State) (c : Ch) (blk : Nat) : State :=
  let m := (s.chan c).mgr
  let going := m.repairs.contains blk || (match m.rep with | some j => j.src == blk | none => false)
  if !s.bit (chR c 0x7000) 1 || !s.bit (blkR c (blk / 33) (blk % 33)) 0 || going then s
  else (s.modMgr c (fun m => { m with repairs := m.repairs ++ [blk] })).evC c 132

/-- A word or pair of a block has been corrected: CORR, SCRUB_CORRECTED, and the request that CORR_THRESH calls for. -/
def State.corrected (s : State) (c : Ch) (blk : Nat) : State :=
  let k := scrubR c (blk / 33) (blk % 33)
  let old := s.field k 16 8
  let th := s.field (chR c 0x7000) 8 8
  let s := (s.setField k 16 8 (min (old + 1) 255)).evC c 128
  if th ≠ 0 ∧ old < th ∧ th ≤ old + 1 then s.requestRepair c blk else s

/-- A group of a job's target is dirty once it has been copied (R355). -/
def Job.mark (j : Job) (blk g : Nat) : Job :=
  if j.dst = blk ∧ (4 ≤ j.step ∨ (j.step = 3 ∧ g < j.next)) then { j with dirty := insertNat g j.dirty } else j
/-- Mark a group of a block dirty for the engines. -/
def State.markDirty (s : State) (c : Ch) (blk g : Nat) : State :=
  s.modMgr c (fun m => { m with mig := m.mig.map (fun j => j.mark blk g), rep := m.rep.map (fun j => j.mark blk g) })

/-- What SCRUB_ERR_LOG captures. -/
def errLog (key : Nat) (ad : Bool) : Nat :=
  key % 4096 + key / 4096 % 33 * 2 ^ 12 + key / 4096 / 33 * 2 ^ 18 + b2n ad * 2 ^ 24

/-- The scrub reads a word (Table 11.6, R328). -/
def State.scrubWord (s : State) (c : Ch) (k : Nat) (w : WordCell) : State :=
  let blk := k / 4096
  let s := s.count (chR c 0x7014) w.off
  match w.decode with
  | .clean => s
  | .corrected _ => (s.count (chR c 0x7010) 1).corrected c blk
  | .uncorrectable =>
    let s := s.markDirty c blk (k % 4096 / 8)
    if w.poison then s
    else
      let old := s
      let s := s.modChan c (fun x => { x with arr := x.arr.setWord k { w with poison := true } })
      let s := ((s.count (chR c 0x701C) 1).capture (chR c 0x7030) (errLog k false)).evC c 129
      (old.blockEvents s c).requestRepair c blk

/-- The scrub reads an AD pair. -/
def State.scrubAd (s : State) (c : Ch) (k : Nat) (a : AdCell) : State :=
  match a.decode with
  | .clean => s
  | .corrected _ => (s.count (chR c 0x7018) 1).corrected c (k / 2048)
  | .uncorrectable => ((s.count (chR c 0x7020) 1).capture (chR c 0x7030) (errLog (2 * k) true)).evC c 130

/-- The scrub reads the group at the position of a bank and advances (R325, R326). -/
def State.scrubRead (s : State) (c : Ch) (bank : Nat) : State :=
  let b := (s.chan c).scrubOf bank
  let a := (s.chan c).arr
  let k := wordKey bank (b.pos / 512) (8 * (b.pos % 512))
  let s := (a.groupWords k).foldl (fun s p => s.scrubWord c p.1 p.2) s
  let s := (a.groupSegs k).foldl (fun s g => s.count (chR c 0x7014) ((a.unit3 g).off + (a.unit3 (g + 1)).off)) s
  let s := (a.groupAds k).foldl (fun s p => s.scrubAd c p.1 p.2) s
  let next := (b.pos + 1) % 16896
  s.modChan c (fun x => x.setScrub bank
    { b with pos := next, read := b.read + 1, wb := a.groupWb k, laps := b.laps + b2n (next == 0) })

/-- The write-backs of a bank: corrected items with fresh checks (R327). In a job's target they make their group dirty. -/
def State.scrubBack (s : State) (c : Ch) (bank : Nat) : State :=
  let b := (s.chan c).scrubOf bank
  let s := b.wb.foldl (fun s p =>
    let k := if p.1 = 2 then 2 * p.2 else p.2
    (s.modChan c (fun x => x.restore p.1 p.2)).markDirty c (k / 4096) (k % 4096 / 8)) s
  s.modChan c (fun x => x.setScrub bank { b with wb := [] })

/-- A bank's part of a SCRUB slot. -/
def State.scrubBank (c : Ch) (s : State) (bank : Nat) : State :=
  let b := (s.chan c).scrubOf bank
  if b.wb ≠ [] then s.scrubBack c bank
  else if (s.chan c).maint.budget ≤ b.read then s
  else s.scrubRead c bank

/-- SCRUB_CNT[6]: every bank has finished a pass since the last count (Table 11.19). -/
def State.countLaps (s : State) (c : Ch) : State :=
  let x := s.chan c
  if (List.range 36).all (fun b => decide (0 < (x.scrubOf b).laps)) then
    (s.count (chR c 0x7028) 1).modChan c (fun x => (List.range 36).foldl (fun x b => x.setScrub b { x.scrubOf b with laps := 0 }) x)
  else s

/-- SCRUB_SLOT: in the next SCRUB slot each bank reads and checks a group or writes corrections back (R325 to R331). -/
def execScrubSlot (c : Ch) (s : State) : Out :=
  match s.takeSlot c 2 with
  | none => .next s
  | some n =>
    let s := s.useSlot c n
    if !s.bit (chR c 0x7000) 0 then .next s
    else .next (((List.range 36).foldl (State.scrubBank c) s).countLaps c)

/-- SCRUB_REPAIR_START: Oluek takes the oldest repair request to the repair engine, or raises REPAIR_NO_SPARE (R330). A
request for a block that is allocated no more has lost its object. -/
def execScrubRepairStart (c : Ch) (s : State) : Out :=
  let m := (s.chan c).mgr
  match m.repairs with
  | [] => .next s
  | blk :: rest =>
    if !m.up || m.upd.isSome || m.rep.isSome then .next s
    else
      let spare := blk / 33 * 33 + 32
      let s := s.modMgr c (fun m => { m with repairs := rest, served := s.now })
      if !s.bit (blkR c (blk / 33) (blk % 33)) 0 then .next s
      else if !s.blkFree c spare then .next (s.evC c 133 (blockInfo (blk / 33) 32))
      else .next (s.modMgr c (fun m => { m with rep := some (Job.start blk spare none) }))

end Sys2Proof.Machine
end

