-- ==== Sys2Proof/Machine/Jobs.lean ====
section
/-! DEFINITION. The migration and the repair engine: locks, copies in MIG slots, the fence and the ends of a job (R257, R324,
R353 to R357). Holder 8 is the migration engine and 9 the repair engine. -/

namespace Sys2Proof.Machine

/-- The job of an engine. -/
def Mgr.job (m : Mgr) (h : Nat) : Option Job := if h = 8 then m.mig else m.rep
/-- Store it. -/
def State.setJob (s : State) (c : Ch) (h : Nat) (j : Option Job) : State :=
  s.modMgr c (fun m => if h = 8 then { m with mig := j } else { m with rep := j })

/-! ## The start of a job (Table 13.1, steps 1 and 2) -/

/-- The target's map entry gets EN, WIDTH and TABLE of the source. -/
def State.mapTarget (s : State) (c : Ch) (j : Job) : State :=
  let k := blkR c (j.dst / 33) (j.dst % 33)
  let w := s.reg (blkR c (j.src / 33) (j.src % 33))
  State.blockEvents s (s.setReg k ((s.reg k &&& ~~~0x7FF) ||| (w &&& 0x7FF))) c

/-- A scrub-requested repair ends: SCRUB_REPAIR_LOG is written and REPAIR_DONE raised (R330). -/
def State.repairLog (s : State) (c : Ch) (src lost : Nat) : State :=
  (s.setReg (chR c 0x7034) (BitVec.ofNat 32 (min lost 0xFFF + src % 33 * 2 ^ 12 + src / 33 * 2 ^ 18 + 2 ^ 31))).evC c 134

/-- Whether a job waits for its locks, and all of them and two slots are free (R257). -/
def Mgr.groupFree (m : Mgr) (j : Option Job) : Bool :=
  match j with
  | some k => k.step == 0 && k.keys.all (fun q => (m.lock? q).isNone) && decide (m.locks.length ≤ 62)
  | none => false

/-- A cycle of the lock table (R256): what has been granted so far, to whom in order, and whose requests are refused. -/
structure LockCycle where
  mgr : Mgr
  won : List Nat
  refused : List Nat
deriving DecidableEq, Repr

/-- The turn of one holder in a cycle: an executor gets the lock that it asks for when the lock and a slot are free, and is refused
when no slot is; an engine gets the locks of its job as one group (R256, R257). -/
def LockCycle.turn (now : Nat) (l : LockCycle) (h : Nat) : LockCycle :=
  if h < 8 then
    match (l.mgr.exec? h).bind Exec.request with
    | none => l
    | some k =>
      if (l.mgr.lock? k).isSome then l
      else if l.mgr.freeLock.isNone then { l with refused := l.refused ++ [h] }
      else
        let m : Mgr := { l.mgr with execs := l.mgr.execs.map (fun p => if p.1 = h then (p.1, { p.2 with want := p.2.want.drop 1 }) else p) }
        { l with mgr := m.grant k h now, won := l.won ++ [h] }
  else if l.mgr.groupFree (l.mgr.job h) then
    match l.mgr.job h with
    | some j => { l with mgr := j.keys.foldl (fun m k => m.grant k h now) l.mgr, won := l.won ++ [h] }
    | none => l
  else l

/-- A job whose source is allocated no more ends as BLOCK_MIGRATE and BLOCK_REPAIR do without one. -/
def State.dropLostJob (s : State) (c : Ch) (h : Nat) : State :=
  match (s.chan c).mgr.job h with
  | none => s
  | some j =>
    if j.step = 0 ∧ !s.bit (blkR c (j.src / 33) (j.src % 33)) 0 then
      let s := s.setJob c h none
      match j.owner with | some x => s.finish c x stBadParam | none => s
    else s

/-- One manager-core cycle of the lock table: every request that can be granted is, in the order of rotating priority over the
holder numbers; each holder that wins drops to the lowest rank, and each that is refused is broken (R256, R259). One cycle after
an engine's grant the target of its job is mapped (Table 13.1 step 2). -/
def State.lockCycle (s : State) (c : Ch) : State :=
  let s := (s.dropLostJob c 8).dropLostJob c 9
  let at_ := max s.now s.nextMgrCycle
  let l := (s.chan c).mgr.lockRanks.foldl (LockCycle.turn at_) ⟨(s.chan c).mgr, [], []⟩
  if l.won = [] ∧ l.refused = [] then s
  else
    let s := (s.atTime at_).modMgr c (fun m => { l.mgr with lockRanks := m.lockRanks.filter (fun h => !l.won.contains h) ++ l.won })
    let s := l.refused.foldl (fun s x => s.breakCmd c x) s
    (l.won.filter (fun h => decide (8 ≤ h))).foldl (fun s h =>
      match (s.chan c).mgr.job h with
      | some j => ((s.atTime (at_ + nsT 1)).setJob c h (some { j with step := 3 })).mapTarget c j
      | none => s) s

/-- LOCK_GRANT: the lock table's next cycle. -/
def execLockGrant (c : Ch) (s : State) : Out := .next (s.lockCycle c)

/-- ENGINE_LOCK_GROUP_GRANT: the lock table's next cycle; an engine's group and the executors' requests meet in it. -/
def execEngineLockGroupGrant (c : Ch) (s : State) : Out := .next (s.lockCycle c)

/-! ## Copies (R324, R354, R355) -/

/-- A word beyond correction. -/
def WordCell.bad (w : WordCell) : Bool := w.poison || w.decode == .uncorrectable
/-- A word as the copy carries it: corrected, its ECF by majority, with fresh checks. -/
def WordCell.copied (w : WordCell) (lost : Bool) : WordCell :=
  let d := match w.decode with
    | .corrected m => (BitVec.ofNat 80 (bytesAt m 0 10), BitVec.ofNat 80 (bytesAt m 10 10))
    | _ => (w.data, w.mask)
  mkWord d.1 d.2 (if lost then w.ecf &&& ~~~1 else w.ecf)
/-- An AD pair as the copy carries it. One beyond correction keeps its checks, so that lookups go on reporting it. -/
def AdCell.copied (a : AdCell) : AdCell :=
  match a.decode with
  | .corrected m => mkAd (BitVec.ofNat 64 (ofBytes m))
  | .clean => mkAd a.ad
  | .uncorrectable => a

/-- Words 8g to 8g + 7 of a block. -/
def groupKeys (blk g : Nat) : List Nat := (List.range 8).map (fun i => blk * 4096 + 8 * g + i)
/-- Some word of a group is beyond correction. -/
def ArrayMem.groupBad (a : ArrayMem) (blk g : Nat) : Bool := (groupKeys blk g).any (fun k => (a.word k).bad)
/-- Some word of the entry that holds a word is beyond correction. -/
def ArrayMem.entryLost (a : ArrayMem) (width k : Nat) : Bool :=
  (List.range (widthWords width)).any (fun i => (a.word (k - k % widthWords width + i)).bad)

/-- An engine copies a group: words with their ECFs, range segments and AD pairs (R324). -/
def State.copyGroup (s : State) (c : Ch) (j : Job) (g : Nat) : State :=
  let a := (s.chan c).arr
  let width := bmWidth (s.reg (blkR c (j.src / 33) (j.src % 33)))
  let bank := j.dst / 33
  let block := j.dst % 33
  let s := (List.range 8).foldl (fun s i =>
    let k := j.src * 4096 + 8 * g + i
    s.putWord c bank block (8 * g + i) ((a.word k).copied (a.entryLost width k))) s
  let s := if block < 24 then s else (List.range 4).foldl (fun s i =>
    let k := j.src * 4096 + 8 * g + 2 * i
    s.putUnits c bank block (8 * g + 2 * i) (a.unit3 k).eff (a.unit3 (k + 1)).eff) s
  (List.range 4).foldl (fun s i =>
    let k := j.src * 2048 + 4 * g + i
    s.modChan c (fun x => { (x.cancelWb bank 2 (j.dst * 2048 + 4 * g + i)) with
      arr := x.arr.setAdPair (j.dst * 2048 + 4 * g + i) (a.adPair k).copied })) s

/-- The VALID entries of a group that its copy loses (R294). -/
def ArrayMem.groupLost (a : ArrayMem) (width blk g : Nat) : List Nat :=
  (groupKeys blk g).filter (fun k => k % widthWords width == 0 && a.entryLost width k && ecfValid (a.word k).ecf)

/-! ## The ends of a job -/

/-- The items that return a block to the free state of R281, every word, segment and pair of it (Table 13.1, step 8). A
poisoned word is written whole (R328). -/
def ArrayMem.clearBlk (a : ArrayMem) (t blk : Nat) : List (BitVec 256) :=
  (List.range 4096).map (fun i =>
      let k := blk * 4096 + i
      if (a.word k).poison then keyItem 1 t k (wordImage emptyWord) else ecfItem t k 0)
    ++ (if blk % 33 < 24 then [] else (List.range 2048).map (fun i => keyItem 2 t (blk * 4096 + 2 * i) (rangeImage deadUnit deadUnit)))
    ++ (List.range 2048).map (fun i => keyItem 3 t (blk * 4096 + 2 * i) (toBytes 8 0))

/-- Oluek returns a block to the free state; `unmap` when its map entry is to be cleared at the end. -/
def State.startFreeing (s : State) (c : Ch) (t blk : Nat) (unmap : Bool) : State :=
  (s.modMgr c (fun m => { m with freeing := m.freeing ++ [(blk, unmap)] })).queueItems c 11 ((s.chan c).arr.clearBlk t blk)

/-- A job fails: no fence, the target goes back to the free state, and the command ends HW_FAULT; a scrub request ends with
LOST 0xFFF (R357). -/
def State.failJob (s : State) (c : Ch) (h : Nat) (j : Job) : State :=
  let t := bmTable (s.reg (blkR c (j.dst / 33) (j.dst % 33)))
  let s := (s.setJob c h none).modMgr c (fun m => m.release h)
  let s := s.startFreeing c t j.dst true
  match j.owner with
  | some x => s.finish c x stFault
  | none => s.repairLog c j.src 0xFFF

/-- The VALID bit of every word of a block clears, in one cycle (R356). -/
def ArrayMem.dropValid (a : ArrayMem) (blk : Nat) : ArrayMem :=
  (a.words.filter (fun p => p.1 / 4096 == blk)).foldl (fun a p =>
    a.setWord p.1 { p.2 with ecf0 := p.2.ecf0 &&& ~~~1, ecf1 := p.2.ecf1 &&& ~~~1, ecf2 := p.2.ecf2 &&& ~~~1 }) a

/-- Oluek's record of a block's entries moves with them. -/
def State.moveRecord (s : State) (c : Ch) (t : Nat) (j : Job) : State :=
  let r := s.tableOf c t
  let s := if ((s.chan c).mgr.table? t).isNone then s
    else s.setTable c t { r with blocks := sortKeys (j.dst :: r.blocks.filter (fun b => b != j.src)) }
  let mv (l : List Nat) : List Nat := sortKeys (l.map (fun k => if k / 4096 = j.src then j.dst * 4096 + k % 4096 else k))
  s.modEp c (fun e => { e with stagedWork := mv e.stagedWork, retireWork := mv e.retireWork })

/-- What Oluek journals at a fence: the map entries of target and source, and the entries that the copy lost (R306). -/
def State.fenceItems (s : State) (c : Ch) (t width : Nat) (j : Job) : List (BitVec 256) :=
  let item (b : Nat) : BitVec 256 := regItem true (blkOff b) (s.reg (blkR c (b / 33) (b % 33)))
  [item j.dst, item j.src] ++ (j.lost.map (fun k =>
    (List.range (widthWords width)).map (fun i => ecfItem t (j.dst * 4096 + k % 4096 + i) 0))).flatten

/-- The fence (R356), the response, and the start of the source's return to the free state. -/
def State.fence (s : State) (c : Ch) (h : Nat) (j : Job) : State :=
  let k := blkR c (j.src / 33) (j.src % 33)
  let t := bmTable (s.reg k)
  let width := bmWidth (s.reg k)
  let old := s
  let s := (s.modChan c (fun x => { x with arr := x.arr.dropValid j.src })).clearRefs c (j.src / 33) (j.src % 33)
  let s := old.blockEvents (s.setB k 0 false) c
  let s := (s.moveRecord c t j).setJob c h none
  let its := s.fenceItems c t width j
  let s := match j.owner with | some x => s.journalBy c x its | none => s.journal c its
  let s := (s.modMgr c (fun m => m.release h)).startFreeing c t j.src false
  match j.owner with
  | none => s.repairLog c j.src j.lost.length
  | some x =>
    if h = 8 then s.finish c x stOK (s.indexOf c (j.dst * 4096))
    else s.finish c x stOK j.lost.length (((j.lost.take 60).map (fun k => toBytes 4 (s.indexOf c k))).flatten)

/-! ## MIG slots -/

/-- Step 5: the target's buoy-only pass is queued (R349). Without a sample of the table there is no key to replay, and the
block is not passed (R342). -/
def State.startPass (s : State) (c : Ch) (h : Nat) (j : Job) : State :=
  let s := s.clearRefs c (j.dst / 33) (j.dst % 33)
  if s.hasSample c j.dst then
    let s := s.setJob c h (some { j with step := 5 })
    (s.modChan c (fun x => x.queuePass (j.dst / 33) (j.dst % 33))).setB (calR c (j.dst / 33) (j.dst % 33)) 21 true
  else s.setJob c h (some { j with step := 6 })

/-- A job goes on from a copy: step 3 ends after group 511, and step 4 when no group is dirty. -/
def State.afterCopy (s : State) (c : Ch) (h : Nat) (j : Job) : State :=
  let j := if j.step = 3 ∧ 512 ≤ j.next then { j with step := 4 } else j
  if j.step = 4 ∧ j.dirty = [] then s.startPass c h j else s.setJob c h (some j)

/-- What a MIG slot does for a job: the next group, a dirty group, the fence once Oluek runs, or the end of a failed job. -/
def Job.waits (j : Job) (up : Bool) : Bool :=
  if j.failed then up else j.step == 3 || (decide (4 ≤ j.step) && !j.dirty.isEmpty) || (j.step == 6 && up)

/-- One MIG slot of an engine. -/
def State.migTurn (s : State) (c : Ch) (h : Nat) (j : Job) : State :=
  if j.failed then s.failJob c h j
  else if j.step ≠ 3 ∧ j.dirty = [] then s.fence c h j
  else
    let g := if j.step = 3 then j.next else j.dirty.headD 0
    let a := (s.chan c).arr
    let s := s.count (chR c 0x691C) 1
    if h = 8 ∧ a.groupBad j.src g then
      if (s.chan c).mgr.up then s.failJob c h j else s.setJob c h (some { j with failed := true })
    else
      let width := bmWidth (s.reg (blkR c (j.src / 33) (j.src % 33)))
      let lost := (a.groupLost width j.src g).foldl (fun l k => insertNat k l) j.lost
      let s := s.copyGroup c j g
      -- the copy itself does not make its group dirty
      s.afterCopy c h { j with
        lost := lost, next := if j.step = 3 then j.next + 1 else j.next, dirty := j.dirty.filter (fun q => q != g) }

/-- MIG_SLOT: the next MIG slot serves an engine that has a group waiting, by rotating priority (R324). -/
def execMigSlot (c : Ch) (s : State) : Out :=
  match s.takeSlot c 4 with
  | none => .next s
  | some n =>
    let s := s.useSlot c n
    let m := (s.chan c).mgr
    let waits (h : Nat) : Bool := match m.job h with | some j => j.waits m.up | none => false
    match rotate m.jobRanks waits with
    | none => .next s
    | some (h, ranks) =>
      match m.job h with
      | none => .next s
      | some j => .next ((s.modMgr c (fun m => { m with jobRanks := ranks })).migTurn c h j)

/-! ## Restart (R261) -/

/-- A job waits for Oluek: for its fence, or for its end when it has failed. -/
def Job.forOluek (j : Job) : Bool := j.failed || (j.step == 6 && j.dirty.isEmpty)

/-- The fence of an engine's job that waits for it, in the next MIG slot. -/
def State.fenceWaiting (s : State) (c : Ch) (h : Nat) : State :=
  match (s.chan c).mgr.job h with
  | none => s
  | some j =>
    if !j.forOluek then s
    else
      match s.takeSlot c 4 with
      | none => s
      | some n => (s.useSlot c n).migTurn c h j

/-- MGR_RESTART_COMPLETE: a restart ends: with a good image, Oluek performs the fence of every engine job that waits for it, sets
MGR_UP and raises MGR_RESTARTED (R261). -/
def execMgrRestartComplete (c : Ch) (s : State) : Out :=
  if !(s.chan c).mgr.loading || (s.chan c).mgr.upd.isSome then .next s
  else if ((s.startOluek c).chan c).mgr.up then
    .next (((((s.chan c).mgr.jobRanks.foldl (fun s h => s.fenceWaiting c h) s).startOluek c)).evC c 389)
  else .next (s.startOluek c)

/-- The pass of a block has ended: a job whose target it is goes on to its fence, or fails (Table 13.2). -/
def State.jobPassed (s : State) (c : Ch) (blk : Nat) (ok : Bool) : State :=
  [8, 9].foldl (fun s h =>
    match (s.chan c).mgr.job h with
    | none => s
    | some j =>
      if j.step ≠ 5 ∨ j.dst ≠ blk then s
      else if ok then s.setJob c h (some { j with step := 6, passed := some true })
      else if (s.chan c).mgr.up then s.failJob c h { j with passed := some false }
      else s.setJob c h (some { j with failed := true, passed := some false })) s

end Sys2Proof.Machine
end

