-- ==== Sys2Proof/Machine/Calib.lean ====
section
/-! DEFINITION. Live calibration: the steps of a CAL slot, passes and their windows, buoy writes, and what a pass ends (R339
to R349). What a bank senses is the command's operand; a bank that it does not name senses what its block stores. -/

namespace Sys2Proof.Machine

/-! ## Windows (R342) -/

/-- The longest run of consecutive passing codes as (lowest code, length), the lowest of equally long ones. -/
def calWindow (codes : BitVec 32) : Nat × Nat :=
  ((List.range 32).foldl (fun (acc : Nat × Nat × Nat) i =>
    if codes.getLsbD i then
      let n := acc.1 + 1
      if acc.2.2 < n then (n, i + 1 - n, n) else (n, acc.2.1, acc.2.2)
    else (0, acc.2.1, acc.2.2)) (0, 0, 0)).2

/-! ## The work of a bank (R345) -/

/-- A block is excluded for a cause other than the always buoy (Table 02.9). -/
def State.exclOther (s : State) (c : Ch) (bank block : Nat) : Bool :=
  let w := s.reg (blkR c bank block)
  s.parity.contains (blkR c bank block) || s.parity.contains (tblR c (bmTable w)) || s.parity.contains (chR c 0x1000)
    || s.blkInvalid c bank block w || (s.chan c).arr.blkPoisoned bank block
/-- A pass of a block has something to replay: the block is allocated and its table holds a sample (R342). -/
def State.passable (s : State) (c : Ch) (bank block : Nat) : Bool :=
  s.bit (blkR c bank block) 0 && s.hasSample c (bank * 33 + block)
/-- The periodic pass of a block is due: one of an excluded block is skipped (R345). Passes that end IDLE run always. -/
def State.periodicOk (s : State) (c : Ch) (bank block : Nat) : Bool :=
  s.passable c bank block && ((s.chan c).maint.resume || !s.exclOther c bank block)

/-- Change the maintenance state. -/
def State.modMaint (s : State) (c : Ch) (f : Maint → Maint) : State := s.modChan c (fun x => { x with maint := f x.maint })
/-- Queued work of a bank that has no object is given up. -/
def State.cullWork (s : State) (c : Ch) (bank : Nat) : State :=
  let m := (s.chan c).maint
  let goneP (q : Nat × Nat) : Bool := q.1 == bank && !s.passable c q.1 q.2
  let goneR (q : Nat × Nat) : Bool := q.1 == bank && !s.periodicOk c q.1 q.2
  let goneC (p : Nat × CalPass) : Bool := p.1 / 2 == bank && !s.passable c (p.1 / 2) p.2.block
  let s1 := (m.prio.filter goneP ++ (m.cur.filter goneC).map (fun p => (bank, p.2.block))).foldl (fun s q => s.setB (calR c q.1 q.2) 21 false) s
  s1.modMaint c (fun m => { m with
    prio := m.prio.filter (fun q => !goneP q), periodic := m.periodic.filter (fun q => !goneR q)
    cur := m.cur.filter (fun p => !goneC p) })

/-- What a bank does in a CAL slot. -/
inductive CalWork
  | replay (p : CalPass)
  | buoy (block data : Nat)
  | idle
deriving DecidableEq, Repr

/-- The next replay of one kind of pass of a bank, in the slot that begins at `at_`: that of the pass in progress, else the first
of the next pass queued. -/
def Maint.passStep (m : Maint) (prio : Bool) (at_ bank : Nat) : Option CalPass :=
  match m.cur.find? (fun p => p.1 == 2 * bank + b2n (!prio)) with
  | some (_, p) => some p
  | none => ((if prio then m.prio else m.periodic).find? (fun q => q.1 == bank)).map (fun q => ⟨prio, q.2, 0, true, 0, at_⟩)

/-- The next step of a bank, in the slot that begins at `at_`: of a priority pass, else a buoy write, else of a periodic pass
(R345). Only a step is never pre-empted: a periodic pass in progress waits for the work before it. -/
def State.calWork (s : State) (c : Ch) (at_ bank : Nat) : CalWork :=
  let m := (s.chan c).maint
  match m.passStep true at_ bank with
  | some p => .replay p
  | none =>
    match m.buoys.find? (fun q => q.1 == bank) with
    | some q => .buoy q.2.1 q.2.2
    | none =>
      match if m.resume || s.bit (chR c 0x8000) 0 then m.passStep false at_ bank else none with
      | some p => .replay p
      | none => .idle

/-- No pass. -/
def CalPass.none_ : CalPass := ⟨false, 0, 0, false, 0, 0⟩
/-- Store or end the pass of one kind that is in progress in a bank. -/
def Maint.setCur (m : Maint) (bank : Nat) (prio : Bool) (p : Option CalPass) : Maint :=
  let k := 2 * bank + b2n (!prio)
  let cur := m.cur.filter (fun q => q.1 != k)
  { m with cur := match p with | some p => insertBy (fun a b => decide (a.1 < b.1)) (k, p) cur | none => cur }

/-- A near buoy is rewritten (R335, R340). -/
def State.writeBuoy (s : State) (c : Ch) (bank block data : Nat) : State :=
  let k := bank * 33 + block
  let b : BuoyCell := ⟨0, 0, BitVec.ofNat 80 data, BitVec.allOnes 80⟩
  (s.modMaint c (fun m => { m with buoys := m.buoys.filter (fun q => !(q.1 == bank && q.2.1 == block)) })).modChan c (fun x =>
    { x with arr := { x.arr with buoys := sset (fun _ => (⟨0, 0, 0, 0⟩ : BuoyCell)) x.arr.buoys k b } })

/-! ## Passes (R341 to R343, R347) -/

/-- SETTLING clears once every allocated block has completed a pass that began after the step (R350). -/
def State.settleRail (s : State) (c : Ch) : State :=
  if s.bit (chR c 0x800C) 18 && (s.allocBlocks c).all (fun q => (s.chan c).maint.settle.contains (q.1, q.2.1)) then
    s.setB (chR c 0x800C) 18 false
  else s

/-- A pass ends with the codes that passed (R342, R343, R347). -/
def State.endPass (s : State) (c : Ch) (bank : Nat) (p : CalPass) : State :=
  let k := calR c bank p.block
  let blk := bank * 33 + p.block
  let w := calWindow p.codes
  let ok := decide (max (s.field (chR c 0x8000) 8 5) 1 ≤ w.2)
  let prio := p.prio
  let resume := (s.chan c).maint.resume
  let was := s.bit k 22
  let code := if ok then w.1 + (w.2 - 1) / 2 else s.field k 0 5
  let old := s
  let s :=
    if ok then
      let s := (((s.setField k 0 5 code).setField k 5 5 w.1).setField k 10 5 (w.1 + w.2 - 1)).setB k 15 true
      let s := ((s.setField k 24 4 0).setB k 22 false).count (chR c 0x8108) 1
      (old.blockEvents s c).evCIf was c 67
    else ((s.setField k 24 4 (min (s.field k 24 4 + 1) 15)).count (chR c 0x810C) 1).evC c 66
  let s := (s.setB k 21 false).modMaint c (fun m => { m.setCur bank prio none with
    prio := m.prio.filter (fun q => q != (bank, p.block))
    periodic := if prio && !resume then m.periodic else m.periodic.filter (fun q => q != (bank, p.block))
    nextBlk := if prio then m.nextBlk else sset (fun _ => 0) m.nextBlk bank (p.block + 1)
    passed := (blk, code) :: m.passed
    railUp := m.railUp || !ok || decide (s.field (chR c 0x8000) 16 5 ≤ code)
    settle := if m.settleAt < p.since ∧ ¬ m.settle.contains (bank, p.block) then (bank, p.block) :: m.settle else m.settle })
  ((s.settleRail c).calRunPassed c blk ok).jobPassed c blk ok

/-- The block is the target of a job before its fence: only its buoys decide a pass (R349). -/
def Chan.isTarget (x : Chan) (blk : Nat) : Bool :=
  let t (j : Option Job) : Bool := match j with | some j => j.step == 5 && j.dst == blk | none => false
  t x.mgr.mig || t x.mgr.rep

/-- The near buoy of a block gives this outcome with a key (R337). -/
def Chan.nearDue (x : Chan) (bank block key : Nat) : Bool :=
  (sget (fun _ => (⟨0, 0, 0, 0⟩ : BuoyCell)) x.arr.buoys (bank * 33 + block)).nearMatches key
/-- A replay's block-stage output equals a reference (R341). -/
def SampleRef.equals (r : SampleRef) (q : CalSense) : Bool := q.hit == r.hit && q.win.val == r.win && q.cnt.val == r.cnt
/-- Whether a replay agrees (R341): the buoys, and HIT, WIN and CNT where the block's reference is valid. -/
def Chan.agrees (x : Chan) (smp : Sample) (bank block : Nat) (q : CalSense) : Bool :=
  q.alwaysHit && q.nearMatch == x.nearDue bank block smp.key
    && (x.isTarget (bank * 33 + block)
      || (smp.refs.filter (fun r => r.bank == bank && r.block == block && r.valid)).all (fun r => r.equals q))
/-- What a replay senses in a block whose analog array does as it should. -/
def State.senseStored (s : State) (c : Ch) (bank block : Nat) (smp : Sample) : CalSense :=
  let r := s.blockResult c bank block (s.reg (blkR c bank block)) smp.key smp.lanes smp.slot
  ⟨Fin.ofNat 36 bank, true, r.near, r.win.isSome, Fin.ofNat 4096 r.winNo, Fin.ofNat 4097 r.cnt⟩

/-- One replay of a pass, in the slot that begins at `at_` (R341, R342): 8 at each strobe code from 0 to 31, over the table's samples in turn. -/
def State.replay (s : State) (c : Ch) (at_ bank : Nat) (p : CalPass) (sense : Option CalSense) : State :=
  let x := s.chan c
  let t := bmTable (s.reg (blkR c bank p.block))
  let smps := sget (fun _ => []) x.maint.samples t
  match smps[p.idx % smps.length]? with
  | none => (s.setB (calR c bank p.block) 21 false).modMaint c (fun m => m.setCur bank p.prio none)
  | some smp =>
    let s := s.count (chR c 0x8124) 1
    let good := x.agrees smp bank p.block (sense.getD (s.senseStored c bank p.block smp)) && (p.idx % 8 == 0 || p.good)
    let codes := if p.idx % 8 = 7 ∧ good then p.codes ||| BitVec.ofNat 32 (2 ^ (p.idx / 8)) else p.codes
    let next : CalPass := { p with idx := p.idx + 1, good := good, codes := codes }
    if p.idx < 255 then s.modMaint c (fun m => { m.setCur bank p.prio (some next) with prio := m.prio.filter (fun r => r != (bank, p.block)) })
    else (s.atTime (at_ + nsT 1)).endPass c bank next

/-- A bank's part of a CAL slot. -/
def State.calBank (c : Ch) (sense : List CalSense) (at_ : Nat) (s : State) (bank : Nat) : State :=
  let s := s.cullWork c bank
  match s.calWork c at_ bank with
  | .idle => s
  | .buoy block data => s.writeBuoy c bank block data
  | .replay p => s.replay c at_ bank p (sense.find? (fun q => q.bank.val == bank))

/-- Banks with calibration work. -/
def Maint.busyBanks (m : Maint) : List Nat :=
  (List.range 36).filter (fun b => m.cur.any (·.1 / 2 == b) || m.prio.any (·.1 == b) || m.buoys.any (·.1 == b) || m.periodic.any (·.1 == b))

/-- CAL_SLOT: the next CAL slot runs one step in every bank that has work (R341, R345). -/
def execCalSlot (c : Ch) (sense : List CalSense) (s : State) : Out :=
  match s.takeSlot c 3 with
  | none => .next s
  | some n =>
    let at_ := s.cycleTime c n
    let s := s.useSlot c n
    .next ((s.chan c).maint.busyBanks.foldl (State.calBank c sense at_) s)

end Sys2Proof.Machine
end

