-- ==== Sys2Proof/Machine/Tide.lean ====
section
/-! DEFINITION. Tide period boundaries of a channel and of the module (R315 to R317, R329, R340, R346, R350, R159, R160,
R458). -/

namespace Sys2Proof.Machine

/-! ## What ends with a period -/

/-- Aging and export: frames still queued are dropped, buckets left unexamined are counted, and the next sweep starts BUDGET
buckets further on (R159, R160). Nothing is counted when AGE_EN was clear or the channel is IDLE (R358). AGE_EN
set within a period that began with it clear, or in which it was cleared, acts from the next period on: DESIGN CHOICE (log
entry 62). -/
def State.tideAging (s : State) (c : Ch) : State :=
  let f := (s.chan c).flow
  let budget := s.ageBudget c
  let s := (s.count (chR c 0x4430) f.exports.length).evCIf (!f.exports.isEmpty) c 202
  let on := s.bit (chR c 0x4000) 2
  let power := (s.chan c).power
  let runs := on && !f.ageWasOff && power == .on
  let left := if runs && !(s.agedTables c).isEmpty then budget - f.ageDone else 0
  let start := if f.ageWasOff then f.ageStart else if runs then s.agePosition c budget else s.agePosition c f.ageDone
  let s := s.ageStop c
  let s := (s.count (chR c 0x4434) left).evCIf (left != 0) c 201
  s.modFlow c (fun e => { e with
    exports := [], ageStart := start, ageIssued := 0, ageDone := 0, penDone := 0, ageStopped := false
    ageWasOff := !on || power != .on })

/-- The scrub: groups left unread are counted, and each bank's next period starts BUDGET groups after the start of this one
(R329); while EN is clear positions hold and nothing is counted (R331). Write-backs still waiting are dropped (R316), and
CORR begins again. -/
def State.tideScrub (s : State) (c : Ch) : State :=
  let x := s.chan c
  let budget := x.maint.budget
  let on := s.bit (chR c 0x7000) 0
  let left := if on then ((List.range 36).map (fun b => budget - (x.scrubOf b).read)).foldl (· + ·) 0 else 0
  let s := (s.count (chR c 0x7024) left).evCIf (left != 0) c 131
  let s := s.modChan c (fun x => (List.range 36).foldl (fun x b =>
    let v := x.scrubOf b
    let pos := if on then (v.start + budget) % 16896 else v.pos
    x.setScrub b { v with pos := pos, start := pos, read := 0, wb := [] }) x)
  let counted := s.regs.filterMap (fun p =>
    if chI c 0x400000 ≤ p.1 ∧ p.1 < chI c 0x402400 ∧ fld p.2 16 8 ≠ 0 then some p.1 else none)
  counted.foldl (fun s k => s.setField k 16 8 0) s

/-- The rail request of the period that ends (R350, R482). -/
def State.tideRail (s : State) (c : Ch) : State :=
  let m := (s.chan c).maint
  let s := s.settleRail c
  let lo := s.field (chR c 0x8000) 24 5
  let all := (s.allocBlocks c).all (fun q => m.passed.any (fun p => p.1 == q.1 * 33 + q.2.1))
  let down := !m.railUp && all && m.passed.all (fun p => decide (p.2 ≤ lo))
  if !s.bit (chR c 0x8000) 1 || s.bit (chR c 0x800C) 18 || (s.pwr.railReq.get c).isSome || !(m.railUp || down)
    || (s.chan c).power != .on then s
  else
    let v := s.pwr.vcore.get c
    let lim := s.vcoreLim c
    let s := (s.count (chR c (if m.railUp then 0x8118 else 0x811C)) 1).evC c 68
    if (if m.railUp then decide (lim.2 < v + 5) else decide (v < lim.1 + 5)) then (s.setB (chR c 0x8008) 12 true).evC c 69
    else
      ((s.setB (chR c 0x8008) 12 false).setB (chR c 0x800C) (if m.railUp then 16 else 17) true).modPwr (fun p => { p with railReq := p.railReq.set c (some m.railUp) })

/-- Calibration work still queued or in progress is dropped; periodic passes not ended are counted (R346). Of the passes that end
IDLE, those not ended are counted and wait again (R348; log entry 37). -/
def State.tideDrop (s : State) (c : Ch) : State :=
  let m := (s.chan c).maint
  let left := if m.resume || s.bit (chR c 0x8000) 0 then m.periodic.length else 0
  let s := (m.prio ++ m.cur.map (fun (p : Nat × CalPass) => (p.1 / 2, p.2.block))).foldl (fun (s : State) (q : Nat × Nat) => s.setB (calR c q.1 q.2) 21 false) s
  let s := (s.count (chR c 0x8120) left).evCIf (left != 0) c 70
  s.modMaint c (fun m => { m with
    prio := [], buoys := [], cur := [], periodic := if m.resume then m.periodic else [], passed := [], railUp := false })

/-! ## What begins with a period -/

/-- The periodic passes of a bank: up to BLOCKS of its allocated blocks in ascending order, from where the last period stopped
(R345). -/
def State.bankPeriodic (s : State) (c : Ch) (bank : Nat) : List (Nat × Nat) :=
  let l := ((s.allocBlocks c).filter (fun q => q.1 == bank && s.periodicOk c bank q.2.1)).map (·.2.1)
  let from_ := sget (fun _ => 0) (s.chan c).maint.nextBlk bank
  ((l.filter (fun b => decide (from_ ≤ b)) ++ l.filter (fun b => decide (b < from_))).take (min (s.field (chR c 0x8004) 0 6) 33)).map
    (fun b => (bank, b))

/-- The buoy writes of the period: each allocated block of a table with a sample gets the newest sample's low 80 bits with one
bit inverted (R340). -/
def State.newBuoys (s : State) (c : Ch) : List (Nat × Nat × Nat) :=
  let bit := s.field (chR c 0x6900) 0 32 % 80
  (s.allocBlocks c).filterMap (fun q =>
    ((sget (fun _ => []) (s.chan c).maint.samples (bmTable q.2.2)).head?).map (fun m => (q.1, q.2.1, (m.key % 2 ^ 80) ^^^ 2 ^ bit)))

/-- Priority passes that a period begins with: blocks still excluded by the always buoy (R346), and targets of jobs that wait
for their pass. -/
def State.newPrio (s : State) (c : Ch) : List (Nat × Nat) :=
  let x := s.chan c
  let tgt (j : Option Job) : List (Nat × Nat) := match j with
    | some j => if j.step = 5 ∧ !j.failed then [(j.dst / 33, j.dst % 33)] else []
    | none => []
  (((s.allocBlocks c).filter (fun q => s.bit (calR c q.1 q.2.1) 22)).map (fun q => (q.1, q.2.1)) ++ tgt x.mgr.mig ++ tgt x.mgr.rep).dedup

/-- Calibration work of a new period. Periodic passes are queued whatever PERIODIC_EN says: they run while it is set (R345). -/
def State.tideCal (s : State) (c : Ch) : State :=
  let prio := s.newPrio c
  let resume := (s.chan c).maint.resume
  let per := if resume then (s.chan c).maint.periodic.filter (fun q => !prio.contains q)
    else ((List.range 36).map (s.bankPeriodic c)).flatten
  let buoys := s.newBuoys c
  let s := s.modMaint c (fun m => { m with prio := prio, buoys := buoys, periodic := per })
  prio.foldl (fun s q => s.setB (calR c q.1 q.2) 21 true) s

/-- TIDE_PERIOD_BOUNDARY: at the wrap that ends a channel's tide period work left over is dropped and counted, and the next
period begins with empty queues and full budgets (R315 to R317). -/
def execTidePeriodBoundary (c : Ch) (s : State) : Out :=
  let x := s.chan c
  if x.power ≠ .on ∧ x.power ≠ .idle then .next s
  else
    let s := s.atTime (x.tideStart + nsT (256 * x.maint.tideRevs))
    let s := (((s.tideAging c).tideScrub c).tideRail c).tideDrop c
    let s := (s.newPeriod (isChanSrc c)).count (chR c 0x6900) 1
    let s := s.modChan c (fun y => { y with
      tideStart := x.tideStart + nsT (256 * x.maint.tideRevs)
      maint := { y.maint with tideRevs := max (s.field (chR c 0x6804) 0 16) 1024, budget := s.field (chR c 0x7004) 0 17 } })
    .next (s.tideCal c)

/-- MODULE_TIDE_PERIOD: 4 ms of the time domain have passed since the last one: module sources begin a new period (R458). -/
def execModuleTidePeriod (s : State) : Out :=
  if s.boot.inReset then .next s
  else
    let s := s.atTime (s.tideAt + msT 4)
    .next ({ s with tideAt := s.tideAt + msT 4 }.newPeriod (fun src => decide (src < 256)))

end Sys2Proof.Machine
end

