-- ==== Sys2Proof/Machine/Boot.lean ====
section
/-! DEFINITION. Reset, start-up and the boot image (R492 to R499, R507), and the journal records (R503, R504). -/

namespace Sys2Proof.Machine

/-! ## Reset and power-up (R492 to R494) -/

/-- NONE_OF_THE_ABOVE of page 0. -/
def State.setNota (s : State) (b : Bool) : State := s.setPage 0 (fun q => { q with nota := b })

/-- RESET_N_ASSERT: RESET_N has been low for 10 µs while VBASE is good: module reset is in force (R492, R493). -/
def execResetNAssert (s : State) : Out :=
  if !s.pwr.on || s.boot.inReset then .next s
  else
    let s : State := { s with boot := { s.boot with inReset := true } }
    .next s.endProgs.moduleReset

/-- RESET_N_DEASSERT: module reset ends with RESET_N high and VBASE good; the straps are sampled and start-up runs from the
boot controller (R217, R492, R493). -/
def execResetNDeassert (pos : BitVec 3) (s : State) : Out :=
  if !s.pwr.on || !s.boot.inReset then .next s
  else
    let s : State := { s with boot := { s.boot with posPin := pos } }
    .next s.leaveReset

/-- POWER_UP_START: VIN has reached 38 V: the power controller starts with its registers at their reset values, and the
module is in reset until VBASE is good (R474, R494). -/
def execPowerUpStart (vinMv : Nat) (s : State) : Out :=
  if s.pwr.on || decide (vinMv < 38000) then .next s
  else
    let bank := s.pwr.bank
    let s := s.moduleReset
    .next { s with
      regs := []
      pwr := { Supply.reset with on := true, vin := vinMv, inputOk := true, bank := bank, windowAt := s.now }
      boot := { s.boot with inReset := true } }

/-- BASE_PLL_LOCK: the base die PLL locks to REFCLK and the boot controller goes on; the bit that a missing REFCLK set clears
(Table 20.1). -/
def execBasePllLock (s : State) : Out :=
  if s.boot.stage ≠ 1 then .next s
  else
    let s : State := { s with boot := { s.boot with pll := true, stage := 2, stageAt := s.now } }
    .next (s.setNota false)

/-- REFCLK_MISSING: the PLL step has waited 100 ms (Table 20.1). -/
def execRefclkMissing (s : State) : Out :=
  if s.boot.stage ≠ 1 then .next s else .next (((s.atTime (s.boot.stageAt + msT 100)).evM 130).setNota true)

/-! ## The boot image (R496 to R499) -/

/-- Boot flash slot A (false) or B (true). -/
def Boot.img (b : Boot) (slot : Bool) : List Byte := if slot then b.imgB else b.imgA
/-- The header of a slot makes it a candidate. -/
def State.bootCandidate (s : State) (slot : Bool) : Bool := imageFault true s.boot.revoked (s.boot.img slot) != 2
/-- The slot that is tried first: the recorded update's, else the candidate with the higher VERSION, slot A at equal ones
(R497). -/
def State.bootFirst (s : State) : Option Bool :=
  let b := s.boot
  match s.bootCandidate false, s.bootCandidate true with
  | false, false => none
  | true, false => some (b.prefer == some true)
  | false, true => some (b.prefer != some false)
  | true, true => match b.prefer with
    | some p => some p
    | none => some (decide (imgVersion b.imgA < imgVersion b.imgB))
/-- The image of a slot is good. -/
def State.bootGood (s : State) (slot : Bool) : Bool := imageGood true s.boot.revoked (s.boot.img slot)

/-- No boot image serves: the module waits for a module reset (R498). -/
def State.bootFail (s : State) : State :=
  let s : State := { s with boot := { s.boot with stage := 0xF, fail := true } }
  s.setNota true

/-- A good image is loaded. -/
def State.bootLoad (s : State) (slot : Bool) : State :=
  let i := s.boot.img slot
  { s with boot := { s.boot with
    slot := slot, keyIdx := imgKey i, version := BitVec.ofNat 32 (imgVersion i), stage := 3, stageAt := s.now } }

/-- The first candidate failed: the other is tried (R497). -/
def State.bootFallback (s : State) : State :=
  let s : State := { s with boot := { s.boot with fallback := true } }
  (s.count (modR 0x8118) 1).evM 129

/-- BOOT_IMAGE_CHECK: the boot controller selects, loads and checks a boot image (R497, R498). -/
def execBootImageCheck (s : State) : Out :=
  if s.boot.stage ≠ 2 then .next s
  else match s.bootFirst with
    | none => .next s.bootFail
    | some p =>
      if s.bootGood p then .next (s.bootLoad p)
      else
        let s := s.bootFallback
        .next (if s.bootGood (!p) then s.bootLoad (!p) else s.bootFail)

/-- An address that the configuration section may write: region, space and offset (R499). An address of the module region
outside its control area names a word of the indirect space. -/
def bootTarget (addr : Nat) : Option (Nat × Bool × Nat) :=
  let r := addr / 2 ^ 24
  let o := addr % 2 ^ 24
  if addr % 4 ≠ 0 then none
  else if r = 0 ∧ o < 0xA000 ∧ [0, 1, 4, 5, 6, 7, 8, 9].contains (o / 0x1000) then some (0, false, o)
  else if r = 0 ∧ (indOwner 0 o).isSome then some (0, true, o)
  else if 1 ≤ r ∧ r ≤ 4 ∧ o / 0x1000 = 0xE then some (r, false, o)
  else none

/-- The items of a configuration section: address and value. -/
def cfgItems (b : List Byte) : List (Nat × Nat) :=
  let l := (b.drop (256 + imgCode b)).take (imgCfg b)
  (List.range (l.length / 8)).map (fun i => (bytesAt l (8 * i) 4, bytesAt l (8 * i + 4) 4))

/-- The boot code writes the items in order. An item outside the permitted blocks stops it, and R498 applies; one that resets
the module ends the boot code. -/
def State.bootItems : List (Nat × Nat) → State → State
  | [], s => s
  | (a, v) :: t, s =>
    match bootTarget a with
    | none => s.bootFail
    | some (r, ind, o) =>
      let s := s.landAll .boot r ind o (BitVec.ofNat 32 v)
      if s.boot.stage ≠ 3 then s else State.bootItems t s

/-- The CHPWR coefficients of the calibration record (R494). -/
def State.writeCoeffs (s : State) : State :=
  ([0, 1, 2, 3] : List Ch).foldl (fun s c => ([0, 1, 2, 3] : List (Fin 4)).foldl (fun s i =>
    s.landAll .boot (c.val + 1) false (0xE000 + 4 * i.val) (Config.calCoeff c i)) s) s

/-- What the boot code does after the last item (R499). -/
def State.bootOpen (s : State) (img : List Byte) : State :=
  let revoke : BitVec 4 := BitVec.ofNat 4 (bytesAt img 7 1) &&& ~~~(BitVec.ofNat 4 (2 ^ s.boot.keyIdx))
  let s : State := { s with boot := { s.boot with revoked := s.boot.revoked ||| revoke, stage := 4, stageAt := s.now } }
  let s := (s.setB (modR 0x0014) 0 true).evM 128
  let s := s.landAll .boot 0 false 0x1000 (setBit (s.reg (modR 0x1000)) 0 true)
  let s := ([0, 1, 2, 3] : List Ch).foldl (fun s c => if s.bit (modR 0x8008) c.val then s.writeReq c 1 else s) s
  s.checkReady

/-- BOOT_CONFIG_APPLY: the boot code writes its configuration section and the coefficients, revokes keys, locks the HFAT, enables
the link and starts the wakes (R499, Table 20.1); an item outside the permitted blocks stops it. -/
def execBootConfigApply (s : State) : Out :=
  if s.boot.stage ≠ 3 then .next s
  else
    let img := s.boot.img s.boot.slot
    let s := State.bootItems (cfgItems img) s
    .next (if s.boot.stage ≠ 3 then s else s.writeCoeffs.bootOpen img)

/-- BOOT_UPDATE_END: a good image is written into the slot not in use and preferred from the next module reset on; a failed
check leaves both slots as they are (R507). `written` tells whether the flash took the image: a failed write gives RESULT 6
(Table 20.7), and what the slot then holds is not stated (free value, log entry 8). -/
def execBootUpdateEnd (written : Bool) (s : State) : Out :=
  match s.boot.updBusy with
  | none => .next s
  | some (img, result, _) =>
    let s : State := { s with boot := { s.boot with updBusy := none, updResult := result } }
    let other := !s.boot.slot
    if result ≠ 1 then .next (s.evM 140)
    else if !written then
      let img := Config.freeBytes s.freeCount
      let s : State := { s with freeCount := s.freeCount + 1, boot := { s.boot with
        updResult := 6, imgA := if other then s.boot.imgA else img, imgB := if other then img else s.boot.imgB } }
      .next (s.evM 140)
    else
      let s : State := { s with boot := { s.boot with
        prefer := some other, imgA := if other then s.boot.imgA else img, imgB := if other then img else s.boot.imgB } }
      .next (s.evM 139)

/-! ## The journal (R503, R504) -/

/-- JOURNAL_RECORD_CLOSE: the open buffer closes into a record 1 ms after it was opened, or when it is full; not once the ebb
has begun (R478, R503). -/
def execJournalRecordClose (c : Ch) (s : State) : Out :=
  let f := s.flash c
  if f.buf.isEmpty || s.pwr.ebb.isSome || !s.pwr.on then .next s
  else
    let s := if recItems ≤ f.buf.length then s else s.atTime (f.openedAt + msT 1)
    .next (s.modFlash c (fun f => { f with
      prog := f.prog ++ [(⟨f.jseq, f.buf.take recItems, true⟩, s.now)], jseq := f.jseq + 1
      buf := f.buf.drop recItems, openedAt := s.now }))

/-- An automatic image: journal use has reached AUTO_SAVE_PCT, and an image may be taken (R304, R504). -/
def State.autoSave (s : State) (c : Ch) : State :=
  let x := s.chan c
  let full := decide (min (s.field (modR 0x8010) 8 7) 95 ≤ (s.flash c).pct)
  if !full || !x.mgr.up || x.othState != .free || (x.power != .on && x.power != .idle) then s
  else
    let s := s.evM 133
    match s.saveImage c false false with
    | none => s.evM 142
    | some s => s

/-- JOURNAL_RECORD_COMMIT: the commit flag of the record being programmed is written (R503); responses that waited for it leave
(R504). -/
def execJournalRecordCommit (c : Ch) (s : State) : Out :=
  match (s.flash c).prog with
  | [] => .next s
  | (r, _) :: rest =>
    if !s.pwr.on then .next s
    else
      let s := (s.modFlash c (fun f => { f with prog := rest, recs := f.recs ++ [r] })).count (modR 0x8100) 1
      .next ((s.respondAll c).autoSave c)

end Sys2Proof.Machine
end

