-- ==== Sys2Proof/Machine/Dispatch.lean ====
section
/-! DEFINITION. The dispatch: one arm per command, each one direct call of its meaning. -/

namespace Sys2Proof.Machine

/-- The effect of a command on everything but the queue. -/
def exec (i : Instr) (s : State) : Host.Outcome State Fault Refusal :=
  match i with
  | .search f => Sys2Proof.Machine.execSearch f s
  | .acceptance => Sys2Proof.Machine.execAcceptance s
  | .channelIngress c => Sys2Proof.Machine.execChannelIngress c s
  | .searchSlot c => Sys2Proof.Machine.execSearchSlot c s
  | .lookupDone c ctx sense => Sys2Proof.Machine.execLookupDone c ctx sense s
  | .extAdReadDone c ctx lookup => Sys2Proof.Machine.execExtAdReadDone c ctx lookup s
  | .flowBucketArrival c => Sys2Proof.Machine.execFlowBucketArrival c s
  | .lineGroupGrant c => Sys2Proof.Machine.execLineGroupGrant c s
  | .lineArrival c slot => Sys2Proof.Machine.execLineArrival c slot s
  | .flowCommit c ticket => Sys2Proof.Machine.execFlowCommit c ticket s
  | .flowSlotDeadline c ctx => Sys2Proof.Machine.execFlowSlotDeadline c ctx s
  | .cacheWriteback c slot => Sys2Proof.Machine.execCacheWriteback c slot s
  | .relocationTurn c => Sys2Proof.Machine.execRelocationTurn c s
  | .agingSweepBucket c => Sys2Proof.Machine.execAgingSweepBucket c s
  | .agingPenExamine c => Sys2Proof.Machine.execAgingPenExamine c s
  | .resultAssemblyDone c ctx => Sys2Proof.Machine.execResultAssemblyDone c ctx s
  | .contextFreeCrossed c => Sys2Proof.Machine.execContextFreeCrossed c s
  | .resultAtReleaseUnit c => Sys2Proof.Machine.execResultAtReleaseUnit c s
  | .release domain => Sys2Proof.Machine.execRelease domain s
  | .hostEgressCycle mem => Sys2Proof.Machine.execHostEgressCycle mem s
  | .cancel hf tag => Sys2Proof.Machine.execCancel hf tag s
  | .cancelAtChannel c => Sys2Proof.Machine.execCancelAtChannel c s
  | .cancelledContextFreed c ctx => Sys2Proof.Machine.execCancelledContextFreed c ctx s
  | .slotCreditIssue c => Sys2Proof.Machine.execSlotCreditIssue c s
  | .groupCreditIssue c => Sys2Proof.Machine.execGroupCreditIssue c s
  | .chStateReqOn c a => Sys2Proof.Machine.execChStateReqOn c a s
  | .chStateReqIdle c a => Sys2Proof.Machine.execChStateReqIdle c a s
  | .chStateReqOff c a => Sys2Proof.Machine.execChStateReqOff c a s
  | .chStateReqCancel c a => Sys2Proof.Machine.execChStateReqCancel c a s
  | .chAdmitEnWrite c a en => Sys2Proof.Machine.execChAdmitEnWrite c a en s
  | .idleEntryComplete c => Sys2Proof.Machine.execIdleEntryComplete c s
  | .resumeCalPassDone c => Sys2Proof.Machine.execResumeCalPassDone c s
  | .chOffEntered c => Sys2Proof.Machine.execChOffEntered c s
  | .chWakeComplete c => Sys2Proof.Machine.execChWakeComplete c s
  | .profileEnable c p a => Sys2Proof.Machine.execProfileEnable c p a s
  | .profileDisable c p a => Sys2Proof.Machine.execProfileDisable c p a s
  | .profileReportAtBaseDie c p => Sys2Proof.Machine.execProfileReportAtBaseDie c p s
  | .flowTableEnable c t a => Sys2Proof.Machine.execFlowTableEnable c t a s
  | .epochCmdStage c a => Sys2Proof.Machine.execEpochCmdStage c a s
  | .epochCmdCommit c a => Sys2Proof.Machine.execEpochCmdCommit c a s
  | .epochCmdArm c a => Sys2Proof.Machine.execEpochCmdArm c a s
  | .epochCmdDisarm c a => Sys2Proof.Machine.execEpochCmdDisarm c a s
  | .epochCmdEndSlack c a => Sys2Proof.Machine.execEpochCmdEndSlack c a s
  | .epochCmdFree c a => Sys2Proof.Machine.execEpochCmdFree c a s
  | .scheduleFires c => Sys2Proof.Machine.execScheduleFires c s
  | .commitTakesEffect c => Sys2Proof.Machine.execCommitTakesEffect c s
  | .slackWaterEnd c => Sys2Proof.Machine.execSlackWaterEnd c s
  | .retireSweep c => Sys2Proof.Machine.execRetireSweep c s
  | .timeTick => Sys2Proof.Machine.execTimeTick s
  | .ppsEdge falling => Sys2Proof.Machine.execPpsEdge falling s
  | .ppsHoldover => Sys2Proof.Machine.execPpsHoldover s
  | .timeOfDay hf seconds => Sys2Proof.Machine.execTimeOfDay hf seconds s
  | .todFrameDiscard => Sys2Proof.Machine.execTodFrameDiscard s
  | .timeCmdSet a => Sys2Proof.Machine.execTimeCmdSet a s
  | .timeCmdInvalidate a => Sys2Proof.Machine.execTimeCmdInvalidate a s
  | .timeSnapshotRead a => Sys2Proof.Machine.execTimeSnapshotRead a s
  | .cascKeyFrame h f => Sys2Proof.Machine.execCascKeyFrame h f s
  | .cascCancelFrame h => Sys2Proof.Machine.execCascCancelFrame h s
  | .cascWashFrame h r => Sys2Proof.Machine.execCascWashFrame h r s
  | .backwashMerge gsn => Sys2Proof.Machine.execBackwashMerge gsn s
  | .cascPortDown p => Sys2Proof.Machine.execCascPortDown p s
  | .cascPortUp p neighbourPos lanes => Sys2Proof.Machine.execCascPortUp p neighbourPos lanes s
  | .cascEnable a en => Sys2Proof.Machine.execCascEnable a en s
  | .cascBypass a on => Sys2Proof.Machine.execCascBypass a on s
  | .mbxWrite hf c rtag mbx offw lenw data => Sys2Proof.Machine.execMbxWrite hf c rtag mbx offw lenw data s
  | .mbxDoorbell c a bells => Sys2Proof.Machine.execMbxDoorbell c a bells s
  | .mbxDispatch c => Sys2Proof.Machine.execMbxDispatch c s
  | .mbxResponseSent c mbx => Sys2Proof.Machine.execMbxResponseSent c mbx s
  | .lockGrant c => Sys2Proof.Machine.execLockGrant c s
  | .engineLockGroupGrant c => Sys2Proof.Machine.execEngineLockGroupGrant c s
  | .sheepdogInspection c => Sys2Proof.Machine.execSheepdogInspection c s
  | .commandRestart c x => Sys2Proof.Machine.execCommandRestart c x s
  | .mgrWatchdogExpiry c => Sys2Proof.Machine.execMgrWatchdogExpiry c s
  | .mgrRestart c a => Sys2Proof.Machine.execMgrRestart c a s
  | .mgrRestartComplete c => Sys2Proof.Machine.execMgrRestartComplete c s
  | .mgrUpdateHalt c => Sys2Proof.Machine.execMgrUpdateHalt c s
  | .mgrUpdateComplete c => Sys2Proof.Machine.execMgrUpdateComplete c s
  | .mgrUpdateFallback c => Sys2Proof.Machine.execMgrUpdateFallback c s
  | .tableCreate c x => Sys2Proof.Machine.execTableCreate c x s
  | .tableDestroy c x => Sys2Proof.Machine.execTableDestroy c x s
  | .tableResize c x => Sys2Proof.Machine.execTableResize c x s
  | .ruleInsert c x => Sys2Proof.Machine.execRuleInsert c x s
  | .ruleDelete c x => Sys2Proof.Machine.execRuleDelete c x s
  | .ruleModifyAd c x => Sys2Proof.Machine.execRuleModifyAd c x s
  | .ruleRead c x => Sys2Proof.Machine.execRuleRead c x s
  | .ruleBulkInsert c x => Sys2Proof.Machine.execRuleBulkInsert c x s
  | .epochPrepare c x => Sys2Proof.Machine.execEpochPrepare c x s
  | .epochCommit c x => Sys2Proof.Machine.execEpochCommit c x s
  | .epochAbort c x => Sys2Proof.Machine.execEpochAbort c x s
  | .epochRetire c x => Sys2Proof.Machine.execEpochRetire c x s
  | .epochImageLoad c x => Sys2Proof.Machine.execEpochImageLoad c x s
  | .flowTableCreate c x => Sys2Proof.Machine.execFlowTableCreate c x s
  | .flowInsert c x => Sys2Proof.Machine.execFlowInsert c x s
  | .flowDelete c x => Sys2Proof.Machine.execFlowDelete c x s
  | .flowRead c x => Sys2Proof.Machine.execFlowRead c x s
  | .flowFlush c x => Sys2Proof.Machine.execFlowFlush c x s
  | .flowRelocate c x => Sys2Proof.Machine.execFlowRelocate c x s
  | .blockMigrate c x => Sys2Proof.Machine.execBlockMigrate c x s
  | .blockRepair c x => Sys2Proof.Machine.execBlockRepair c x s
  | .defrag c x => Sys2Proof.Machine.execDefrag c x s
  | .mirrorSet c x => Sys2Proof.Machine.execMirrorSet c x s
  | .profileWrite c x => Sys2Proof.Machine.execProfileWrite c x s
  | .profileRead c x => Sys2Proof.Machine.execProfileRead c x s
  | .testMarch c x => Sys2Proof.Machine.execTestMarch c x s
  | .calRun c x => Sys2Proof.Machine.execCalRun c x s
  | .channelDrain c x => Sys2Proof.Machine.execChannelDrain c x s
  | .channelResume c x => Sys2Proof.Machine.execChannelResume c x s
  | .managerUpdate c x => Sys2Proof.Machine.execManagerUpdate c x s
  | .imageSave c x => Sys2Proof.Machine.execImageSave c x s
  | .imageRestore c x => Sys2Proof.Machine.execImageRestore c x s
  | .statsRead c x => Sys2Proof.Machine.execStatsRead c x s
  | .writeSlot c => Sys2Proof.Machine.execWriteSlot c s
  | .scrubSlot c => Sys2Proof.Machine.execScrubSlot c s
  | .scrubRepairStart c => Sys2Proof.Machine.execScrubRepairStart c s
  | .calSlot c sense => Sys2Proof.Machine.execCalSlot c sense s
  | .migSlot c => Sys2Proof.Machine.execMigSlot c s
  | .calCtrlSwap c a => Sys2Proof.Machine.execCalCtrlSwap c a s
  | .calSwapTakesEffect c => Sys2Proof.Machine.execCalSwapTakesEffect c s
  | .tidePeriodBoundary c => Sys2Proof.Machine.execTidePeriodBoundary c s
  | .moduleTidePeriod => Sys2Proof.Machine.execModuleTidePeriod s
  | .flitReceived p flit fec mem => Sys2Proof.Machine.execFlitReceived p flit fec mem s
  | .ctrlStatusFlit p payload => Sys2Proof.Machine.execCtrlStatusFlit p payload s
  | .nakReceived p payload => Sys2Proof.Machine.execNakReceived p payload s
  | .ctrlFlitSend p => Sys2Proof.Machine.execCtrlFlitSend p s
  | .ackTimeout p => Sys2Proof.Machine.execAckTimeout p s
  | .laneLossOfLock p lane => Sys2Proof.Machine.execLaneLossOfLock p lane s
  | .recoveryComplete p lanes => Sys2Proof.Machine.execRecoveryComplete p lanes s
  | .recoveryTimeout p => Sys2Proof.Machine.execRecoveryTimeout p s
  | .linkEnable a => Sys2Proof.Machine.execLinkEnable a s
  | .linkDisable a => Sys2Proof.Machine.execLinkDisable a s
  | .linkRetrain a => Sys2Proof.Machine.execLinkRetrain a s
  | .trainingStepComplete p lanes reversed payload => Sys2Proof.Machine.execTrainingStepComplete p lanes reversed payload s
  | .trainingTimeout p => Sys2Proof.Machine.execTrainingTimeout p s
  | .bulkWrite hf c rtag unitsM1 off64 data => Sys2Proof.Machine.execBulkWrite hf c rtag unitsM1 off64 data s
  | .bulkRead hf c rtag unitsM1 off64 => Sys2Proof.Machine.execBulkRead hf c rtag unitsM1 off64 s
  | .writeDirect hf c items => Sys2Proof.Machine.execWriteDirect hf c items s
  | .registerWrite a addr data => Sys2Proof.Machine.execRegisterWrite a addr data s
  | .aliasWrite a addr data => Sys2Proof.Machine.execAliasWrite a addr data s
  | .indDataRead region a => Sys2Proof.Machine.execIndDataRead region a s
  | .indDataWrite region a data => Sys2Proof.Machine.execIndDataWrite region a data s
  | .indAccessDone region requester => Sys2Proof.Machine.execIndAccessDone region requester s
  | .indTimeout region requester => Sys2Proof.Machine.execIndTimeout region requester s
  | .configParityMismatch region indirect off flip => Sys2Proof.Machine.execConfigParityMismatch region indirect off flip s
  | .ctxHwmClr c a => Sys2Proof.Machine.execCtxHwmClr c a s
  | .evtClr region idx bits a => Sys2Proof.Machine.execEvtClr region idx bits a s
  | .spadWindowAccess a addr write data => Sys2Proof.Machine.execSpadWindowAccess a addr write data s
  | .spadHandoverRequest c bank owner manager a => Sys2Proof.Machine.execSpadHandoverRequest c bank owner manager a s
  | .spadHandover c bank => Sys2Proof.Machine.execSpadHandover c bank s
  | .marchStart c bank destructive pattern a => Sys2Proof.Machine.execMarchStart c bank destructive pattern a s
  | .marchEnd c failing => Sys2Proof.Machine.execMarchEnd c failing s
  | .hbmArbGrant c requests bursts withdrawn => Sys2Proof.Machine.execHbmArbGrant c requests bursts withdrawn s
  | .chFaultDetect c causes => Sys2Proof.Machine.execChFaultDetect c causes s
  | .d2dLinkFailure c => Sys2Proof.Machine.execD2dLinkFailure c s
  | .chPllLoss c => Sys2Proof.Machine.execChPllLoss c s
  | .ctxWatchdogExpiry c ctx => Sys2Proof.Machine.execCtxWatchdogExpiry c ctx s
  | .hbmPhyRetrain c => Sys2Proof.Machine.execHbmPhyRetrain c s
  | .hbmPhyRetrainEnd c good => Sys2Proof.Machine.execHbmPhyRetrainEnd c good s
  | .chFaultCauseClears c cause => Sys2Proof.Machine.execChFaultCauseClears c cause s
  | .inputLoss vinMv => Sys2Proof.Machine.execInputLoss vinMv s
  | .inputRestored vinMv => Sys2Proof.Machine.execInputRestored vinMv s
  | .rideExpiry => Sys2Proof.Machine.execRideExpiry s
  | .bankLow bankMv => Sys2Proof.Machine.execBankLow bankMv s
  | .ebbChannelHalt => Sys2Proof.Machine.execEbbChannelHalt s
  | .ebbLinkDown => Sys2Proof.Machine.execEbbLinkDown s
  | .ebbEnd => Sys2Proof.Machine.execEbbEnd s
  | .railFault rail => Sys2Proof.Machine.execRailFault rail s
  | .thermalSample baseC stageC chC => Sys2Proof.Machine.execThermalSample baseC stageC chC s
  | .inputPowerMeasurement vinMv iinMa chMw => Sys2Proof.Machine.execInputPowerMeasurement vinMv iinMa chMw s
  | .governorWindow => Sys2Proof.Machine.execGovernorWindow s
  | .railStepComplete c => Sys2Proof.Machine.execRailStepComplete c s
  | .holdupCharged bankMv => Sys2Proof.Machine.execHoldupCharged bankMv s
  | .pmbusCommand code write data => Sys2Proof.Machine.execPmbusCommand code write data s
  | .clearFaults => Sys2Proof.Machine.execClearFaults s
  | .resetNAssert => Sys2Proof.Machine.execResetNAssert s
  | .resetNDeassert pos => Sys2Proof.Machine.execResetNDeassert pos s
  | .modReset a => Sys2Proof.Machine.execModReset a s
  | .powerUpStart vinMv => Sys2Proof.Machine.execPowerUpStart vinMv s
  | .basePllLock => Sys2Proof.Machine.execBasePllLock s
  | .refclkMissing => Sys2Proof.Machine.execRefclkMissing s
  | .bootImageCheck => Sys2Proof.Machine.execBootImageCheck s
  | .bootConfigApply => Sys2Proof.Machine.execBootConfigApply s
  | .journalRecordClose c => Sys2Proof.Machine.execJournalRecordClose c s
  | .journalRecordCommit c => Sys2Proof.Machine.execJournalRecordCommit c s
  | .startupRestore c => Sys2Proof.Machine.execStartupRestore c s
  | .bootUpdateStart a => Sys2Proof.Machine.execBootUpdateStart a s
  | .bootUpdateEnd written => Sys2Proof.Machine.execBootUpdateEnd written s
  | .commandTimeout c x => Sys2Proof.Machine.execCommandTimeout c x s
  | .cascadeMergeGrant => Sys2Proof.Machine.execCascadeMergeGrant s

end Sys2Proof.Machine
end

