-- ==== Sys2Proof/Safety.lean ====
section
/-! DEFINITION. What a safe outcome is, and the invariant that every step keeps: each addressed memory and the register
store stand in their one canonical form, the event queue holds at most its 1,024 records (R462), and every channel
has its 16 mailboxes (R244). -/

namespace Sys2Proof.Machine

/-- A command completes: it answers a next state. -/
def Completes (o : Host.Outcome State Fault Refusal) : Prop := ∃ t, o = .next t

/-- The ternary array's memories are in canonical form. -/
def ArrayMem.wf (a : ArrayMem) : Bool :=
  swf (fun _ => emptyWord) a.words && swf (fun _ => emptyUnit) a.units && swf (fun _ => (⟨0, 0⟩ : AdCell)) a.ads &&
    swf (fun _ => (⟨0, 0, 0, 0⟩ : BuoyCell)) a.buoys

/-- A channel's HBM is in canonical form. -/
def hbmWf (l : Store HbmSlot) : Bool := swf (fun _ => (⟨0, 0⟩ : HbmSlot)) l

/-- A channel's scratchpad is in canonical form. -/
def spadWf (l : Store SpadCell) : Bool := swf (fun _ => (⟨0, 0⟩ : SpadCell)) l

/-- What the invariant says of a channel. -/
def Chan.wf (x : Chan) : Prop :=
  x.arr.wf = true ∧ hbmWf x.hbm = true ∧ spadWf x.spad = true ∧ x.mgr.boxes.length = 16

/-- The invariant of the module. -/
def State.Inv (s : State) : Prop :=
  swf regReset s.regs = true ∧ s.ev.queue.length ≤ 1024 ∧ ∀ c, (s.chan c).wf

/-- A write (or read) frame to a direct register is served at once (R31, R401 to R403, R414): the link is up, no frame of VC2 waits
before it and a completion has room, no other requester meets it at the register port, the frame names all byte lanes, its host
function has the right, and the register is served in the channel's state (R31). -/
structure Served (s : State) (a : RegAcc) (region off : Nat) (write : Bool := true) : Prop where
  up : s.host.isUp = true
  first : s.vc2 = []
  alone : a.rivals = []
  room : s.egr.completions.length < 256
  lanes : a.be = 15
  right : s.mayReg a.hf region (off / 0x1000) write = true
  live : region = 0 ∨ baseBlock off = true ∨ (s.chan (Fin.ofNat 4 (region - 1))).power = .on ∨ (s.chan (Fin.ofNat 4 (region - 1))).power = .idle

/-- The frame of a host function was acknowledged without an error, and nothing else happened to the host port and the
egress queues: its COMPLETION is the last of the queue (R402), and its bytes have left the receive buffer. -/
def Acked (s t : State) (a : RegAcc) (region opc : Nat) (data : List Byte) (bell : Option (Nat × Nat) := none) : Prop :=
  t.egr = { s.egr with
    completions := s.egr.completions ++ [⟨a.hf, region, completionBytes a.hf 0 a.rtag opc data, bell⟩] } ∧
  t.host = { s.host with arrived := t.host.arrived }

/-- The addressed memories of every channel are as before: array, HBM and scratchpad. -/
def MemSame (s t : State) : Prop :=
  ∀ d, (t.chan d).arr = (s.chan d).arr ∧ (t.chan d).hbm = (s.chan d).hbm ∧ (t.chan d).spad = (s.chan d).spad

/-- A register of the event machinery (Tables 18.3 to 18.9): module offsets 0x4000 to 0x42FF, channel offsets 0xB000 to
0xB2FF. -/
def isEventReg (k : Nat) : Bool :=
  let o := k % 2 ^ 24
  decide (k / 2 ^ 24 % 2 = 0) &&
    (if k / 2 ^ 25 = 0 then decide (0x4000 ≤ o) && decide (o < 0x4300) else decide (0xB000 ≤ o) && decide (o < 0xB300))

/-- No register changes but those listed and those of the event machinery. -/
def RegsSame (s t : State) (ks : List Nat) : Prop := ∀ k, isEventReg k = false → k ∉ ks → t.reg k = s.reg k

/-! ## Mailbox commands -/

/-- Executor `x` of a channel runs the command with code `code` for a mailbox and may go on: Oluek runs, and the command was not broken, waits
for no lock and has no response yet (R250, R258). -/
structure Turn (s : State) (c : Ch) (x : Nat) (e : Exec) (code : Nat) : Prop where
  runs : (s.chan c).mgr.exec? x = some e
  row : e.code = code
  mailbox : e.mbx ≠ 16
  up : (s.chan c).mgr.up = true
  whole : e.broken = none
  granted : e.want = []
  unanswered : e.resp = none

/-- Oluek serves its watchdog as it takes a turn (R260). -/
def State.turn (s : State) (c : Ch) : State := s.modMgr c (fun m => { m with served := s.now })

/-- All checks of a command pass (R267), the journal's room included (R504). -/
def Passes (s : State) (c : Ch) (q : Checks) : Prop :=
  firstChk q.2.1 = none ∧ (q.1 && (s.flash c).full) = false ∧ firstChk q.2.2 = none

/-- A command has ended: its response stands and waits only for its queued items or for SYNC_RESP (R504), or it has left: the
executor is free, holds no lock, and with the host link up the response is among those to send (R249). -/
def Ended (t : State) (c : Ch) (x : Nat) (e : Exec) (status : Nat) (detail : Nat := 0) (res : List Byte := []) : Prop :=
  let r := responseBytes status e.seq e.code e.mbx detail res
  ((∃ q, (t.chan c).mgr.exec? x = some q ∧ q.resp = some r) ∧
    (t.writing c x = true ∨ t.bit (modR 0x8010) 0 = true)) ∨
  ((t.chan c).mgr.exec? x = none ∧ (t.chan c).mgr.keysOf x = [] ∧
    (t.host.isUp = true → ⟨c, e.mbx, true, mbxResponseBytes (e.mbx / 2) c e.mbx r⟩ ∈ t.egr.responses))

/-- The command goes on in a later turn, at a point `phase` with the numbers `nums` carried along. -/
def Waits (t : State) (c : Ch) (x : Nat) (phase : Nat) (nums : List Nat) : Prop :=
  ∃ q, (t.chan c).mgr.exec? x = some q ∧ q.phase = phase ∧ q.nums = nums ∧ q.resp = none

/-- The holder has been granted every lock of a list. -/
def HoldsAll (s : State) (c : Ch) (x : Nat) (keys : List Nat) : Prop := ∀ k ∈ keys, s.holds c x k = true

/-- Channel, executor, command code and checks of a mailbox command's row. -/
def mailboxRow : Instr → Option (Ch × Fin 8 × Nat × (State → Ch → Exec → Checks))
  | .tableCreate c x => some (c, x, 0x01, State.tableCreateChecks)
  | .tableDestroy c x => some (c, x, 0x02, State.tableDestroyChecks)
  | .tableResize c x => some (c, x, 0x03, State.tableResizeChecks)
  | .ruleInsert c x => some (c, x, 0x10, State.ruleInsertChecks)
  | .ruleDelete c x => some (c, x, 0x11, State.ruleDeleteChecks)
  | .ruleModifyAd c x => some (c, x, 0x12, State.ruleModifyChecks)
  | .ruleRead c x => some (c, x, 0x13, State.ruleReadChecks)
  | .ruleBulkInsert c x => some (c, x, 0x14, State.bulkInsertChecks)
  | .epochPrepare c x => some (c, x, 0x20, State.epochPrepareChecks)
  | .epochCommit c x => some (c, x, 0x21, State.epochCommitChecks)
  | .epochAbort c x => some (c, x, 0x22, State.epochAbortChecks)
  | .epochRetire c x => some (c, x, 0x23, State.epochRetireChecks)
  | .epochImageLoad c x => some (c, x, 0x24, State.epochImageChecks)
  | .flowTableCreate c x => some (c, x, 0x30, State.flowCreateChecks)
  | .flowInsert c x => some (c, x, 0x31, State.flowInsertChecks)
  | .flowDelete c x => some (c, x, 0x32, State.flowDeleteChecks)
  | .flowRead c x => some (c, x, 0x33, State.flowReadChecks)
  | .flowFlush c x => some (c, x, 0x34, State.flowFlushChecks)
  | .flowRelocate c x => some (c, x, 0x35, State.flowRelocateChecks)
  | .blockMigrate c x => some (c, x, 0x40, State.migrateChecks)
  | .blockRepair c x => some (c, x, 0x41, State.repairChecks)
  | .defrag c x => some (c, x, 0x42, State.defragChecks)
  | .mirrorSet c x => some (c, x, 0x43, State.mirrorChecks)
  | .profileWrite c x => some (c, x, 0x50, State.profileWriteChecks)
  | .profileRead c x => some (c, x, 0x51, State.profileReadChecks)
  | .testMarch c x => some (c, x, 0x60, State.marchChecks)
  | .calRun c x => some (c, x, 0x61, State.calRunChecks)
  | .channelDrain c x => some (c, x, 0x70, State.drainChecks)
  | .channelResume c x => some (c, x, 0x71, State.resumeChecks)
  | .managerUpdate c x => some (c, x, 0x72, State.updateChecks)
  | .imageSave c x => some (c, x, 0x80, State.imageSaveChecks)
  | .imageRestore c x => some (c, x, 0x81, State.imageRestoreChecks)
  | .statsRead c x => some (c, x, 0x90, State.statsChecks)
  | _ => none

/-- Only the manager of one channel and the responses that wait to be sent may differ. -/
def OnlyMgr (s t : State) (c : Ch) : Prop :=
  t = { s with
    egr := { s.egr with responses := t.egr.responses }
    ch := s.ch.set c { s.chan c with mgr := (t.chan c).mgr } }

/-- The manager queue holds array items only: no register or epoch item waits in it. -/
def ArrayQueue (s : State) (c : Ch) : Prop := ∀ i ∈ (s.chan c).mgr.items, itemType i.item < 16

/-- The command now asks for the locks of some keys, in ascending order (R256). -/
def Asks (t : State) (c : Ch) (x : Nat) (keys : List Nat) : Prop :=
  ∃ q, (t.chan c).mgr.exec? x = some q ∧ q.want = sortKeys keys ∧ q.resp = none

/-- No engine's job waits for locks without its source block (Table 13.1). -/
def JobsKeepSource (s : State) (c : Ch) : Prop :=
  ∀ h j, (s.chan c).mgr.job h = some j → j.step = 0 → s.bit (blkR c (j.src / 33) (j.src % 33)) 0 = true

/-- A holder asks for nothing that the next cycle of the lock table could give it (R256, R257). -/
def Mgr.asksNothing (m : Mgr) (y : Nat) : Prop :=
  (y < 8 → ∀ k, (m.exec? y).bind Exec.request = some k → (m.lock? k).isSome = true) ∧ (8 ≤ y → m.groupFree (m.job y) = false)

/-- Items of an executor have joined the manager queue and, without the mark of an AD half, the channel's open journal buffer. -/
def Queued (s t : State) (c : Ch) (x : Nat) (its : List (BitVec 256)) : Prop :=
  (t.chan c).mgr.items = (s.chan c).mgr.items ++ its.map (fun i => ⟨x, i⟩) ∧
    (t.flash c).buf = (s.flash c).buf ++ its.map bareItem

/-- An insert into a table finds its place: the change reaches some slots, no entry with its AD key is live in them, entry `k`
is the lowest that is free and eligible, and its block's lock is held (R272, R273, Table 10.3). -/
def Inserts (s : State) (c : Ch) (x t target : Nat) (e : Ent) (slots : List Nat) (tr : Track) (k : Nat) : Prop :=
  let r := s.tableOf c t
  let a := s.planned c
  s.reach c a r target (e.ad &&& r.mask) = some (slots, tr) ∧
  (a.carriers r (e.ad &&& r.mask)).find? (fun k => slots.any (fun i => a.live i k)) = none ∧
  a.freeEntry r.width r.blocks e.ranged = some k ∧ s.holds c x (k / 4096) = true

/-! ## Links and events -/

/-- The pending bit of a source is set (R457). -/
def Raised (t : State) (src : Nat) : Prop := t.bit (evtBit src 0x4000 0xB000).1 (evtBit src 0x4000 0xB000).2 = true

/-- A final response of a mailbox waits on VC3 or is being sent. -/
def State.finalQueued (s : State) (d : Ch) (i : Nat) : Prop :=
  (∃ r ∈ s.egr.responses, r.final = true ∧ r.ch = d ∧ r.mbx = i) ∨
  (∃ k b, s.egr.cur3 = some k ∧ k.box = some b ∧ Fin.ofNat 4 b.1 = d ∧ b.2 = i)

/-- The host link, which was up, went down (R387): its buffers and every frame queued for VC1, VC3 and VC4 are gone, results counted,
and each mailbox whose final response was discarded is EMPTY. It trains again, or not. -/
structure HostLost (s t : State) (train : Bool) : Prop where
  port : t.host = { s.host.stop t.now train with arrived := t.host.arrived }
  queues : t.egr = { s.egr with
    vc1 := [], completions := [], responses := [], cur1 := none, cur3 := none, cur4 := none, pos1 := 0 }
  events : t.ev.queue = []
  downs : t.reg (modR 0x112C) = satAdd (s.reg (modR 0x112C)) 1
  lost : t.reg (modR 0x1130) = satAdd (s.reg (modR 0x1130)) (s.egr.vc1.length + b2n s.egr.cur1.isSome)
  emptied : ∀ d i, s.finalQueued d i →
    (t.chan d).mgr.boxes[i]? = ((s.chan d).mgr.boxes[i]?).map (fun _ => (⟨.empty, []⟩ : Mailbox))
  kept : ∀ d i, ¬ s.finalQueued d i → (t.chan d).mgr.boxes[i]? = (s.chan d).mgr.boxes[i]?
  rest : ∀ d, t.chan d = { s.chan d with
    mgr := { (s.chan d).mgr with boxes := (t.chan d).mgr.boxes }
    flow := { (s.chan d).flow with exports := [] } }

/-- A recovery has begun on a port that was UP (R386): everything queued is kept. -/
structure Recovering (s t : State) (p : Port) : Prop where
  port : t.port p = { s.port p with state := .recovery, step := 2, stepAt := t.now, recoveryAt := t.now, nakRuns := 0 }
  mode : ∀ k, (p = .host ∧ k = modR 0x3000) ∨ (p = .up ∧ k = modR 0x3010) → t.reg k = setFld (s.reg k) 1 2 3
  event : p = .host → t.reg (modR 0x111C) = satAdd (s.reg (modR 0x111C)) 1 ∧ Raised t 34 ∧ Raised t 32
  regs : RegsSame s t (match p with | .host => [modR 0x3000, modR 0x111C] | .up => [modR 0x3010] | .down => [])
  rest : t = { (s.setPort p (t.port p)) with now := t.now, regs := t.regs, ev := t.ev }

/-! ## Registers -/

/-- A direct register whose write does more than land its fields: it starts something, or it belongs to an indirect pair. -/
def writeActs (region off : Nat) : Bool :=
  if region = 0 then
    inArr off 0x4040 4 8 || [0x1000, 0x1040, 0x5020, 0x6000, 0x800C, 0x8070, 0x9000, 0xA000, 0xA004, 0xA008, 0xA00C].contains off
  else
    inArr off 0x2000 4 64 || inArr off 0x4100 16 16 || inArr off 0x9010 4 16 || inArr off 0xB040 4 15 ||
      [4, 0x3004, 0x4000, 0x5010, 0x6800, 0x9050, 0xA000, 0xA00C, 0xC000, 0xC004, 0xC008, 0xC00C].contains off

/-- A field takes what software writes: RW, CNT, and RWD while the owning block is disabled (R413, R415, R417). -/
def Fld.takes (f : Fld) (disabled : Bool) : Bool := f.cls == .rw || f.cls == .cnt || (f.cls == .rwd && disabled)

/-- The fields of a register after a write of `v` (R413): those that take it have its bits, the others what they had. -/
def Landed (old new v : Word) (fs : List Fld) (disabled : Bool) (reach : Word) : Prop :=
  ∀ f ∈ fs, fld new f.lo f.n =
    (if f.takes disabled then fld ((v &&& reach) ||| (old &&& ~~~reach)) f.lo f.n else fld old f.lo f.n)

/-! ## Channel-down faults -/

/-- The first report of a channel-down fault has acted (R466 to R468): the channel does not take searches in, every search that it still owed
is complete as CHANNEL_DOWN, its contexts and crossings are empty, modified lines are written back while the HBM path works and
else lost, Oluek is halted with its mailboxes answered. Registers outside `ks` and the three named ones keep their values. -/
structure ChannelLost (s t : State) (c : Ch) (causes : BitVec 6) (ks : List Nat) : Prop where
  reported : (t.chan c).causes = causes
  power : (t.chan c).power = (s.chan c).power
  shut : t.bit (chCtrl c) 0 = false
  log : t.reg (modR (0x4110 + 4 * c.val)) = (if s.bit (modR (0x4110 + 4 * c.val)) 31 then s.reg (modR (0x4110 + 4 * c.val))
    else BitVec.ofNat 32 (causes.toNat + 2 ^ 31))
  event : Raised t (chSrc c 453)
  ended : (t.chan c).ctxs = [] ∧ (t.chan c).launch = none ∧ (t.chan c).charges = [] ∧ (t.chan c).ingress = [] ∧
    (t.chan c).egress = [] ∧ (t.chan c).freed = [] ∧ (t.chan c).flow.tickets = (s.chan c).flow.tickets.filter (fun k => k.owner.isEngine)
  answered : ∀ r ∈ s.rels, r.ch = c → r.result = none →
    ∃ q ∈ t.rels, q.gsn = r.gsn ∧ q.result = some (bareResult .channelDown)
  others : ∀ (i : Nat) (r : RelRec), s.rels[i]? = some r → (r.result.isSome = true ∨
    ∀ q ∈ s.rels, q.ch = c → q.result = none → q.gsn ≠ r.gsn) → t.rels[i]? = some r
  count : t.rels.length = s.rels.length ∧ t.reg (modR 0x2114) = satAdd (s.reg (modR 0x2114)) (s.chan c).egress.length
  lines : (t.chan c).flow.lines = (s.chan c).flow.lines.map (fun l => { l with dirty := false })
  kept : causes &&& 0xE = 0 → ((s.chan c).flow.lines.map (·.slot)).Nodup →
    ∀ k, (t.chan c).hbmSlot k = (match (s.chan c).flow.lines.find? (fun l => l.slot == k && l.dirty) with
      | some l => ⟨l.data, l.sb⟩ | none => (s.chan c).hbmSlot k)
  lost : causes &&& 0xE ≠ 0 → (t.chan c).hbm = (s.chan c).hbm
  halted : (t.chan c).mgr.up = false ∧ (t.chan c).mgr.execs = [] ∧ (t.chan c).mgr.rung = [] ∧
    (∀ n, n < 16 → ((t.chan c).mgr.box n).state ≠ .pending ∧ ((t.chan c).mgr.box n).state ≠ .running) ∧
    (t.chan c).mgr.locks = (s.chan c).mgr.locks.filter (fun p => decide (8 ≤ p.2.holder))
  request : (s.chan c).power = .idle → (s.chan c).req = some .on →
    (t.chan c).req = none ∧ t.field (chCtrl c) 1 2 = 0 ∧ (t.chan c).maint.resume = false
  array : (t.chan c).arr = (s.chan c).arr ∧ (t.chan c).spad = (s.chan c).spad ∧ (t.chan c).ep = (s.chan c).ep
  elsewhere : ∀ d, d ≠ c → t.chan d = s.chan d
  regs : RegsSame s t ([chCtrl c, modR 0x2114, chR c 0xA110] ++ ks)
  rest : t = { s with
    now := t.now, regs := t.regs, ev := t.ev, ch := t.ch, rels := t.rels
    casc := { s.casc with parts := t.casc.parts }
    egr := { s.egr with responses := t.egr.responses }
    boot := { s.boot with ready := t.boot.ready } }

/-- The byte at an offset of a channel's scratchpad window (R433, R442). -/
def Chan.spadByteAt (x : Chan) (o : Nat) : Nat :=
  natBits (x.spadWord (spadKey (o / 0x10000) (o % 0x10000 / 8))).data.toNat (8 * (7 - o % 8)) 8

/-- The word that holds a byte of the window reads without a correction. -/
def Chan.spadClean (x : Chan) (o : Nat) : Prop :=
  let v := x.spadWord (spadKey (o / 0x10000) (o % 0x10000 / 8))
  rsDecode (toBytes 8 v.data.toNat) v.chk = .clean

/-! ## Supply and reset -/

/-- The ebb sequence has begun (R477, R478, R490, R495): credits are withheld, READY is down, a wake in progress is abandoned. -/
structure EbbBegun (s t : State) : Prop where
  started : t.pwr.ebb = some t.now ∧ t.pwr.ebbStep = 0 ∧ t.pwr.hold = true ∧ t.ebbPin = true
  ready : t.boot = { s.boot with ready := false }
  count : t.reg (modR 0x9104) = satAdd (s.reg (modR 0x9104)) 1
  event : Raised t 2
  wakes : ∀ d, (s.chan d).power = .wake → (t.chan d).power = .off
  others : ∀ d, (s.chan d).power ≠ .wake → t.chan d = s.chan d
  regs : (∀ d, (s.chan d).power ≠ .wake) → RegsSame s t [modR 0x9104] ∧ t.parity = s.parity ∧ t.ind = s.ind
  rest : t = { s with
    now := t.now, regs := t.regs, parity := t.parity, ind := t.ind, ev := t.ev, ch := t.ch, pwr := t.pwr, boot := t.boot,
    freeCount := t.freeCount }

/-- What a module reset leaves (R493): channels, links, queues, module time and registers as after reset (those of the power
controller only when `keep` is false), flashes and fuses as they were, but for open buffers and unfinished records. -/
structure WasReset (s t : State) (keep : Bool) : Prop where
  channels : ∀ c, t.chan c = Chan.reset
  links : t.host = LinkPort.reset ∧ t.up = LinkPort.reset ∧ t.dn = LinkPort.reset
  work : t.vc0 = [] ∧ t.rels = [] ∧ t.domains = [] ∧ t.oldTags = [] ∧ t.egr = EgressUnit.reset ∧ t.casc.parts = [] ∧
    t.ind = [] ∧ t.parity = [] ∧ t.late = [] ∧ t.vc2 = [] ∧ t.regRanks = [0, 1, 2] ∧ t.ev.queue = [] ∧ t.ev.ovf = false
  regs : ∀ k, t.reg k = if keep && isPcKey k then s.reg k else regReset k
  time : t.time.seconds = 0 ∧ t.time.nanos = 0 ∧ t.time.valid = false ∧ t.time.locked = false
  images : t.boot.imgA = s.boot.imgA ∧ t.boot.imgB = s.boot.imgB ∧ t.boot.revoked = s.boot.revoked ∧ t.boot.prefer = s.boot.prefer ∧
    t.boot.ready = false ∧ t.boot.updBusy = none
  flash : ∀ c, (t.flash c).olA = (s.flash c).olA ∧ (t.flash c).olB = (s.flash c).olB ∧ (t.flash c).olActive = (s.flash c).olActive ∧
    (t.flash c).images = (s.flash c).images ∧ (t.flash c).jseq = (s.flash c).jseq ∧ (t.flash c).gen = (s.flash c).gen ∧
    (t.flash c).buf = [] ∧ (t.flash c).prog = [] ∧ (t.flash c).restoreDone = false
  records : ∀ c, ((s.flash c).prog = [] → (t.flash c).recs = (s.flash c).recs) ∧
    (∀ r at_ rest, (s.flash c).prog = (r, at_) :: rest → ∃ good, (t.flash c).recs = (s.flash c).recs ++ [{ r with good := good }])
  queue : t.pending = s.pending

end Sys2Proof.Machine
end

