-- ==== Sys2Proof/WellFormed.lean ====
section
/-! DEFINITION. Which commands are well formed: what a sender can form. A frame's payload has the length its header
gives, a key has no bit above its length, and what meets an access at a port in its cycle is what the
other requesters of that port can present. The
meanings are total: they give an ill-formed command a meaning too, but no sender forms one. -/

namespace Sys2Proof

/-- The key of a SEARCH frame has no bit above KLEN (Table 15.2). -/
def SearchFrame.wf (f : SearchFrame) : Bool := f.key.toNat >>> (80 * 2 ^ f.klen.toNat) == 0

/-- Each of the other requesters presents at most one access to a register port in a cycle (R414). -/
def RegAcc.wf (a : RegAcc) : Bool := decide ((a.rivals.map (·.boot)).Nodup)

/-- What a master presents in a cycle (Table 17.1, R435): the host window's access is the command's own, instruction fetches only
read, and the DMA and the march engine move whole words. -/
def SpadReq.wf (q : SpadReq) : Bool :=
  q.master != 3 && !(q.master == 0 && q.write) && (decide (q.master.val ≤ 1) || q.be == 255)
/-- The requests of one cycle: each master presents one access a cycle. -/
def roundWf (r : List SpadReq) : Bool := decide ((r.map (·.master)).Nodup) && r.all SpadReq.wf

/-- A well-formed command. -/
def Instr.wf : Instr → Bool
  | .search f => f.wf
  | .cascKeyFrame _ f => f.wf
  | .cascWashFrame _ r => decide (r.recs.length ≤ 4) && decide (r.ext.length = (r.recs.filter (·.extPresent)).length)
  | .mbxWrite _ _ _ _ _ lenw data => decide (data.length = lenw.toNat)
  | .bulkWrite _ _ _ n _ data => decide (data.length = n.toNat + 1)
  | .writeDirect _ _ items => decide (1 ≤ items.length) && decide (items.length ≤ 32)
  | .spadWindowAccess a _ _ data => a.wf && data.others.all roundWf
  | .chStateReqOn _ a => a.wf
  | .chStateReqIdle _ a => a.wf
  | .chStateReqOff _ a => a.wf
  | .chStateReqCancel _ a => a.wf
  | .chAdmitEnWrite _ a _ => a.wf
  | .profileEnable _ _ a => a.wf
  | .profileDisable _ _ a => a.wf
  | .flowTableEnable _ _ a => a.wf
  | .epochCmdStage _ a => a.wf
  | .epochCmdCommit _ a => a.wf
  | .epochCmdArm _ a => a.wf
  | .epochCmdDisarm _ a => a.wf
  | .epochCmdEndSlack _ a => a.wf
  | .epochCmdFree _ a => a.wf
  | .timeCmdSet a => a.wf
  | .timeCmdInvalidate a => a.wf
  | .timeSnapshotRead a => a.wf
  | .cascEnable a _ => a.wf
  | .cascBypass a _ => a.wf
  | .mbxDoorbell _ a _ => a.wf
  | .mgrRestart _ a => a.wf
  | .calCtrlSwap _ a => a.wf
  | .linkEnable a => a.wf
  | .linkDisable a => a.wf
  | .linkRetrain a => a.wf
  | .registerWrite a _ _ => a.wf
  | .aliasWrite a _ _ => a.wf
  | .indDataRead _ a => a.wf
  | .indDataWrite _ a _ => a.wf
  | .ctxHwmClr _ a => a.wf
  | .evtClr _ _ _ a => a.wf
  | .spadHandoverRequest _ _ _ _ a => a.wf
  | .marchStart _ _ _ _ a => a.wf
  | .modReset a => a.wf
  | .bootUpdateStart a => a.wf
  | _ => true

end Sys2Proof
end

