-- ==== Sys2Proof/Certificates/Slice0/Obligations.lean ====
section
/-! DEFINITION. The statements for the provers: what the block's commands do, by the rules of the spec. -/

open Sys2Proof Sys2Proof.Machine

/-! ## The machine: its queue, its outcomes, its invariant -/

/-- A step takes the command at the front of the queue and runs it on the state with the queue's rest. -/
def Obligations.StepRunsCommand : Prop :=
  ∀ (c : Instr) (rest : List Instr) (s : State),
    step { s with pending := c :: rest } = exec c { s with pending := rest }

/-- The model's choice (log entry 1): with no command waiting, time passes and nothing else happens. -/
def Obligations.EmptyQueueIdles : Prop :=
  ∀ s : State, s.pending = [] → step s = .next { s with now := s.now + 1 }

/-- The invariant holds right after reset. -/
def Obligations.ResetInvariant : Prop := State.reset.Inv

/-- From every state that meets the invariant, every step leads to a state that meets it. -/
def Obligations.StepKeepsInvariant : Prop :=
  ∀ s t : State, s.Inv → step s = .next t → t.Inv

/-- No command is refused, none faults but the two that name an HBM slot outside the flow region, none takes the clock back, and
none touches the commands that wait behind it. -/
def Obligations.EveryCommandCompletes : Prop :=
  (∀ (i : Instr) (s : State), s.Inv →
     (∀ c slot, (i = .lineArrival c slot ∨ i = .cacheWriteback c slot) → slot < flowSlots) →
     Completes (exec i s)) ∧
  (∀ (i : Instr) (s t : State), s.Inv → exec i s = .next t → t.pending = s.pending ∧ s.now ≤ t.now) ∧
  (∀ (c : Ch) (slot : Nat) (s : State), flowSlots ≤ slot →
     exec (.lineArrival c slot) s = .fault .noSuchFlowSlot ∧ exec (.cacheWriteback c slot) s = .fault .noSuchFlowSlot)

/-- Read after write, for every addressed memory of the block, and through the update cache. -/
def Obligations.MemoriesReadBack : Prop :=
  (∀ (s : State) (k : Nat) (v : Word), swf regReset s.regs = true →
    (s.setReg k v).reg k = v ∧ (∀ j, j ≠ k → (s.setReg k v).reg j = s.reg j) ∧ swf regReset (s.setReg k v).regs = true) ∧
  (∀ (a : ArrayMem) (k : Nat) (w : WordCell) (u : UnitCell) (d : AdCell), a.wf = true →
    ((a.setWord k w).word k = w ∧ (∀ j, j ≠ k → (a.setWord k w).word j = a.word j) ∧ (a.setWord k w).wf = true) ∧
    ((a.setUnit3 k u).unit3 k = u ∧ (∀ j, j ≠ k → (a.setUnit3 k u).unit3 j = a.unit3 j) ∧ (a.setUnit3 k u).wf = true) ∧
    ((a.setAdPair k d).adPair k = d ∧ (∀ j, j ≠ k → (a.setAdPair k d).adPair j = a.adPair j) ∧ (a.setAdPair k d).wf = true)) ∧
  (∀ (x : Chan) (i : Nat) (v : HbmSlot), hbmWf x.hbm = true →
    (x.setHbm i v).hbmSlot i = v ∧ (∀ j, j ≠ i → (x.setHbm i v).hbmSlot j = x.hbmSlot j) ∧ hbmWf (x.setHbm i v).hbm = true) ∧
  (∀ (x : Chan) (a : Nat) (v : SpadCell), spadWf x.spad = true →
    (x.setSpad a v).spadWord a = v ∧ (∀ b, b ≠ a → (x.setSpad a v).spadWord b = x.spadWord b) ∧ spadWf (x.setSpad a v).spad = true) ∧
  (∀ (x : Chan) (now i : Nat) (v : HbmSlot), hbmWf x.hbm = true → (∀ l ∈ x.flow.lines, l.slot = i → l.arrived = true) →
     (x.writeSlot now i v).flowSlot i = v ∧ (∀ j, j ≠ i → (x.writeSlot now i v).flowSlot j = x.flowSlot j) ∧
     ((∃ l ∈ x.flow.lines, l.slot = i) → (x.writeSlot now i v).hbm = x.hbm) ∧
     ((∀ l ∈ x.flow.lines, l.slot ≠ i) → (x.writeSlot now i v).hbmSlot i = v ∧
       ∀ j, j ≠ i → (x.writeSlot now i v).hbmSlot j = x.hbmSlot j))

/-! ## Codes, images and the choice of a winner -/

/-- The match of one word (R33, Table 02.1) and of a range unit against the lane that it names (R53). -/
def Obligations.RangeUnitMatch : Prop :=
  (∀ (w : WordCell) (key : BitVec 80),
     wordMatches w key = true ↔ ∀ i, i < 80 → w.mask.getLsbD i = true → w.data.getLsbD i = key.getLsbD i) ∧
  (∀ (u : RangeUnit) (lanes : List Nat),
     (u.en = false → unitMatches u lanes = true) ∧
     (u.en = true → (unitMatches u lanes = true ↔
       u.lo.toNat ≤ lanes.getD u.lane.toNat 0 ∧ lanes.getD u.lane.toNat 0 ≤ u.hi.toNat)) ∧
     (u.en = true → u.hi.toNat < u.lo.toNat → unitMatches u lanes = false))

/-- Priority resolution (R73, R74), and that its grouping into stages never changes the outcome (R77). -/
def Obligations.WinnerOfALookup : Prop :=
  (∀ (l : List Cand) (w : Cand), bestBy Cand.beats l = some w →
    w ∈ l ∧ ∀ x ∈ l, x.prio < w.prio ∨
      (x.prio = w.prio ∧ wordKey w.bank w.block w.word ≤ wordKey x.bank x.block x.word)) ∧
  (∀ l : List Cand, bestBy Cand.beats l = none ↔ l = []) ∧
  (∀ ls : List (List Cand),
    (bestBy Cand.beats (ls.filterMap (bestBy Cand.beats))).map (fun w => (w.prio, wordKey w.bank w.block w.word)) =
      (bestBy Cand.beats ls.flatten).map (fun w => (w.prio, wordKey w.bank w.block w.word)))

/-- The code of R38: a clean codeword, and one with a single wrong symbol. -/
def Obligations.CodeCorrectsOneSymbol : Prop :=
  ∀ msg : List Byte, msg.length ≤ 252 →
    rsDecode msg (rsChecks msg) = .clean ∧
    ∀ i e, i < msg.length + 3 → 0 < e → e < 256 →
      let cw := xorAt (msg ++ toBytes 3 (rsChecks msg).toNat) i e
      rsDecode (cw.take msg.length) (BitVec.ofNat 24 (ofBytes (cw.drop msg.length))) = .corrected msg

/-- Reading back the images of Tables 02.4 and 02.7. -/
def Obligations.ImagesReadBack : Prop :=
  (∀ (d m : BitVec 80) (e : BitVec 24), wordOfImage (wordImage (mkWord d m e)) = mkWord d m e) ∧
  (∀ u v : RangeUnit, unitsOfImage (rangeImage u v) = (u, v)) ∧
  (∀ (d m : BitVec 80) (e : BitVec 24), (wordImage (mkWord d m e)).length = 24) ∧
  (∀ u v : RangeUnit, (rangeImage u v).length = 12)

/-! ## The path of one search -/

/-- ACCEPTANCE of a search that nothing holds, and of one that must wait (R12, R14, R120, R168, R172, R173, R190, R383, R429). -/
def Obligations.AcceptanceOpensARecord : Prop :=
  (∀ (s : State) (f : SearchFrame) (at_ credits : Nat) (rest : List Vc0), s.Inv → s.vc0 = .search f at_ credits :: rest →
     let u := s.atTime (roundUp (max s.now (at_ + nsT 90)) linkCycle)
     let a := u.judge f
     u.mustHold a f = false →
     ∃ t r, exec .acceptance s = .next t ∧ t.vc0 = rest ∧ t.rels = s.rels ++ [r] ∧ t.now = u.now ∧
       r.gsn < 16384 ∧ (∀ q ∈ s.rels, q.gsn ≠ r.gsn) ∧
       r.hf = f.hf ∧ r.dom = f.domain ∧ r.tag = f.tag ∧ r.ch = a.ch ∧ r.acceptedAt = t.now ∧
       r.early = a.early ∧ r.lNs = a.lNs ∧
       r.seq = (s.domain (domKey f.hf f.domain)).next ∧ r.result = a.status.map bareResult ∧
       (t.chan f.ch).slotOut = (s.chan f.ch).slotOut - credits ∧
       (t.chan a.ch).charges = (if u.runsHere a
         then (s.chan a.ch).charges ++ [⟨r.gsn, false, a.group, a.slots, f.profile⟩] else (s.chan a.ch).charges) ∧
       (u.runsHere a = false → (t.chan a.ch).ingress = (s.chan a.ch).ingress) ∧
       (u.runsHere a = true → ∃ g, (t.chan a.ch).ingress =
         (s.chan a.ch).ingress ++ [(.search g r.gsn a.group false a.disabled a.slots, t.now + nsT 12)] ∧
         g.key = f.key ∧ g.klen = f.klen ∧ g.profile = f.profile) ∧
       MemSame s t ∧ RegsSame s t [modR 0x2118, modR 0x2110, modR 0x6114, modR 0x6100, modR 0x6104, modR 0x6108] ∧
       t = { s with now := t.now, regs := t.regs, ev := t.ev, ch := t.ch, dn := t.dn, vc0 := t.vc0, rels := t.rels,
                    domains := t.domains, casc := t.casc }) ∧
  (∀ (s : State) (f : SearchFrame) (at_ credits : Nat) (rest : List Vc0), s.Inv → s.vc0 = .search f at_ credits :: rest →
     let u := s.atTime (roundUp (max s.now (at_ + nsT 90)) linkCycle)
     u.mustHold (u.judge f) f = true →
     ∃ t, exec .acceptance s = .next t ∧ t.now = u.now + linkCycle ∧
       t.reg (modR 0x1120) = (if u.admissionHold (u.judge f) then satAdd (s.reg (modR 0x1120)) 1 else s.reg (modR 0x1120)) ∧
       RegsSame s t [modR 0x1120] ∧ t = { s with now := t.now, regs := t.regs, ev := t.ev })

/-- SEARCH, CANCEL, CANCEL_AT_CHANNEL and CANCELLED_CONTEXT_FREED (R181 to R187, R380, R383, R396, R397, R411). A SEARCH brings
along the slot credits that its profile's SLOTS needs, or what is left of them. -/
def Obligations.CancelActs : Prop :=
  (∀ (f : SearchFrame) (s : State), s.Inv →
    let r := (s.takeFrame 0 (toBytes 8 (searchHead f).toNat)).2
    let need := (s.baseProf f.ch f.profile).slots
    let left := s.creditsLeft f.ch
    ∃ t, exec (.search f) s = .next t ∧
      t.vc0 = s.vc0 ++ [.search { f with replay := f.replay || replayed r } ((r.map (·.at_)).getD s.now) (min left need)] ∧
      t.reg (modR 0x1124) = (if left < need then satAdd (s.reg (modR 0x1124)) 1 else s.reg (modR 0x1124)) ∧
      (left < need → Raised t 37) ∧ RegsSame s t [modR 0x1124] ∧
      t.host = { s.host with arrived := t.host.arrived } ∧
      t = { s with host := t.host, vc0 := t.vc0, regs := t.regs, ev := t.ev }) ∧
  (∀ (hf : Hf) (tag : BitVec 16) (s : State), s.vc0 ≠ [] → ∃ t, exec (.cancel hf tag) s = .next t ∧
    t.vc0 = s.vc0 ++ [.cancel hf tag] ∧
    t = { s with host := t.host, vc0 := t.vc0 } ∧ t.host = { s.host with arrived := t.host.arrived }) ∧
  (∀ (hf : Hf) (tag : BitVec 16) (s : State) (r : RelRec), s.Inv → s.vc0 = [] → s.bit (modR 0x2000) 0 = true →
    s.rels.find? (fun q => q.hf == hf && q.tag == tag && !s.releaseDue q) = some r →
    ∃ t, exec (.cancel hf tag) s = .next t ∧
      t = { s with host := t.host, rels := t.rels, ch := t.ch, regs := t.regs, dn := t.dn } ∧
      (∀ res, r.result = some res → t.ch = s.ch ∧ t.regs = s.regs ∧ t.dn = s.dn ∧
        t.rels = modFirst (fun q => q.gsn == r.gsn)
          (fun q => { q with result := some (if res.status = .ok then bareResult .cancelled else res) }) s.rels) ∧
      (r.result = none → t.rels = s.rels ∧ t.ch = s.ch.set r.ch ((s.chan r.ch).pushCancel r.gsn false s.now) ∧
        (r.group = false → t.regs = s.regs ∧ t.dn = s.dn) ∧
        (r.group = true → RegsSame s t [modR 0x611C] ∧ t.reg (modR 0x611C) =
          (if s.keyGoesOn then satAdd (s.reg (modR 0x611C)) 1 else s.reg (modR 0x611C))))) ∧
  (∀ (hf : Hf) (tag : BitVec 16) (s : State), s.Inv → s.vc0 = [] →
    (s.bit (modR 0x2000) 0 = false ∨ ∀ q ∈ s.rels, q.hf = hf → q.tag ≠ tag) →
    let k := modR (if s.bit (modR 0x2000) 0 && s.oldTags.contains (hf.val * 65536 + tag.toNat) then 0x210C else 0x2108)
    ∃ t, exec (.cancel hf tag) s = .next t ∧ (s.bit (modR 0x2000) 0 = true → Raised t 97) ∧
      t.reg k = satAdd (s.reg k) 1 ∧ RegsSame s t [k] ∧ t = { s with host := t.host, regs := t.regs, ev := t.ev }) ∧
  (∀ (c : Ch) (s : State) (gsn due : Nat) (fwd : Bool) (rest : List (Ingress × Nat)) (k : Ctx), s.Inv →
    (s.chan c).ingress = (.cancel gsn fwd, due) :: rest →
    let x := (s.fillLaunch c (max s.now due - 1)).chan c
    x.ctxs.find? (fun k => k.gsn == gsn && k.forwarded == fwd) = some k → k.phase ≠ .cancelled → k.action ≠ 3 →
    ∃ t, exec (.cancelAtChannel c) s = .next t ∧ t.now = max s.now due ∧ (t.chan c).ingress = rest ∧
      (t.chan c).egress = (s.chan c).egress ++ [⟨k.gsn, k.forwarded, bareResult .cancelled, t.now + nsT 2⟩] ∧
      (t.chan c).ctxs = modFirst (fun q => q.num == k.num)
        (fun q => { q with phase := .cancelled, readyAt := t.now, busyTill := q.stepEnd t.now }) x.ctxs ∧
      (t.chan c).launch = x.launch.filter (fun l => l.num != k.num) ∧
      (t.chan c).flow.tickets = (match k.flow with
        | .arrived id => dropFirst (fun q => q.id == id) (s.chan c).flow.tickets
        | _ => (s.chan c).flow.tickets) ∧
      MemSame s t ∧ t = { s with now := t.now, ch := s.ch.set c { s.chan c with
        ingress := rest, egress := (t.chan c).egress, ctxs := (t.chan c).ctxs, launch := (t.chan c).launch
        launchFree := (t.chan c).launchFree, flow := { (s.chan c).flow with tickets := (t.chan c).flow.tickets } } }) ∧
  (∀ (c : Ch) (ctx : Fin 2048) (s : State) (k : Ctx), s.Inv → (s.chan c).ctx? ctx = some k → k.phase = .cancelled →
    let cnt := chR c (if k.effect then 0x3108 else 0x3104)
    ∃ t, exec (.cancelledContextFreed c ctx) s = .next t ∧
      t.now = max s.now (min (max (k.readyAt + nsT 3) k.busyTill) (k.readyAt + nsT 64)) ∧
      t.reg cnt = satAdd (s.reg cnt) 1 ∧ (k.effect = true → Raised t (chSrc c 257)) ∧
      RegsSame s t (cnt :: if k.effect then [chR c 0x3140] else []) ∧
      t = { s with now := t.now, regs := t.regs, ev := t.ev, ch := s.ch.set c { s.chan c with
        freed := (s.chan c).freed ++ [(k.gsn, k.forwarded, t.now)]
        ctxs := dropFirst (fun q => q.num == k.num) (s.chan c).ctxs } })

/-- CHANNEL_INGRESS of a search (R13, R101, R120, R168). -/
def Obligations.ChannelIngressAllocates : Prop :=
  ∀ (c : Ch) (s : State) (f : SearchFrame) (gsn due slots : Nat) (group fwd disabled : Bool) (rest : List (Ingress × Nat)),
    s.Inv → (s.chan c).ingress = (.search f gsn group fwd disabled slots, due) :: rest → (s.chan c).ctxs.length < 2048 →
    let use := !disabled && s.bit (chR c (0x2000 + 4 * f.profile.val)) 0 && !s.profParity c f.profile
    ∃ t k, exec (.channelIngress c) s = .next t ∧
      t.now = max s.now (max due ((s.chan c).ctxs.foldl (fun m q => max m (q.ingressAt + 12)) 0)) ∧
      (t.chan c).ctxs = (s.chan c).ctxs ++ [k] ∧ (t.chan c).ingress = rest ∧
      k.num < 2048 ∧ (∀ q ∈ (s.chan c).ctxs, q.num ≠ k.num) ∧
      k.req = f ∧ k.gsn = gsn ∧ k.group = group ∧ k.forwarded = fwd ∧ k.ingressAt = t.now ∧ k.usesBody = use ∧
      k.body = (if use then s.profBody c f.profile else resetBody) ∧ k.slotsLeft = slots ∧
      (use = false → k.looks = [] ∧ k.flow = .none) ∧
      t.rels = (if use || fwd then s.rels
        else modFirst (fun q => q.gsn == gsn) (fun q => { q with early := false, lNs := 130 }) s.rels) ∧
      t.reg (chR c 0x3100) = satAdd (s.reg (chR c 0x3100)) 1 ∧
      (use = false → t.reg (chR c 0x2118) = satAdd (s.reg (chR c 0x2118)) 1) ∧
      MemSame s t ∧ (∀ d, d ≠ c → t.chan d = s.chan d) ∧
      RegsSame s t (modR 0x6118 :: [0x3100, 0x2100, 0x2104, 0x2108, 0x210C, 0x2110, 0x2114, 0x2118, 0x2124, 0x3004, 0x5100,
        0x5104, 0x5108, 0x510C, 0x5110, 0x3114, 0x4428, 0x4424].map (chR c)) ∧
      t = { s with now := t.now, regs := t.regs, ev := t.ev, ch := t.ch, rels := t.rels }

/-- SEARCH_SLOT with and without a context to launch (R112, R116, R171, R183, R309, R310). -/
def Obligations.SearchSlotLaunches : Prop :=
  ∀ (c : Ch) (s : State) (n : Nat), s.Inv →
    let from_ := s.freeCycle c (s.cycleAt c s.now)
    s.nextSlot c 0 (s.freeCycle c (s.cycleAt c (s.launchStart c))) = some n →
    let u := s.useSlot c n
    let v := (u.dropLaunch c).fillLaunch c u.now
    let passed := s.searchSlots c from_ (n - from_)
    ∃ t, exec (.searchSlot c) s = .next t ∧ t.now = max s.now (s.cycleTime c n) ∧ (t.chan c).lastSlot = some n ∧
      MemSame s t ∧ (∀ d, d ≠ c → t.chan d = s.chan d) ∧
      RegsSame s t ([0x690C, 0x3110, 0x310C, 0x211C, 0x2120, 0x2140, 0x4428].map (chR c)) ∧
      t = { s with now := t.now, regs := t.regs, ev := t.ev, ch := t.ch } ∧
      ((v.chan c).launch = none → t.reg (chR c 0x690C) = satAdd (satAdd (s.reg (chR c 0x690C)) passed) 1 ∧ t.ch = v.ch) ∧
      (∀ l k, (v.chan c).launch = some l → (v.chan c).ctx? l.num = some k → (t.chan c).launch = none ∧
        (t.chan c).launchFree = t.now ∧ t.reg (chR c 0x690C) = satAdd (s.reg (chR c 0x690C)) passed ∧
        (t.chan c).winSlot = (s.chan c).winSlot + 1 ∧
        ∃ q, (t.chan c).ctx? l.num = some q ∧ q.req = k.req ∧ q.slotsLeft = k.slotsLeft - 1 ∧ q.looks.length = k.looks.length ∧
          (∀ (i : Nat) (m : Look), q.looks[i]? = some m → m.stage = k.stage → m.started = true ∨ m.finished = true) ∧
          (q.phase = .launched ∨ q.phase = .ready ∨ q.phase = .assembling))

/-- LOOKUP_DONE (R60, R73 to R82, R88, R92, R96, R336, R337). -/
def Obligations.LookupDoneRecords : Prop :=
  ∀ (c : Ch) (ctx : Fin 2048) (sense : List BlockSense) (s : State) (k : Ctx), s.Inv →
    (s.chan c).ctx? ctx = some k → k.phase = .launched →
    ∃ t q, exec (.lookupDone c ctx sense) s = .next t ∧ t.now = max s.now (k.readyAt + nsT 40) ∧
      (t.chan c).ctx? ctx = some q ∧ q.looks.length = k.looks.length ∧ q.req = k.req ∧
      (∀ (i : Nat) (l : Look), k.looks[i]? = some l → (l.started && l.performed && !l.finished && l.stage == k.stage) = false →
        q.looks[i]? = some l) ∧
      (∀ (i : Nat) (l : Look), k.looks[i]? = some l → (l.started && l.performed && !l.finished && l.stage == k.stage) = true →
        let fails := l.fails sense
        let good := l.blocks.filter (fun b => !fails.any (fun x => b.bank == x.1.bank.val && b.block == x.1.block.val))
        let deg := l.degraded || !fails.isEmpty
        ∃ m, q.looks[i]? = some m ∧ m.finished = true ∧ m.table = l.table ∧
          (bestBy Cand.beats (good.filterMap (·.win)) = none → m.failed = true ∧ m.record = missRec deg l.ext) ∧
          (∀ w, bestBy Cand.beats (good.filterMap (·.win)) = some w → w.bank < 36 → w.block < 33 →
            let cell := (s.chan c).arr.adPair (pairKey w.bank w.block (w.word / 2))
            let base : LookupRec := { missRec deg l.ext with
              hit := true, extLate := l.ext && l.record.extLate, prio := BitVec.ofNat 20 w.prio, index := globalIndex s.casc.pos c w.bank w.block w.word }
            (rsDecode (toBytes 8 cell.ad.toNat) cell.chk = .clean → m.failed = false ∧
              m.record = { base with ad := adOfPair w.width w.word cell.ad }) ∧
            (∀ d, rsDecode (toBytes 8 cell.ad.toNat) cell.chk = .corrected d → m.failed = false ∧
              m.record = { base with ad := adOfPair w.width w.word (BitVec.ofNat 64 (ofBytes d)) }) ∧
            (rsDecode (toBytes 8 cell.ad.toNat) cell.chk = .uncorrectable → m.failed = true ∧
              m.record = { base with adErr := true, extLate := false, extErr := l.ext }))) ∧
      MemSame s t ∧ (∀ d, d ≠ c → t.chan d = s.chan d) ∧
      RegsSame s t ([0x8100, 0x8104, 0x8140, 0x8110, 0x1020, 0x1024, 0x1028, 0x4428].map (chR c)
        ++ sense.map (fun x => calR c x.bank x.block)) ∧
      t = { s with now := t.now, regs := t.regs, ev := t.ev, ch := t.ch }

/-- EXT_AD_READ_DONE (R87 to R90, R161, R162, R523). -/
def Obligations.ExtAdReadPlaces : Prop :=
  ∀ (c : Ch) (ctx : Fin 2048) (lookup : Fin 4) (s : State) (k : Ctx) (e : ExtWork), s.Inv →
    (s.chan c).ctx? ctx = some k → k.exts.find? (fun e => e.lookup == lookup.val) = some e →
    e.issuedAt.isSome = true → e.finished = false → k.phase ≠ .cancelled → s.extAt c e ≤ k.deadline →
    let slot := (s.chan c).hbmSlot (0x200000000 / 64 + natBits (k.adOf lookup) 0 23)
    let d := decode64 slot.data slot.sb
    ∃ t q x, exec (.extAdReadDone c ctx lookup) s = .next t ∧ t.now = s.now ∧
      (t.chan c).ctx? ctx = some q ∧ q.exts.find? (fun e => e.lookup == lookup.val) = some x ∧ x.finished = true ∧
      x.data = (if d.2.2 = none then d.1 else 0) ∧ q.lastWorkAt = max k.lastWorkAt (s.extAt c e) ∧
      (∀ m, m ≠ lookup.val → q.looks[m]? = k.looks[m]?) ∧ t.reg (chR c 0x4020) = satAdd (s.reg (chR c 0x4020)) d.2.1 ∧
      (d.2.2 ≠ none → t.reg (chR c 0x1030) = satAdd (s.reg (chR c 0x1030)) 1 ∧
        ∀ l, q.looks[lookup.val]? = some l → l.record.extErr = true) ∧
      (d.2.2 = none → q.looks = k.looks ∧ t.reg (chR c 0x1030) = s.reg (chR c 0x1030)) ∧
      (t.chan c).winExt = (s.chan c).winExt + 1 ∧ MemSame s t ∧ (∀ b, b ≠ c → t.chan b = s.chan b) ∧
      RegsSame s t [chR c 0x4020, chR c 0x1030] ∧ t = { s with regs := t.regs, ev := t.ev, ch := t.ch }

/-- RESULT_ASSEMBLY_DONE, CONTEXT_FREE_CROSSED, and RESULT_AT_RELEASE_UNIT for a search that is no group search (R13, R15, R169,
R176, R182, R190). -/
def Obligations.ResultLeavesTheChannel : Prop :=
  (∀ (c : Ch) (ctx : Fin 2048) (s : State) (k : Ctx), (s.chan c).ctx? ctx = some k → k.phase = .assembling → k.dep = 0 →
    (s.chan c).cancelDue k (max s.now k.assembledAt) = false →
    ∃ t, exec (.resultAssemblyDone c ctx) s = .next t ∧ t.now = max s.now k.assembledAt ∧
      t = { s with now := t.now, ch := s.ch.set c { s.chan c with
        egress := (s.chan c).egress ++ [⟨k.gsn, k.forwarded, k.result, t.now⟩]
        freed := (s.chan c).freed ++ [(k.gsn, k.forwarded, t.now)]
        ctxs := dropFirst (fun q => q.num == k.num) (s.chan c).ctxs } }) ∧
  (∀ (c : Ch) (s : State) (gsn at_ : Nat) (fwd : Bool) (rest : List (Nat × Bool × Nat)),
    (s.chan c).freed = (gsn, fwd, at_) :: rest →
    ∃ t, exec (.contextFreeCrossed c) s = .next t ∧ t.now = max s.now at_ ∧
      t = { s with now := t.now, ch := s.ch.set c { s.chan c with
        freed := rest, charges := dropFirst (fun k => k.gsn == gsn && k.forwarded == fwd) (s.chan c).charges } }) ∧
  (∀ (c : Ch) (s : State) (e : Egress) (rest : List Egress), s.Inv → (s.chan c).egress = e :: rest →
     s.isGroupResult e = false →
     ∃ t, exec (.resultAtReleaseUnit c) s = .next t ∧ t.now = max s.now (e.at_ + nsT 12) ∧
       t.ch = s.ch.set c { s.chan c with egress := rest } ∧
       (∀ r, s.rels.find? (fun q => q.gsn == e.gsn && q.result.isNone) = some r → t.regs = s.regs ∧
         t.rels = modFirst (fun q => q.gsn == e.gsn && q.result.isNone)
           (fun q => { q with result := some e.result, completeAt := t.now }) s.rels) ∧
       (s.rels.find? (fun q => q.gsn == e.gsn && q.result.isNone) = none → t.rels = s.rels ∧
         t.reg (modR 0x2114) = satAdd (s.reg (modR 0x2114)) 1 ∧ RegsSame s t [modR 0x2114]) ∧
       t = { s with now := t.now, regs := t.regs, ch := t.ch, rels := t.rels })

/-- RELEASE of a complete record (R174, R176, R177). -/
def Obligations.ReleaseInDomainOrder : Prop :=
  ∀ (domain : Fin 512) (s : State) (r : RelRec) (res : Result), s.Inv →
    s.rels.find? (fun r => domKey r.hf r.dom == domain.val) = some r → r.result = some res → s.host.isUp = true →
    let d := s.domain domain
    let late := !r.early && decide (max r.own d.lastAt < r.completeAt)
    ∃ t, exec (.release domain) s = .next t ∧ t.now = max s.now (max (max r.own d.lastAt) r.completeAt) ∧
      t.rels = dropFirst (fun q => q.gsn == r.gsn) s.rels ∧
      t.egr.vc1 = s.egr.vc1 ++ [⟨domain, resultBytes r.hf r.dom r.tag { res with linkReplay := res.linkReplay || r.replay },
        t.now + nsT 10⟩] ∧
      t.reg (modR 0x2100) = satAdd (s.reg (modR 0x2100)) 1 ∧
      t.reg (modR 0x211C) = (if late then satAdd (s.reg (modR 0x211C)) 1 else s.reg (modR 0x211C)) ∧
      RegsSame s t [modR 0x2100, modR 0x2104, modR 0x211C] ∧
      t = { s with now := t.now, regs := t.regs, ev := t.ev, rels := t.rels, domains := t.domains, oldTags := t.oldTags,
                   egr := { s.egr with vc1 := t.egr.vc1 } }

/-- SLOT_CREDIT_ISSUE and GROUP_CREDIT_ISSUE (R380, R381, R485). -/
def Obligations.CreditsIssued : Prop :=
  (∀ (c b : Ch) (s : State) (n : Nat) (ranks : List Nat), s.Inv →
    let x := s.chan c
    s.nextCreditSlot c (match x.lastCredit with | none => s.cycleAt c s.now | some l => max (s.cycleAt c s.now) (l + 1)) = some n →
    rotate x.creditRanks (fun i =>
      (if s.mirrorActive (Fin.ofNat 4 i) then s.mirrorOf (Fin.ofNat 4 i) == some c else Fin.ofNat 4 i == c)
        && s.slotCreditOk (Fin.ofNat 4 i)) = some (b.val, ranks) →
    ∃ t, exec (.slotCreditIssue c) s = .next t ∧ t.now = max s.now (s.cycleTime c n) ∧
      (t.chan b).slotOut = (s.chan b).slotOut + 1 ∧ (t.chan b).slotCr = ((s.chan b).slotCr + 1) % 65536 ∧
      (t.chan c).lastCredit = some n ∧ (t.chan c).creditRanks = ranks ∧
      t.pwr.bucket = s.pwr.bucket - s.pwr.eEst.get b ∧
      (∀ d, d ≠ b → (t.chan d).slotOut = (s.chan d).slotOut) ∧ MemSame s t ∧ RegsSame s t [] ∧
      t = { s with now := t.now, regs := t.regs, ev := t.ev, ch := t.ch, pwr := t.pwr }) ∧
  (∀ (c : Ch) (s : State), s.cascEn = true → s.pwr.hold = false → s.casc.pos = 0 →
    s.groupInflight c + (s.chan c).grpOut + 1 ≤ s.groupCtx → s.keyCredit 80 = true →
    exec (.groupCreditIssue c) s = .next { s with ch := s.ch.set c { s.chan c with
      grpOut := (s.chan c).grpOut + 1, grpCr := ((s.chan c).grpCr + 1) % 65536 } }) ∧
  (∀ (c : Ch) (s : State), s.groupCtx < s.groupInflight c + (s.chan c).grpOut + 1 →
    exec (.groupCreditIssue c) s = .next s)

/-- HOST_EGRESS_CYCLE (R372, R375, R387, R393, R410, R450, R465). -/
def Obligations.EgressCycle : Prop :=
  (∀ s : State, s.Inv → s.host.state = .up → s.host.txNext < 8192 → s.vc2 = [] →
    let k := max (roundUp s.now linkCycle / linkCycle) (s.egr.cycle + 1)
    ∃ t new, exec (.hostEgressCycle .clean) s = .next t ∧ t.now = max s.now (k * linkCycle) ∧ t.egr.cycle = k ∧
      new.length ≤ flitPositions s.host.width k ∧
      t.host.replayBuf = s.host.replayBuf ++ new ∧
      (∀ i x, new[i]? = some x → x.seq = (s.host.txNext + i) % 8192) ∧
      (s.host.ctrlBy ≤ t.now → new.length + 1 ≤ max 1 (flitPositions s.host.width k) ∨ t.host.lastCtrlAt ≠ t.now) ∧
      t.now < t.host.ctrlBy ∧
      t.host = { s.host with txNext := t.host.txNext, sent := t.host.sent, replayBuf := t.host.replayBuf,
                             lastCtrl := t.host.lastCtrl, lastCtrlAt := t.host.lastCtrlAt, ctrlBy := t.host.ctrlBy } ∧
      MemSame s t ∧ RegsSame s t ([0x1128, 0x3100, 0x3108, 0x3140].map modR) ∧
      t = { s with now := t.now, regs := t.regs, ev := t.ev, ch := t.ch, host := t.host, egr := t.egr } ∧
      (s.egr.vc1 = [] → s.egr.completions = [] → s.egr.responses = [] → s.ev.queue = [] →
        (∀ c, (s.chan c).flow.exports = []) → s.egr.cur1 = none → s.egr.cur3 = none → s.egr.cur4 = none →
        t.now < s.host.ctrlBy →
        t = { s with now := t.now, egr := { s.egr with cycle := k } })) ∧
  (∀ s : State, s.Inv → s.host.isUp = true → s.vc2 = [] →
    ∃ t, exec (.hostEgressCycle .uncorrectable) s = .next t ∧ HostLost s t s.mayTrain ∧ t.now = s.now ∧
      t.host.arrived = s.host.arrived ∧ t.reg (modR 0x4210) = satAdd (s.reg (modR 0x4210)) 1 ∧ Raised t 197 ∧
      RegsSame s t ([0x3000, 0x112C, 0x1130].map modR) ∧
      t = { s with host := t.host, egr := t.egr, ch := t.ch, regs := t.regs, ev := t.ev })

/-! ## The flow store -/

/-- FLOW_BUCKET_ARRIVAL, LINE_GROUP_GRANT, LINE_ARRIVAL and CACHE_WRITEBACK (R143 to R145, R162, R523), after what has happened by
now: lines requested 160 ns ago have arrived under the conditions of R523, and lines modified 1 ms ago have gone back. -/
def Obligations.FlowWorkGetsItsLines : Prop :=
  (∀ (c : Ch) (s : State) (k : Ctx) (due : Nat),
    bestBy arrivesBefore (((s.chan c).ctxs.filter (fun k => k.phase != .cancelled)).filterMap
      (fun k => (k.hashAt).map (fun t => (k, t)))) = some (k, due) → due ≤ k.deadline → s.Inv →
    ∃ t tk, exec (.flowBucketArrival c) s = .next t ∧ t.now = max s.now due ∧
      (t.chan c).flow.tickets = (s.chan c).flow.tickets ++ [tk] ∧ tk.id = (s.chan c).flow.nextTicket ∧
      tk.owner = .ctx k.num ∧ tk.table = fld (pbFlow k.body) 3 4 ∧ tk.granted = none ∧ tk.lines = true ∧ tk.extra = [] ∧
      (tk.b1, tk.b2) = s.flowBuckets c tk.table (flowKeyOf k.body k.req k.adOf) ∧
      (t.chan c).ctxs = modFirst (fun q => q.num == k.num) (fun q => { q with flow := .arrived tk.id }) (s.chan c).ctxs ∧
      (t.chan c).flow.nextTicket = (s.chan c).flow.nextTicket + 1 ∧ MemSame s t ∧ RegsSame s t [chR c 0x441C] ∧
      t = { s with now := t.now, regs := t.regs, ch := t.ch }) ∧
  (∀ (c : Ch) (s : State) (tk : Ticket), s.Inv →
    let u := s.flowDue c
    (u.chan c).flow.tickets.find? (fun t => t.granted.isNone && u.groupFits c t) = some tk →
    ∃ t, exec (.lineGroupGrant c) s = .next t ∧
      (∀ i ∈ u.ticketSlots c tk, ∃ l ∈ (t.chan c).flow.lines, l.slot = i) ∧
      (∃ g ∈ (t.chan c).flow.tickets, g.id = tk.id ∧ g.granted = some s.now) ∧
      (t.chan c).arr = (s.chan c).arr ∧ (t.chan c).spad = (s.chan c).spad ∧ (∀ d, d ≠ c → t.chan d = s.chan d) ∧
      RegsSame s t [chR c 0x4020] ∧ t = { s with regs := t.regs, ev := t.ev, ch := t.ch }) ∧
  (∀ (c : Ch) (slot : Nat) (s : State) (l : CacheLine), slot < flowSlots → s.Inv →
    let u := s.flowDue c
    (u.chan c).flow.lines.find? (fun l => l.slot == slot) = some l → l.arrived = false →
    ∃ t, exec (.lineArrival c slot) s = .next t ∧
      ((t.chan c).flowSlot slot = if ((u.chan c).hbmSlot slot).fixed.2 = 0 then (u.chan c).hbmSlot slot
        else ((u.chan c).hbmSlot slot).fixed.1) ∧
      (t.chan c).hbm = (u.chan c).hbm ∧ (t.chan c).arr = (s.chan c).arr ∧ (t.chan c).spad = (s.chan c).spad ∧
      (∀ d, d ≠ c → t.chan d = s.chan d) ∧ RegsSame s t [chR c 0x4020] ∧
      t = { s with regs := t.regs, ev := t.ev, ch := t.ch }) ∧
  (∀ (c : Ch) (slot : Nat) (s : State) (l : CacheLine), slot < flowSlots → s.Inv →
    let u := s.flowDue c
    (u.chan c).flow.lines.find? (fun l => l.slot == slot && l.dirty) = some l →
    ∃ t, exec (.cacheWriteback c slot) s = .next t ∧ (t.chan c).hbmSlot slot = ⟨l.data, l.sb⟩ ∧
      (∀ j, j ≠ slot → (t.chan c).hbmSlot j = (u.chan c).hbmSlot j) ∧
      (t.chan c).flow.lines = modFirst (fun q => q.slot == slot) (fun q => { q with dirty := false }) (u.chan c).flow.lines ∧
      RegsSame s t [chR c 0x4020] ∧
      t = { s with regs := t.regs, ev := t.ev, ch := s.ch.set c { u.chan c with hbm := (t.chan c).hbm, flow := (t.chan c).flow } } ∧
      (t.chan c).flow = { (u.chan c).flow with lines := (t.chan c).flow.lines }) ∧
  (∀ (c : Ch) (s : State), s.Inv → ((s.chan c).flow.lines.map (·.slot)).Nodup →
    let u := s.flowDue c
    (u.chan c).flow.lines.map (·.slot) = (s.chan c).flow.lines.map (·.slot) ∧
    (∀ l ∈ (u.chan c).flow.lines, l.dirty = true → s.now < l.changedAt + msT 1) ∧
    (s.hbmTimely c = true → ∀ l ∈ (u.chan c).flow.lines, l.arrived = false → s.now < l.changedAt + nsT 160))

/-- FLOW_COMMIT (R134, R136 to R141, R146, R148, R155, R162, R182, R523). -/
def Obligations.FlowCommitOutcome : Prop :=
  ∀ (c : Ch) (ticket n ready : Nat) (s : State) (tk : Ticket) (k : Ctx), s.Inv →
    let u := s.flowDue c
    (u.chan c).flow.tickets.find? (fun t => t.id == ticket) = some tk → tk.owner = .ctx n →
    (u.chan c).ctx? n = some k → k.num = n → k.flow = .arrived ticket → k.flowReadyAt = some ready →
    u.ticketReady c tk = true →
    let q := u.flowKey c tk.table tk.key.toNat tk.b1 tk.b2
    let v := u.readPlaces c q
    let x := v.chan c
    let found := x.find q
    let due := max (u.ticketTime c tk (v.mustCreate c k q found)) (ready + nsT 2)
    let len := flowLen k.body (effKey k.req (fld (pw k.body 0) 3 2))
    let learns := pbFlowOp k.body = 2 ∧ s.bit (chR c 0x4000) 1 = true
    max due s.now ≤ k.deadline → (u.chan c).cancelDue k (max due s.now) = false → tk.table < 16 → tk.lines = true →
    (∀ l i, found = .at_ (.slot l i) → q.double = true → i % 2 = 0) →
    ∃ t m, exec (.flowCommit c ticket) s = .next t ∧ t.now = max s.now due ∧
      (t.chan c).ctx? n = some m ∧ m.flow = .finished ∧ (k.effect = true → m.effect = true) ∧
      (t.chan c).flow.tickets = dropFirst (fun t => t.id == ticket) (u.chan c).flow.tickets ∧
      (t.chan c).flow.lastCommit = t.now ∧
      t.reg (chR c (0x4400 + 4 * flowCntIdx m.part.fstatus.toNat)) =
        satAdd (s.reg (chR c (0x4400 + 4 * flowCntIdx m.part.fstatus.toNat))) 1 ∧
      (let holds (y : Chan) : Prop := (t.chan c).flow.lines = y.flow.lines ∧ (t.chan c).flow.pen = y.flow.pen
       (found = .eccErr → m.part = zeroPart 8 ∧ holds x) ∧
       (∀ p, found = .at_ p →
         let h := flowHit k.body len s.flowTick (x.at p).data (sbAge (x.at p).sb)
         m.part = partOf h.1 p.loc h.2.1 ∧ (h.2.2.2 = true → m.effect = true) ∧
         holds (if h.2.2.2 then x.putFlow t.now q p h.2.1 h.2.2.1 (sbStatic (x.at p).sb) else x)) ∧
       (found = .absent → ¬ learns → m.part = zeroPart 2 ∧ holds x) ∧
       (found = .absent → learns →
         (x.freePlace q = none → m.part = zeroPart 7 ∧ holds x) ∧
         ∀ p, x.freePlace q = some p →
           let d := mkFlow q.headKey 1 len s.flowTick (fld (pw k.body 7) 18 8) k.learnAction
           m.part = partOf (if p.loc = 3 then 4 else 3) p.loc d ∧ m.effect = true ∧
           t.field (ftR c tk.table + 8) 0 28 = (s.field (ftR c tk.table + 8) 0 28 + 1) % 2 ^ 28 ∧
           holds (x.putFlow t.now q p d (fld (pw k.body 7) 11 3) false))) ∧
      (t.chan c).hbm = (u.chan c).hbm ∧ (t.chan c).arr = (s.chan c).arr ∧ (t.chan c).spad = (s.chan c).spad ∧
      (∀ d, d ≠ c → t.chan d = s.chan d) ∧
      RegsSame s t ((ftR c tk.table + 8) :: ([0x4020, 0x4024, 0x4028].map (chR c)
        ++ (List.range 11).map (fun i => chR c (0x4400 + 4 * i)))) ∧
      t = { s with now := t.now, regs := t.regs, ev := t.ev, ch := t.ch }

/-- FLOW_SLOT_DEADLINE (R88, R148, R523): what has come by the deadline stands, the rest is dropped whole. -/
def Obligations.FlowDeadlineDrops : Prop :=
  ∀ (c : Ch) (ctx : Fin 2048) (s : State) (k0 k : Ctx), s.Inv → (s.chan c).ctx? ctx = some k0 → k0.phase ≠ .cancelled →
    ((s.extDue c k0).chan c).ctx? ctx = some k → (k.flowPending = true ∨ ∃ e ∈ k.exts, e.finished = false) →
    ∃ t q, exec (.flowSlotDeadline c ctx) s = .next t ∧ t.now = max s.now k.deadline ∧ (t.chan c).ctx? ctx = some q ∧
      q.flowPending = false ∧ (k.flowPending = true → q.flow = .finished ∧ q.part = zeroPart 6 ∧ q.flowLate = true ∧
        t.reg (chR c 0x4414) = satAdd (s.reg (chR c 0x4414)) 1 ∧ Raised t (chSrc c 195)) ∧
      (k.flowPending = false → q.flow = k.flow ∧ q.part = k.part) ∧ q.lastWorkAt = t.now ∧
      q.exts = k.exts.map (fun e => { e with finished := true }) ∧
      (∀ e ∈ k.exts, e.finished = false → ∀ l, q.looks[e.lookup]? = some l → l.record.extLate = true) ∧
      (∀ (i : Nat), (∀ e ∈ k.exts, e.lookup = i → e.finished = true) → q.looks[i]? = k.looks[i]?) ∧
      t.reg (chR c 0x102C) = satAdd (s.reg (chR c 0x102C)) (k.exts.filter (fun e => !e.finished)).length ∧
      (t.chan c).flow.tickets = (match k.flow with
        | .arrived id => dropFirst (fun t => t.id == id) (s.chan c).flow.tickets
        | _ => (s.chan c).flow.tickets) ∧
      MemSame s t ∧ (∀ d, d ≠ c → t.chan d = s.chan d) ∧ RegsSame s t ([0x102C, 0x4414, 0x4020, 0x1030].map (chR c)) ∧
      t = { s with now := t.now, regs := t.regs, ev := t.ev, ch := t.ch }

/-- RELOCATION_TURN, AGING_SWEEP_BUCKET and AGING_PEN_EXAMINE (R145, R154, R156 to R160, R162, R165): a step takes its place in the
order of its buckets when its turn comes, and takes effect there in one commit. -/
def Obligations.FlowBackgroundTurns : Prop :=
  (∀ (c : Ch) (s : State) (e : Nat) (p : PenEntry), s.Inv →
    let u := s.flowDue c
    let at_ := (u.chan c).flow.relocAt + nsT 64
    u.flowRuns c = true → s.bit (chR c 0x4000) 3 = true → (u.chan c).penTurn = some (e, p) →
    u.engineReady c FlowOwner.isReloc (some at_) = none →
    ∃ t tk, exec (.relocationTurn c) s = .next t ∧ t.now = max s.now at_ ∧
      tk.owner = .reloc e ∧ tk.table = p.table ∧ tk.b1 = p.b1 ∧ tk.b2 = p.b2 ∧ tk.lines = true ∧ tk.granted = none ∧
      tk.id = (u.chan c).flow.nextTicket ∧
      t = { u with now := t.now, ch := u.ch.set c { u.chan c with flow := { (u.chan c).flow with
        relocPtr := e + 1, relocAt := t.now, tickets := (u.chan c).flow.tickets ++ [tk]
        nextTicket := (u.chan c).flow.nextTicket + 1 } } }) ∧
  (∀ (c : Ch) (s : State) (e : Nat) (tk : Ticket), s.Inv →
    let u := s.flowDue c
    u.flowRuns c = true → s.bit (chR c 0x4000) 3 = true →
    u.engineReady c FlowOwner.isReloc ((u.chan c).penTurn.map (fun _ => (u.chan c).flow.relocAt + nsT 64)) = some tk →
    tk.owner = .reloc e →
    let p := (u.chan c).penEntry e
    (p.occ = 1 ∨ p.occ = 2) → p.table = tk.table → p.b1 = tk.b1 → p.b2 = tk.b2 →
    s.ftParity c p.table = false → s.bit (ftR c p.table) 0 = true →
    let at_ := max s.now (u.ticketTime c tk false)
    let q := { u.flowKey c p.table 0 p.b1 p.b2 with double := p.occ == 2 }
    let pl := (u.chan c).penPlace e
    let v := (tk.buckets.foldl (fun s b => s.fixBucket c (s.bucketSlot c p.table b)) (u.atTime at_)).fixPenRecord c pl
    let needs := (v.relocNeeds c q).filter (fun b => !tk.buckets.contains b)
    (v.chan c).recordBad (pl, q.double) = false → (∀ i ∈ v.ticketSlots c tk, ((v.chan c).flowSlot i).bad = false) →
    (needs ≠ [] → ∃ t, exec (.relocationTurn c) s = .next t ∧ t.now = at_ ∧
      (t.chan c).flow.tickets = modFirst (fun k => k.id == tk.id)
        (fun k => { k with extra := (k.extra ++ needs).dedup, granted := none, linesAt := 0 }) (v.chan c).flow.tickets ∧
      t = { v with ch := v.ch.set c { v.chan c with flow := { (v.chan c).flow with tickets := (t.chan c).flow.tickets } } }) ∧
    (∀ plan, needs = [] → v.relocPlan c q = some plan →
      let y := (v.chan c).relocate at_ q.double pl plan
      ∃ t, exec (.relocationTurn c) s = .next t ∧ t.now = at_ ∧
        (t.chan c).flow.tickets = dropFirst (fun k => k.id == tk.id) (u.chan c).flow.tickets ∧
        (t.chan c).flow.lines = y.flow.lines ∧ (t.chan c).flow.pen = y.flow.pen ∧ (t.chan c).hbm = y.hbm ∧
        (t.chan c).flow.lastCommit = at_ ∧
        t.reg (chR c 0x4438) = satAdd (s.reg (chR c 0x4438)) 1 ∧
        t.reg (chR c 0x443C) = satAdd (s.reg (chR c 0x443C)) plan.2.length ∧
        (t.chan c).arr = (s.chan c).arr ∧ (t.chan c).spad = (s.chan c).spad ∧ (∀ d, d ≠ c → t.chan d = s.chan d) ∧
        RegsSame s t ([0x4020, 0x4438, 0x443C].map (chR c)) ∧
        t = { s with now := t.now, regs := t.regs, ev := t.ev, ch := t.ch })) ∧
  (∀ (c : Ch) (s : State) (tb b : Nat), s.Inv →
    let u := s.flowDue c
    let k := (u.chan c).flow.ageIssued
    u.ageRuns c = true → k < u.ageBudget c → agePos (u.agedTables c) (u.chan c).flow.ageStart k = some (tb, b) →
    (∀ tk, (u.chan c).flow.tickets.find? (fun q => q.owner.isAge) = some tk → u.readyBy c (some (u.ageTime c k)) tk = false) →
    ∃ t tk, exec (.agingSweepBucket c) s = .next t ∧ t.now = max s.now (u.ageTime c k) ∧
      tk.owner = .age ∧ tk.table = tb ∧ tk.b1 = b ∧ tk.b2 = b ∧ tk.lines = true ∧ tk.granted = none ∧
      t = { u with now := t.now, ch := u.ch.set c { u.chan c with flow := { (u.chan c).flow with
        ageIssued := k + 1, tickets := (u.chan c).flow.tickets ++ [tk], nextTicket := (u.chan c).flow.nextTicket + 1 } } }) ∧
  (∀ (c : Ch) (s : State) (tk : Ticket), s.Inv →
    let u := s.flowDue c
    let k := (u.chan c).flow.ageIssued
    let next := if u.ageBudget c ≤ k then none else agePos (u.agedTables c) (u.chan c).flow.ageStart k
    u.ageRuns c = true → (u.chan c).flow.tickets.find? (fun q => q.owner.isAge) = some tk →
    u.readyBy c (next.map (fun _ => u.ageTime c k)) tk = true → tk.lines = true →
    s.ftParity c tk.table = false → s.bit (ftR c tk.table) 0 = true → tk.table < 16 →
    let at_ := max s.now (u.ticketTime c tk false)
    let s0 := s.bucketSlot c tk.table tk.b1
    let v := (u.atTime at_).fixBucket c s0
    let rs := (v.chan c).bucketRecords (s.ftDouble c tk.table) s0
    let old := rs.filter (fun r => !(v.chan c).recordBad r && s.expired c tk.table ((v.chan c).at r.1))
    (s.bit (ftR c tk.table) 8 = false ∨ (s.chan c).flow.exports.length + old.length ≤ 2048) →
    (∀ i, (FPlace.slot 1 i, true) ∈ rs → i % 2 = 0) →
    ∃ t, exec (.agingSweepBucket c) s = .next t ∧ t.now = at_ ∧ (t.chan c).flow.ageDone = (u.chan c).flow.ageDone + 1 ∧
      (t.chan c).flow.tickets = dropFirst (fun q => q.id == tk.id) (u.chan c).flow.tickets ∧
      t.reg (chR c 0x442C) = satAdd (s.reg (chR c 0x442C)) old.length ∧
      (s.bit (ftR c tk.table) 8 = true → s.host.isUp = true →
        (t.chan c).flow.exports.length = (s.chan c).flow.exports.length + old.length) ∧
      (rs = [] → (t.chan c).flow.lines = (v.chan c).flow.lines ∧ t.regs = v.regs) ∧
      (∀ l ∈ (u.chan c).flow.lines, l.slot ∉ slots4 s0 → l ∈ (t.chan c).flow.lines) ∧ (t.chan c).hbm = (u.chan c).hbm ∧
      (t.chan c).flow.pen = (u.chan c).flow.pen ∧
      RegsSame s t ((ftR c tk.table + 8) :: [0x4020, 0x4024, 0x4028, 0x442C].map (chR c)) ∧
      (t.chan c).arr = (s.chan c).arr ∧ (t.chan c).spad = (s.chan c).spad ∧ (∀ d, d ≠ c → t.chan d = s.chan d) ∧
      t = { s with now := t.now, regs := t.regs, ev := t.ev, ch := t.ch }) ∧
  (∀ (c : Ch) (s : State), s.Inv →
    let u := s.flowDue c
    let i := (u.chan c).flow.penDone
    let at_ := (u.chan c).revTime (i * (u.chan c).maint.tideRevs / 4096)
    let p := (u.chan c).penEntry i
    u.ageRuns c = true → i < 4096 → u.engineReady c FlowOwner.isPen (some at_) = none →
    ((p.occ = 0 ∨ p.occ = 3) → ∃ t, exec (.agingPenExamine c) s = .next t ∧ t.now = max s.now at_ ∧
      t = { u with now := t.now, ch := u.ch.set c { u.chan c with flow := { (u.chan c).flow with penDone := i + 1 } } }) ∧
    ((p.occ = 1 ∨ p.occ = 2) → ∃ t tk, exec (.agingPenExamine c) s = .next t ∧ t.now = max s.now at_ ∧
      tk.owner = .agePen i ∧ tk.table = p.table ∧ tk.b1 = p.b1 ∧ tk.b2 = p.b2 ∧ tk.lines = false ∧
      t = { u with now := t.now, ch := u.ch.set c { u.chan c with flow := { (u.chan c).flow with
        penDone := i + 1, tickets := (u.chan c).flow.tickets ++ [tk], nextTicket := (u.chan c).flow.nextTicket + 1 } } })) ∧
  (∀ (c : Ch) (s : State) (tk : Ticket) (e : Nat), s.Inv →
    let u := s.flowDue c
    let i := (u.chan c).flow.penDone
    let at_ := (u.chan c).revTime (i * (u.chan c).maint.tideRevs / 4096)
    u.ageRuns c = true → u.engineReady c FlowOwner.isPen (if i < 4096 then some at_ else none) = some tk →
    tk.owner = .agePen e →
    let p := (u.chan c).penEntry e
    (p.occ = 1 ∨ p.occ = 2) → p.table = tk.table → s.ftParity c p.table = false → tk.table < 16 →
    (s.bit (ftR c p.table) 8 = false ∨ (s.chan c).flow.exports.length < 2048) →
    let at_ := max s.now (u.ticketTime c tk false)
    let pl := (u.chan c).penPlace e
    let v := (u.atTime at_).fixPenRecord c pl
    let r := (pl, p.occ == 2)
    let bad := (v.chan c).recordBad r
    let old := !bad && s.expired c p.table ((v.chan c).at pl)
    ∃ t, exec (.agingPenExamine c) s = .next t ∧ t.now = at_ ∧
      (t.chan c).flow.tickets = dropFirst (fun q => q.id == tk.id) (u.chan c).flow.tickets ∧
      t.reg (chR c 0x442C) = (if old then satAdd (s.reg (chR c 0x442C)) 1 else s.reg (chR c 0x442C)) ∧
      t.reg (chR c 0x4024) = (if bad then satAdd (s.reg (chR c 0x4024)) 1 else s.reg (chR c 0x4024)) ∧
      (t.chan c).flow.pen = (if bad || old then ((v.chan c).dropFlow at_ r.2 pl).flow.pen else (v.chan c).flow.pen) ∧
      (t.chan c).flow.lines = (u.chan c).flow.lines ∧
      RegsSame s t ((ftR c p.table + 8) :: [0x4020, 0x4024, 0x4028, 0x442C].map (chR c)) ∧
      (t.chan c).hbm = (u.chan c).hbm ∧ (t.chan c).arr = (s.chan c).arr ∧ (t.chan c).spad = (s.chan c).spad ∧
      (∀ d, d ≠ c → t.chan d = s.chan d) ∧ t = { s with now := t.now, regs := t.regs, ev := t.ev, ch := t.ch })

/-! ## Channel states, profiles and flow tables -/

/-- CH_STATE_REQ_ON, _IDLE, _OFF, _CANCEL and CH_ADMIT_EN_WRITE (R26 to R28, R522, Table 01.9). ADMIT_EN acts
on searches accepted in later host-link cycles. -/
def Obligations.ChannelStateRequests : Prop :=
  ∀ (c : Ch) (a : RegAcc) (s : State), s.Inv → Served s a (chRegion c) 4 → a.hw = 0 →
    ((s.chan c).power = .off → (s.chan c).req = none → s.field (chCtrl c) 1 2 = 0 →
      ∃ t, exec (.chStateReqOn c a) s = .next t ∧ Acked s t a (chRegion c) 0x21 [] ∧ t.field (chCtrl c) 1 2 = 1 ∧
        (∀ k, lostOff c k = true → t.reg k = regReset k) ∧
        (∀ k, lostOff c k = false → isEventReg k = false → k ≠ chCtrl c → t.reg k = s.reg k) ∧ t = { s with
          host := t.host, egr := t.egr, regs := t.regs, parity := t.parity, late := t.late,
          ch := s.ch.set c { s.chan c with
            power := .wake, req := some .on, reqAt := s.now, spadRanks := [], regRanks := [0, 1, 2] } }) ∧
    ((s.chan c).power = .idle → (s.chan c).req = none → s.field (chCtrl c) 1 2 = 0 → (s.chan c).faulted = false →
      ∃ t, exec (.chStateReqOn c a) s = .next t ∧ Acked s t a (chRegion c) 0x21 [] ∧ t.field (chCtrl c) 1 2 = 1 ∧
        t.bit (chR c 0xD000) 0 = false ∧ (t.chan c).req = some .on ∧ (t.chan c).maint.resume = true ∧
        (t.chan c).power = .idle ∧ MemSame s t ∧ RegsSame s t [chCtrl c, chR c 0xD000] ∧
        t = { s with host := t.host, egr := t.egr, regs := t.regs, late := t.late, ch := t.ch }) ∧
    ((s.chan c).power = .on → (s.chan c).req = none → s.field (chCtrl c) 1 2 = 0 → (s.chan c).faulted = false →
      s.bit (chCtrl c) 0 = false →
      ∃ t, exec (.chStateReqIdle c a) s = .next t ∧ Acked s t a (chRegion c) 0x21 [] ∧ t.field (chCtrl c) 1 2 = 2 ∧
        RegsSame s t [chCtrl c] ∧ t = { s with
          host := t.host, egr := t.egr, regs := t.regs, late := t.late,
          ch := s.ch.set c { s.chan c with req := some .idle, reqAt := s.now } }) ∧
    ((s.chan c).power = .idle → (s.chan c).req = none → s.field (chCtrl c) 1 2 = 0 → (s.chan c).faulted = false →
      ∃ t, exec (.chStateReqOff c a) s = .next t ∧ t.field (chCtrl c) 1 2 = 3 ∧ (t.chan c).req = some .off ∧
        (t.chan c).power = .idle ∧ (∀ n, n < 16 → ((t.chan c).mgr.box n).state ≠ .pending) ∧
        MemSame s t ∧ RegsSame s t [chCtrl c] ∧
        t = { s with host := t.host, egr := t.egr, regs := t.regs, late := t.late, ch := t.ch }) ∧
    (∀ r, (s.chan c).req = some r → r ≠ .on → s.field (chCtrl c) 1 2 ≠ 0 →
      ∃ t, exec (.chStateReqCancel c a) s = .next t ∧ Acked s t a (chRegion c) 0x21 [] ∧ t.field (chCtrl c) 1 2 = 0 ∧
        RegsSame s t [chCtrl c] ∧ t = { s with
          host := t.host, egr := t.egr, regs := t.regs, late := t.late,
          ch := s.ch.set c { s.chan c with req := none } }) ∧
    (∀ en, ∃ t, exec (.chAdmitEnWrite c a en) s = .next t ∧ Acked s t a (chRegion c) 0x21 [] ∧
      t.bit (chCtrl c) 0 = en ∧ t.field (chCtrl c) 1 2 = s.field (chCtrl c) 1 2 ∧ t.bitAt (chCtrl c) 0 = s.bitAt (chCtrl c) 0 ∧
      RegsSame s t [chCtrl c] ∧ t = { s with host := t.host, egr := t.egr, regs := t.regs, late := t.late, ev := t.ev })

/-- IDLE_ENTRY_COMPLETE, RESUME_CAL_PASS_DONE, CH_OFF_ENTERED and CH_WAKE_COMPLETE (R30, R358, R360, R522). -/
def Obligations.ChannelStateChanges : Prop :=
  ∀ (c : Ch) (s : State), s.Inv →
    ((s.chan c).power = .on → (s.chan c).req = some .idle → (s.chan c).charges = [] →
      ((s.chan c).flow.exports = [] ∨ (s.chan c).faulted = true) →
      ∃ t, exec (.idleEntryComplete c) s = .next t ∧ (t.chan c).power = .idle ∧ (t.chan c).req = none ∧
        (∀ q ∈ (t.chan c).flow.tickets, q.owner.isEngine = false) ∧
        (t.chan c).ready = false ∧ t.bit (chCtrl c) 0 = false ∧ t.field (chCtrl c) 1 2 = 0 ∧
        ((s.chan c).faulted = false → (∀ l ∈ (t.chan c).flow.lines, l.dirty = false) ∧ t.bit (chR c 0xD000) 0 = true) ∧
        (t.chan c).arr = (s.chan c).arr ∧ (t.chan c).spad = (s.chan c).spad ∧ (∀ d, d ≠ c → t.chan d = s.chan d) ∧
        RegsSame s t [chCtrl c, chR c 0xD000] ∧ t = { s with regs := t.regs, ev := t.ev, ch := t.ch }) ∧
    ((s.chan c).power = .idle → (s.chan c).req = some .on →
      ((s.chan c).maint.periodic = [] ∧ (s.chan c).maint.cur = [] ∧ (s.chan c).maint.prio = [] ∨ (s.chan c).reqAt + msT 2 ≤ s.now) →
      ∃ t, exec (.resumeCalPassDone c) s = .next t ∧ (t.chan c).power = .on ∧ (t.chan c).req = none ∧
        (t.chan c).ready = true ∧ (t.chan c).maint.resume = false ∧ t.field (chCtrl c) 1 2 = 0 ∧ MemSame s t ∧
        RegsSame s t [chCtrl c] ∧ t = { s with regs := t.regs, ev := t.ev, ch := t.ch, boot := t.boot } ∧
        t.boot = { s.boot with ready := t.boot.ready } ∧ (s.boot.ready = true → t.boot.ready = true)) ∧
    ((s.chan c).power = .idle → (s.chan c).req = some .off → (∀ p ∈ (s.chan c).mgr.execs, p.2.mbx = 16) →
      ∃ t, exec (.chOffEntered c) s = .next t ∧ (t.chan c).power = .off ∧ (t.chan c).req = none ∧
        (t.chan c).arr = ⟨[], [], [], []⟩ ∧ (t.chan c).hbm = [] ∧ (t.chan c).spad = [] ∧ (t.chan c).ctxs = [] ∧
        (∀ k, lostOff c k = true → t.reg k = regReset k) ∧
        (∀ k, lostOff c k = false → isEventReg k = false → k ≠ chCtrl c → t.reg k = s.reg k) ∧
        t.field (chCtrl c) 1 2 = 0 ∧ (∀ d, d ≠ c → t.chan d = s.chan d)) ∧
    ((s.chan c).power = .wake →
      ∃ t, exec (.chWakeComplete c) s = .next t ∧ (t.chan c).power = .on ∧ (t.chan c).req = none ∧
        (t.chan c).ready = ((t.chan c).mgr.up && !(t.chan c).faulted) ∧ t.field (chCtrl c) 1 2 = 0 ∧
        ((t.chan c).mgr.up = true → t.bit (chR c 0x1000) 0 = true ∧ t.bit (chR c 0x4000) 0 = true) ∧
        t.reg (chR c 0x6900) = 1 ∧ MemSame s t ∧ (∀ d, d ≠ c → t.chan d = s.chan d) ∧ t.now = s.now)

/-- PROFILE_ENABLE, PROFILE_DISABLE, PROFILE_REPORT_AT_BASE_DIE and FLOW_TABLE_ENABLE (R111, R113, R119, R125, R429). -/
def Obligations.ProfileEnables : Prop :=
  (∀ (c : Ch) (p : Fin 64) (a : RegAcc) (s : State), s.Inv → Served s a (chRegion c) (0x2000 + 4 * p.val) → a.hw = 0 →
    (s.bit (profR c p) 0 = false →
      ∃ t, exec (.profileEnable c p a) s = .next t ∧ Acked s t a (chRegion c) 0x21 [] ∧
        t.bit (profR c p) 0 = pbValid (s.profBody c p) ∧
        t.bit (profR c p) 2 = (if pbValid (s.profBody c p) then s.bit (profR c p) 2 else true) ∧
        RegsSame s t [profR c p] ∧ t = { s with host := t.host, egr := t.egr, regs := t.regs, ev := t.ev }) ∧
    (s.bit (profR c p) 0 = true →
      ∃ t, exec (.profileDisable c p a) s = .next t ∧ Acked s t a (chRegion c) 0x21 [] ∧
        t.bit (profR c p) 0 = false ∧
        (t.chan c).profs = sset (fun _ => BaseProfile.reset) (s.chan c).profs p { s.baseProf c p with enabled := false } ∧
        RegsSame s t [profR c p] ∧ t = { s with
          host := t.host, egr := t.egr, regs := t.regs,
          ch := s.ch.set c { s.chan c with profs := (t.chan c).profs } })) ∧
  (∀ (c : Ch) (p : Fin 64) (s : State), s.bit (profR c p) 0 = true →
    exec (.profileReportAtBaseDie c p) s = .next { s with ch := s.ch.set c { s.chan c with
      profs := sset (fun _ => BaseProfile.reset) (s.chan c).profs p (baseOf (s.profBody c p)) } }) ∧
  (∀ (c : Ch) (p : Fin 64) (s : State), s.bit (profR c p) 0 = false →
    exec (.profileReportAtBaseDie c p) s = .next s) ∧
  (∀ (c : Ch) (tb : Fin 16) (a : RegAcc) (s : State), s.Inv → Served s a (chRegion c) (0x4100 + 16 * tb.val) → a.hw = 0 →
     s.bit (ftR c tb) 0 = false →
     ∃ t, exec (.flowTableEnable c tb a) s = .next t ∧ Acked s t a (chRegion c) 0x21 [] ∧
       t.bit (ftR c tb) 0 = s.ftValid c tb ∧ t.bit (ftR c tb) 9 = !s.ftValid c tb ∧
       (∀ i, i ≠ 0 → i ≠ 9 → t.bit (ftR c tb) i = s.bit (ftR c tb) i) ∧ RegsSame s t [ftR c tb] ∧
       t = { s with host := t.host, egr := t.egr, regs := t.regs, ev := t.ev, parity := t.parity } ∧
       (∀ k, k ≠ ftR c tb → (k ∈ t.parity ↔ k ∈ s.parity)))

/-! ## Epochs -/

/-- The six triggers of EPOCH_CMD, accepted and ignored (R196, R197, R199, R203, R205). -/
def Obligations.EpochTriggers : Prop :=
  (∀ (c : Ch) (a : RegAcc) (s : State), s.Inv → Served s a (chRegion c) 0x5010 →
     let x := s.chan c
     let put (e : Epochs) (i : Instr) : Prop := ∃ t, exec i s = .next t ∧ Acked s t a (chRegion c) 0x21 [] ∧
       t = { s with host := t.host, egr := t.egr, ch := s.ch.set c { x with ep := e } }
     (x.othState = .free → s.epochNum c x.othSlot ≠ s.epochNum c x.curSlot →
       put { (x.ep.setSlot x.othSlot .staged) with stagedWork := [] } (.epochCmdStage c a)) ∧
     (x.othState = .staged → x.ep.armed = false → x.ep.commitAt = none →
       put { x.ep with commitAt := some (s.wrapAfter c 4), lateNow := false } (.epochCmdCommit c a)) ∧
     (s.mayArm c = true → put { x.ep with
       armed := true, armTick := s.time.tickAt, lateNow := decide (s.schedNs c < s.timeNs) } (.epochCmdArm c a)) ∧
     (x.ep.armed = true → s.schedDue c = false → put { x.ep with armed := false, lateNow := false } (.epochCmdDisarm c a)) ∧
     (x.othState = .slack → put { x.ep with endSlack := true } (.epochCmdEndSlack c a)) ∧
     (x.othState = .retiring → put { (x.ep.setSlot x.othSlot .free) with retireWork := [] } (.epochCmdFree c a)) ∧
     (x.othState = .staged → x.ep.armed = false → x.ep.commitAt = none →
       ∃ t, exec (.epochCmdFree c a) s = .next t ∧ Acked s t a (chRegion c) 0x21 [] ∧
         t.reg (chR c 0x5118) = satAdd (s.reg (chR c 0x5118)) 1 ∧ (∀ k, k ≠ chR c 0x5118 → t.reg k = s.reg k) ∧
         t = { s with
           host := t.host, egr := t.egr, regs := t.regs,
           ch := s.ch.set c { x with ep := { (x.ep.setSlot x.othSlot .free) with stagedWork := [] } } })) ∧
  (∀ (c : Ch) (a : RegAcc) (s : State), s.Inv → Served s a (chRegion c) 0x5010 →
     let x := s.chan c
     let ignored (i : Instr) : Prop := ∃ t, exec i s = .next t ∧ Acked s t a (chRegion c) 0x21 [] ∧ RegsSame s t [] ∧
       t = { s with host := t.host, egr := t.egr, regs := t.regs, ev := t.ev }
     (x.othState ≠ .free ∨ s.epochNum c x.othSlot = s.epochNum c x.curSlot → ignored (.epochCmdStage c a)) ∧
     (x.othState ≠ .staged ∨ x.ep.armed = true ∨ x.ep.commitAt ≠ none → ignored (.epochCmdCommit c a)) ∧
     (s.mayArm c = false → ignored (.epochCmdArm c a)) ∧
     (x.ep.armed = false ∨ s.schedDue c = true → ignored (.epochCmdDisarm c a)) ∧
     (x.othState ≠ .slack → ignored (.epochCmdEndSlack c a)) ∧
     (x.othState ≠ .retiring → (x.othState ≠ .staged ∨ x.ep.armed = true ∨ x.ep.commitAt ≠ none) →
       ignored (.epochCmdFree c a)))

/-- SCHEDULE_FIRES, COMMIT_TAKES_EFFECT, SLACK_WATER_END and RETIRE_SWEEP (R197 to R200, R205, R206, R210). -/
def Obligations.CommitAndSlackWater : Prop :=
  (∀ (c : Ch) (s : State), (s.chan c).ep.armed = true → s.time.valid = true → (s.chan c).ep.armTick < s.time.tickAt →
    s.schedNs c ≤ s.timeNs → s.Inv →
    let e := (s.chan c).ep
    ∃ t, exec (.scheduleFires c) s = .next t ∧ RegsSame s t [] ∧ t = { s with
      regs := t.regs, ev := t.ev,
      ch := s.ch.set c { s.chan c with
        ep := { e with armed := false, late := e.late || e.lateNow, commitAt := some (s.wrapAfter c 16) } } } ∧
      (e.lateNow = true → Raised t (chSrc c 294))) ∧
  (∀ (c : Ch) (s : State), (s.chan c).ep.armed = false ∨ s.time.valid = false ∨ s.time.tickAt ≤ (s.chan c).ep.armTick ∨
    s.timeNs < s.schedNs c → exec (.scheduleFires c) s = .next s) ∧
  (∀ (c : Ch) (s : State) (due : Nat), (s.chan c).ep.commitAt = some due → s.Inv →
    let x := s.chan c
    ∃ t, exec (.commitTakesEffect c) s = .next t ∧ t.now = max s.now due ∧ (t.chan c).curSlot = 1 - x.curSlot ∧
      (t.chan c).othState = .slack ∧ (t.chan c).ep.commitAt = none ∧ (t.chan c).ep.slackStart = t.now ∧
      (t.chan c).ep.slackUs = s.field (chR c 0x5000) 0 16 ∧ (t.chan c).ep.retireWork = x.ep.stagedWork ∧
      (t.chan c).ep.late = (x.ep.late && x.ep.lateNow) ∧
      t.reg (chR c 0x5024) = BitVec.ofNat 32 s.time.seconds ∧ t.reg (chR c 0x5028) = BitVec.ofNat 32 s.time.nanos ∧
      t.reg (chR c 0x5114) = satAdd (s.reg (chR c 0x5114)) 1 ∧
      RegsSame s t [chR c 0x5020, chR c 0x5024, chR c 0x5028, chR c 0x5114] ∧
      t = { s with now := t.now, regs := t.regs, ev := t.ev, ch := s.ch.set c { x with ep := (t.chan c).ep } }) ∧
  (∀ (c : Ch) (s : State), (s.chan c).othState = .slack → s.Inv →
    (∀ k ∈ (s.chan c).ctxs, k.action ≠ 3 → k.epochSlot ≠ (s.chan c).othSlot) →
    let e := (s.chan c).ep
    ∃ t, exec (.slackWaterEnd c) s = .next t ∧
      t.now = (if e.endSlack then s.now else max s.now (e.slackStart + usT e.slackUs)) ∧
      (t.chan c).othState = .retiring ∧ RegsSame s t [] ∧
      t = { s with now := t.now, regs := t.regs, ev := t.ev, ch := s.ch.set c { s.chan c with
        ep := e.setSlot (s.chan c).othSlot .retiring } }) ∧
  (∀ (c : Ch) (s : State), (s.chan c).othState = .retiring → (s.chan c).mgr.up = true → (s.chan c).power = .on →
    let x := s.chan c
    let m := x.mgr
    (∀ h k w, m.sweepHolder = none → (List.range 8).find? (fun h => (m.exec? h).isNone) = some h → m.keysOf h = [] →
      s.writing c h = false → x.ep.retireWork = k :: w →
      ∃ t, exec (.retireSweep c) s = .next t ∧ (t.chan c).mgr.exec? h = some { Exec.sweep s.now with want := [k / 4096] } ∧
        (∀ y, y ≠ h → (t.chan c).mgr.exec? y = m.exec? y) ∧ (t.chan c).mgr.locks = m.locks ∧ (t.chan c).mgr.items = m.items ∧
        (t.chan c).ep = x.ep ∧ t = { s with ch := s.ch.set c { x with mgr := (t.chan c).mgr } }) ∧
    (∀ h e, m.sweepHolder = some h → m.exec? h = some e → e.broken = none → e.want = [] → ArrayQueue s c →
      x.ep.retireWork ≠ [] → (∀ k ∈ x.ep.retireWork, s.holds c h (k / 4096) = true) →
      ∃ t more, exec (.retireSweep c) s = .next t ∧ (t.chan c).ep.retireWork = [] ∧
        (t.chan c).mgr.items = m.items ++ more ∧
        (∀ i, i ∈ more ↔ ∃ k ∈ x.ep.retireWork, ecfValid (x.arr.word k).ecf = true ∧
          x.arr.live x.othSlot k = !x.arr.live x.curSlot k ∧
          i = ⟨h, ecfItem (bmTable (s.reg (blkR c (k / 4096 / 33) (k / 4096 % 33)))) k
            (if x.arr.live x.curSlot k then ecfSetE (x.arr.word k).ecf x.othSlot true else (x.arr.word k).ecf &&& ~~~1)⟩) ∧
        MemSame s t ∧ t = { s with ch := t.ch, boot := t.boot }) ∧
    (∀ h e, m.sweepHolder = some h → m.exec? h = some e → e.broken = none → e.want = [] → x.ep.retireWork = [] →
      (s.writing c h = true → exec (.retireSweep c) s = .next s) ∧
      (s.writing c h = false → ∃ t, exec (.retireSweep c) s = .next t ∧ (t.chan c).othState = .free ∧
        (m.sweeping = true → (t.chan c).mgr.exec? h = none ∧ (t.chan c).mgr.keysOf h = []) ∧
        (m.sweeping = false → (t.chan c).mgr = m) ∧ MemSame s t ∧ t = { s with ch := t.ch, boot := t.boot })) ∧
    (∀ h e, m.sweepHolder = some h → m.exec? h = some e → e.broken.isSome = true ∨ e.want ≠ [] →
      exec (.retireSweep c) s = .next s))

/-! ## Module time -/

/-- TIME_TICK (R207, R210). -/
def Obligations.TimeTicks : Prop :=
  (∀ s : State, s.time.setPending = false → s.time.nanos < 1000000000 →
    ∃ t n, exec .timeTick s = .next t ∧ (n = 7 ∨ n = 8 ∨ n = 9) ∧ t.now = max s.now (s.time.tickAt + nsT 8) ∧
      t.time.tickAt = s.time.tickAt + nsT 8 ∧
      t.time.frac + 125000000 * ((n : Int) - 8) = s.time.frac + (s.reg (modR 0x502C)).toInt ∧
      t.time.nanos = (s.time.nanos + n) % 1000000000 ∧ t.time.nanos < 1000000000 ∧
      t.time.seconds = (if s.time.nanos + n < 1000000000 then s.time.seconds else (s.time.seconds + 1) % 2 ^ 48) ∧
      t.time = { s.time with tickAt := t.time.tickAt, frac := t.time.frac, nanos := t.time.nanos, seconds := t.time.seconds } ∧
      t = { s with now := t.now, time := t.time }) ∧
  (∀ s : State, s.Inv → s.time.setPending = true →
    ∃ t, exec .timeTick s = .next t ∧ t.now = max s.now (s.time.tickAt + nsT 8) ∧
      t.time.seconds = s.field (modR 0x5014) 0 16 * 2 ^ 32 + s.field (modR 0x5018) 0 32 ∧
      t.time.nanos = min (s.field (modR 0x501C) 0 30) 999999999 ∧ t.time.valid = true ∧ t.time.setPending = false ∧
      RegsSame s t [] ∧ t = { s with now := t.now, regs := t.regs, ev := t.ev, time := t.time })

/-- PPS_EDGE (R208, R209, R408). -/
def Obligations.PpsDisciplines : Prop :=
  (∀ (s : State) (falling : Bool), s.bit (modR 0x5000) 0 = false ∨ falling ≠ s.bit (modR 0x5000) 3 →
    exec (.ppsEdge falling) s = .next s) ∧
  (∀ (s : State) (sec : Nat), s.Inv → s.bit (modR 0x5000) 0 = true →
    (∃ at_, s.todFrame = some (sec, at_)) ∨ (s.todFrame = none ∧ ((s.time.nanos < 500000000 ∧ sec = s.time.seconds) ∨
      (500000000 < s.time.nanos ∧ sec = s.time.seconds + 1))) →
    let used := b2n s.todFrame.isSome
    let e : Int := (s.timeNs : Int) - ((sec * 1000000000 + s.field (modR 0x5024) 0 16 : Nat) : Int)
    e < 2 ^ 31 → -(2 ^ 31) ≤ e →
    ∃ t, exec (.ppsEdge (s.bit (modR 0x5000) 3)) s = .next t ∧ (t.reg (modR 0x5028)).toInt = e ∧
      t.time.lastEdge = s.now ∧ t.time.holdover = false ∧
      t.time.tod = s.time.tod.filter (fun f => s.sameTick f.2 s.now) ∧
      t.reg (modR 0x120C) = satAdd (s.reg (modR 0x120C)) used ∧
      t.reg (modR 0x1210) = satAdd (s.reg (modR 0x1210)) (s.time.tod.length - t.time.tod.length - used) ∧
      (t.time.locked = true → -20 ≤ e ∧ e ≤ 20) ∧
      t.time.goodEdges = (if -20 ≤ e ∧ e ≤ 20 then s.time.goodEdges + 1 else 0) ∧
      (s.time.valid = false ∨ 1000 ≤ e ∨ e ≤ -1000 → t.time.seconds = sec % 2 ^ 48 ∧
        t.time.nanos = s.field (modR 0x5024) 0 16 ∧ t.time.valid = true) ∧
      (s.time.valid = true → -1000 < e → e < 1000 → t.time.seconds = s.time.seconds ∧ t.time.nanos = s.time.nanos ∧
        (s.bit (modR 0x5000) 2 = false → t.reg (modR 0x502C) = s.reg (modR 0x502C)) ∧
        (s.bit (modR 0x5000) 2 = true → e % 8 = 0 →
          t.reg (modR 0x502C) = BitVec.ofInt 32 (max (-100000) (min 100000 ((s.reg (modR 0x502C)).toInt + -e / 8))))) ∧
      RegsSame s t [modR 0x5028, modR 0x502C, modR 0x120C, modR 0x1210] ∧
      t = { s with regs := t.regs, ev := t.ev, time := t.time, freeCount := t.freeCount })

/-- TIME_OF_DAY, PPS_HOLDOVER, TOD_FRAME_DISCARD, TIME_CMD_SET, TIME_CMD_INVALIDATE, TIME_SNAPSHOT_READ (R208 to R210, R408,
R422). -/
def Obligations.TimeCommands : Prop :=
  (∀ (hf : Hf) (sec : BitVec 48) (s : State), s.Inv → s.vc2 = [] →
    let good := s.mayReg hf 0 5 true && s.bit (modR 0x5000) 1
    let older := (s.time.tod.filter (fun f => !s.sameTick f.2 s.now)).take 1
    ∃ t, exec (.timeOfDay hf sec) s = .next t ∧
      t.time.tod = (if good then (sec.toNat, s.now) :: older else s.time.tod) ∧
      t.reg (modR 0x1210) = satAdd (s.reg (modR 0x1210)) (if good then s.time.tod.length - older.length else 1) ∧
      (∀ j, j ≠ modR 0x1210 → t.reg j = s.reg j) ∧
      t = { s with host := t.host, regs := t.regs, time := { s.time with tod := t.time.tod } }) ∧
  (∀ (hf : Hf) (sec : BitVec 48) (s : State) (f : Vc2) (l : List Vc2), s.vc2 = f :: l → s.vc2Waits f = true →
    exec (.timeOfDay hf sec) s = .next { s with vc2 := s.vc2 ++ [.timeOfDay hf sec] }) ∧
  (∀ s : State, s.Inv → ∃ t, exec .ppsHoldover s = .next t ∧ t.now = max s.now (s.time.lastEdge + msT 1500) ∧
    RegsSame s t [] ∧ t = { s with now := t.now, regs := t.regs, ev := t.ev, time := { s.time with holdover := true } }) ∧
  (∀ (s : State) (sec at_ : Nat), s.Inv → s.time.tod.getLast? = some (sec, at_) → ∃ t, exec .todFrameDiscard s = .next t ∧
    t.now = max s.now (at_ + msT 1500) ∧ t.reg (modR 0x1210) = satAdd (s.reg (modR 0x1210)) 1 ∧
    (∀ j, j ≠ modR 0x1210 → t.reg j = s.reg j) ∧
    t = { s with now := t.now, regs := t.regs, time := { s.time with tod := s.time.tod.dropLast } }) ∧
  (∀ (a : RegAcc) (s : State), s.Inv → Served s a 0 0x5020 →
    (∃ t, exec (.timeCmdSet a) s = .next t ∧ Acked s t a 0 0x21 [] ∧
      t = { s with host := t.host, egr := t.egr, time := { s.time with setPending := true } }) ∧
    (∃ t, exec (.timeCmdInvalidate a) s = .next t ∧ Acked s t a 0 0x21 [] ∧ RegsSame s t [] ∧
      t = { s with host := t.host, egr := t.egr, regs := t.regs, ev := t.ev,
                   time := { s.time with valid := false, locked := false } })) ∧
  (∀ (a : RegAcc) (s : State), Served s a 0 0x5008 false →
    ∃ t, exec (.timeSnapshotRead a) s = .next t ∧ Acked s t a 0 0x20 (toBytes 4 (s.readReg 0 false 0x5008).toNat) ∧
      fld (s.readReg 0 false 0x5008) 0 16 = s.time.seconds / 2 ^ 32 % 2 ^ 16 ∧
      t = { s with host := t.host, egr := t.egr,
                   time := { s.time with snapSec := s.time.seconds, snapNs := s.time.nanos } })

/-! ## The cascade -/

/-- CASC_KEY_FRAME, CASC_CANCEL_FRAME and CASC_WASH_FRAME (R182, R188, R220, R225 to R228, R238, R239). -/
def Obligations.CascadeFramesArrive : Prop :=
  (∀ (h : CascHdr) (f : SearchFrame) (s : State), s.Inv → s.casc.pos ≠ 0 → s.cascOn = true → s.bypassing = false →
    s.admitsAt (s.routeOf h.ch) = true →
    let run := s.routeOf h.ch
    let b := s.baseProf run f.profile
    ∃ t p g, exec (.cascKeyFrame h f) s = .next t ∧
      (t.casc.parts.length = s.casc.parts.length + 1 ∧ p ∈ t.casc.parts ∧ p.gsn = h.gsn.toNat ∧ p.ch = h.ch ∧ p.run = run) ∧
      (t.chan run).charges = (s.chan run).charges ++ [⟨h.gsn.toNat, true, true, b.slots, f.profile⟩] ∧
      (t.chan run).ingress = (s.chan run).ingress ++
        [(.search g h.gsn.toNat true true (!b.enabled) b.slots, s.now + nsT 12)] ∧ g.key = f.key ∧ g.pin = f.pin ∧
      t.reg (modR 0x6100) = satAdd (s.reg (modR 0x6100)) 1 ∧ MemSame s t ∧ (∀ d, d ≠ run → t.chan d = s.chan d) ∧
      t.reg (modR 0x2110) = satAdd (s.reg (modR 0x2110)) (b2n (run != h.ch)) ∧
      RegsSame s t [modR 0x6100, modR 0x6104, modR 0x2110] ∧
      t = { s with regs := t.regs, ev := t.ev, ch := t.ch, up := t.up, dn := t.dn, casc := t.casc }) ∧
  (∀ (h : CascHdr) (f : SearchFrame) (s : State), s.casc.pos = 0 ∨ s.cascOn = false →
    ∃ t, exec (.cascKeyFrame h f) s = .next t ∧ t = { s with up := t.up }) ∧
  (∀ (h : CascHdr) (f : SearchFrame) (s : State), s.Inv → s.casc.pos ≠ 0 → s.cascOn = true →
    s.bypassing = true ∨ s.admitsAt (s.routeOf h.ch) = false →
    ∃ t, exec (.cascKeyFrame h f) s = .next t ∧ t.ch = s.ch ∧ t.casc.parts.length = s.casc.parts.length + 1 ∧
      t.reg (modR 0x6100) = satAdd (s.reg (modR 0x6100)) 1 ∧
      t.reg (modR 0x6108) = satAdd (s.reg (modR 0x6108)) (b2n s.bypassing) ∧
      (∃ p ∈ t.casc.parts, p.gsn = h.gsn.toNat ∧ ∃ r, p.own = some (r, true) ∧ ∀ k ∈ r.recs, k.hit = false) ∧
      RegsSame s t [modR 0x6100, modR 0x6104, modR 0x6108] ∧
      t = { s with regs := t.regs, ev := t.ev, up := t.up, dn := t.dn, casc := t.casc }) ∧
  (∀ (h : CascHdr) (s : State) (p : CascPart), s.Inv → s.casc.pos ≠ 0 → s.cascOn = true →
    s.casc.parts.find? (fun p => p.gsn == h.gsn.toNat && p.own.isNone) = some p →
    ∃ t, exec (.cascCancelFrame h) s = .next t ∧
      (∃ l, t.ch = s.ch.set p.run { s.chan p.run with ingress := l } ∧
        ((∀ q ∈ (s.chan p.run).ingress, ∀ f m d sl, q.1 ≠ .search f p.gsn m true d sl) →
          l = (s.chan p.run).ingress ++ [(.cancel p.gsn true, s.now + nsT 12)]) ∧
        (∀ pre post f m d sl at_, (s.chan p.run).ingress = pre ++ (.search f p.gsn m true d sl, at_) :: post →
          (∀ q ∈ pre, ∀ f m d sl, q.1 ≠ .search f p.gsn m true d sl) →
          l = pre ++ (.search f p.gsn m true d sl, at_) :: (.cancel p.gsn true, at_) :: post)) ∧
      RegsSame s t [modR 0x611C] ∧ t = { s with regs := t.regs, ch := t.ch, up := t.up, dn := t.dn }) ∧
  (∀ (h : CascHdr) (r : Result) (s : State), s.Inv →
    (s.casc.substituted.contains h.gsn.toNat = true → ∃ t, exec (.cascWashFrame h r) s = .next t ∧
      t.reg (modR 0x610C) = satAdd (s.reg (modR 0x610C)) 1 ∧ RegsSame s t [modR 0x610C] ∧
      t = { s with regs := t.regs, dn := t.dn, casc := { s.casc with substituted := t.casc.substituted } } ∧
      t.casc.substituted.contains h.gsn.toNat = false) ∧
    (s.casc.substituted.contains h.gsn.toNat = false → ∃ t g, exec (.cascWashFrame h r) s = .next t ∧
      { g with linkReplay := r.linkReplay } = r ∧
      t = { s with
        dn := t.dn,
        casc := { s.casc with
          parts := modFirst (fun p => p.gsn == h.gsn.toNat)
            (fun p => if p.below.isSome then p else { p with below := some (g, h.missing) }) s.casc.parts } }))

/-- BACKWASH_MERGE and CASCADE_MERGE_GRANT (R75, R225, R226, R449). -/
def Obligations.BackwashMerges : Prop :=
  (∀ (gsn : BitVec 14) (s : State) (p : CascPart) (m : Result × Bool),
    s.casc.parts.find? (fun p => p.gsn == gsn.toNat) = some p →
    (s.casc.pos = s.cascLast ∧ p.own = some m ∨ s.casc.pos ≠ s.cascLast ∧ ∃ a b, p.own = some a ∧ p.below = some b ∧
      m = (mergeResults a.1 b.1 a.2 (p.ownsFlow s.casc.pos), a.2 || b.2)) →
    let r := { m.1 with linkReplay := m.1.linkReplay || p.replay }
    let rest := dropFirst (fun (q : CascPart) => q.gsn == p.gsn) s.casc.parts
    (s.casc.pos = 0 → (s.rels.find? (fun q => q.gsn == p.gsn && q.result.isNone)).isSome = true →
      exec (.backwashMerge gsn) s = .next { s with
        casc := { s.casc with parts := rest },
        rels := modFirst (fun q => q.gsn == p.gsn && q.result.isNone)
          (fun q => { q with result := some r, completeAt := s.now }) s.rels }) ∧
    (s.casc.pos ≠ 0 → s.up.isUp = true →
      exec (.backwashMerge gsn) s = .next { s with casc := { s.casc with
        parts := rest
        merge := s.casc.merge.set p.ch (s.casc.merge.get p.ch ++
          [cascHeader 2 ⟨p.ch, gsn, BitVec.ofNat 3 s.casc.pos, m.2⟩ ++ resultBytes p.hf p.dom p.tag r]) } })) ∧
  (∀ a b : LookupRec × BitVec 512, a.1.hit = true → b.1.hit = true →
    (mergeRec a b).1.hit = true ∧ (mergeRec a b).1.prio.toNat = max a.1.prio.toNat b.1.prio.toNat ∧
    (a.1.prio = b.1.prio → (mergeRec a b).1.index.toNat = min a.1.index.toNat b.1.index.toNat)) ∧
  (∀ (s : State) (c : Ch) (ranks : List Nat) (fr : List Byte) (rest : List (List Byte)), s.Inv →
    s.bit (modR 0x3010) 0 = false →
    rotate s.casc.ranks (fun i => !(s.casc.merge.get (Fin.ofNat 4 i)).isEmpty) = some (c.val, ranks) →
    s.casc.merge.get c = fr :: rest →
    ∃ t, exec .cascadeMergeGrant s = .next t ∧ t.casc = { s.casc with ranks := ranks, merge := s.casc.merge.set c rest } ∧
      t.up = s.up.queueFrame s.now fr (some 4) ∧ RegsSame s t [modR 0x3110, modR 0x3140] ∧
      t = { s with regs := t.regs, ev := t.ev, up := t.up, casc := t.casc })

/-- CASC_PORT_UP, CASC_PORT_DOWN, CASC_ENABLE and CASC_BYPASS (R216, R218, R238, R239, R368, R387). -/
def Obligations.CascadePorts : Prop :=
  (∀ (p : Port) (n : BitVec 3) (lanes : BitVec 8) (s : State), s.Inv → p ≠ .host → s.cascEn = true → s.connected p = true →
    (s.port p).isUp = false →
    ((p = .up → n.toNat + 1 = s.casc.pos) → (p = .down → n.toNat = s.casc.pos + 1) →
      (formWidth (lanes.zeroExtend 16) s.cascLanes = none → exec (.cascPortUp p n lanes) s = .next s) ∧
      ∀ w, formWidth (lanes.zeroExtend 16) s.cascLanes = some w →
      ∃ t, exec (.cascPortUp p n lanes) s = .next t ∧ (t.port p).state = .up ∧ (t.port p).lanes = w ∧ (t.port p).txNext = 0 ∧
        (t.port p).rxExpect = 0 ∧ (t.port p).hostCr = [cascCredit, 0, 0, 0, 0] ∧ t.host = s.host ∧ t.ch = s.ch ∧
        RegsSame s t [modR 0x3010]) ∧
    ((p = .up ∧ n.toNat + 1 ≠ s.casc.pos ∨ p = .down ∧ n.toNat ≠ s.casc.pos + 1) →
      ∃ t, exec (.cascPortUp p n lanes) s = .next t ∧ (t.port p).state = .down ∧ t.host = s.host ∧ t.ch = s.ch ∧
        t.casc = s.casc ∧ RegsSame s t [])) ∧
  (∀ (p : Port) (s : State), s.Inv → p ≠ .host →
    ∃ t, exec (.cascPortDown p) s = .next t ∧ (t.port p).isUp = false ∧ (t.port p).txq = [] ∧ (t.port p).replayBuf = [] ∧
      (p = .down → s.casc.pos ≠ s.cascLast → (s.casc.parts.map (·.gsn)).Nodup → ∀ q ∈ t.casc.parts, q.below.isSome = true) ∧
      (p = .down → t.casc.reach = s.casc.pos) ∧ t.host = s.host ∧ t.ch = s.ch ∧ RegsSame s t [modR 0x6104]) ∧
  (∀ (a : RegAcc) (s : State), s.Inv → Served s a 0 0x6000 → a.hw = 0 →
    (∃ t, exec (.cascEnable a true) s = .next t ∧ Acked s t a 0 0x21 [] ∧
      t.bit (modR 0x6000) 0 = (s.cascEn || decide (s.casc.pos ≤ s.cascLast)) ∧
      t.bit (modR 0x6000) 1 = s.bit (modR 0x6000) 1 ∧ t.ch = s.ch ∧ RegsSame s t [modR 0x6000]) ∧
    (∃ t, exec (.cascEnable a false) s = .next t ∧ Acked s t a 0 0x21 [] ∧ t.cascEn = false ∧
      (s.cascEn = true → t.up.isUp = false ∧ t.dn.isUp = false) ∧ t.ch = s.ch ∧ RegsSame s t [modR 0x6000, modR 0x6104]) ∧
    (∀ on, ∃ t, exec (.cascBypass a on) s = .next t ∧ Acked s t a 0 0x21 [] ∧ t.bit (modR 0x6000) 1 = on ∧
      t.cascEn = s.cascEn ∧ t.ch = s.ch ∧ t.casc = s.casc ∧ RegsSame s t [modR 0x6000]))

/-! ## Mailboxes and the manager -/

/-- MBX_WRITE and MBX_DOORBELL (R245, R246, R250, R251, R403, R404, R411). -/
def Obligations.MailboxFrames : Prop :=
  (∀ (hf : Hf) (c : Ch) (rtag : BitVec 16) (mbx : Fin 16) (offw : BitVec 6) (lenw : BitVec 7) (data : List Word) (s : State),
    s.Inv → s.host.isUp = true → s.vc2 = [] → s.egr.completions.length < 256 →
    s.egr.gone.contains (c.val, mbx.val) = false → lenw.toNat ≠ 0 → 4 * (offw.toNat + lenw.toNat) ≤ 256 →
    s.mayMbx hf c mbx = true → s.chDown c = false →
    let b := (s.chan c).mgr.box mbx
    let bytes := padTo (4 * lenw.toNat) ((data.map (fun w => toBytes 4 w.toNat)).flatten)
    (b.state = .empty →
      ∃ t l, exec (.mbxWrite hf c rtag mbx offw lenw data) s = .next t ∧ Acked s t ⟨hf, 15, rtag, 0, []⟩ (chRegion c) 0x22 [] ∧
        ((t.chan c).mgr.box mbx).state = .empty ∧
        (∀ i, i < 256 → ((t.chan c).mgr.box mbx).byte i =
          if 4 * offw.toNat ≤ i ∧ i < 4 * (offw.toNat + lenw.toNat) then (bytes.getD (i - 4 * offw.toNat) 0).toNat else b.byte i) ∧
        (∀ n, n ≠ mbx.val → (t.chan c).mgr.box n = (s.chan c).mgr.box n) ∧
        t = { s with
          host := t.host, egr := t.egr,
          ch := s.ch.set c { s.chan c with mgr := { (s.chan c).mgr with boxes := l } } }) ∧
    (b.state ≠ .empty →
      ∃ t, exec (.mbxWrite hf c rtag mbx offw lenw data) s = .next t ∧
        t.egr = { s.egr with completions := s.egr.completions ++ [⟨hf, chRegion c, completionBytes hf 7 rtag 0x22 [], none⟩] } ∧
        t.reg (modR 0x1204) = satAdd (s.reg (modR 0x1204)) 1 ∧ (∀ k, k ≠ modR 0x1204 → t.reg k = s.reg k) ∧
        t.host = { s.host with arrived := t.host.arrived } ∧ t = { s with host := t.host, egr := t.egr, regs := t.regs })) ∧
  (∀ (hf : Hf) (c : Ch) (rtag : BitVec 16) (mbx : Fin 16) (offw : BitVec 6) (lenw : BitVec 7) (data : List Word) (s u : State),
    s.vc2 = [] → s.egr.completions.length < 256 → exec (.mbxResponseSent c mbx) s = .next u →
    u.egr.gone.contains (c.val, mbx.val) = false →
    exec (.mbxWrite hf c rtag mbx offw lenw data) s = exec (.mbxWrite hf c rtag mbx offw lenw data) u) ∧
  (∀ (hf : Hf) (c : Ch) (rtag : BitVec 16) (mbx : Fin 16) (offw : BitVec 6) (lenw : BitVec 7) (data : List Word) (s : State),
    (s.vc2 = [] ∧ 256 ≤ s.egr.completions.length) ∨ (∃ f l, s.vc2 = f :: l ∧ s.vc2Waits f = true) →
    exec (.mbxWrite hf c rtag mbx offw lenw data) s = .next { s with vc2 := s.vc2 ++ [.mbx hf c rtag mbx offw lenw data] }) ∧
  (∀ (c : Ch) (a : RegAcc) (bells : BitVec 16) (n : Nat) (s : State), s.Inv → Served s a (chRegion c) 0xA000 → n < 16 →
    (s.chan c).mgr.boxRanks.filter (fun k => bells.toNat.testBit k) = [n] →
    let m := (s.chan c).mgr
    let ranks := m.boxRanks.filter (fun k => k != n) ++ [n]
    let done : List Completion := [⟨a.hf, chRegion c, completionBytes a.hf 0 a.rtag 0x21 [], some (c.val, bells.toNat)⟩]
    (s.mayMbx a.hf c n = true → (m.box n).state = .empty → m.up = true →
      ∃ t l, exec (.mbxDoorbell c a bells) s = .next t ∧ Acked s t a (chRegion c) 0x21 [] (some (c.val, bells.toNat)) ∧
        (t.chan c).mgr = { m with boxes := l, rung := m.rung ++ [n], boxRanks := ranks } ∧
        (t.chan c).mgr.box n = { m.box n with state := .pending } ∧ (∀ k, k ≠ n → (t.chan c).mgr.box k = m.box k) ∧
        t.reg (chR c 0xA100) = satAdd (s.reg (chR c 0xA100)) 1 ∧ RegsSame s t [chR c 0xA100] ∧
        t = { s with host := t.host, egr := t.egr, regs := t.regs, ch := s.ch.set c { s.chan c with mgr := (t.chan c).mgr } }) ∧
    (s.mayMbx a.hf c n = true → (m.box n).state = .empty → m.up = false →
      ∃ t, exec (.mbxDoorbell c a bells) s = .next t ∧ ((t.chan c).mgr.box n).state = .responding ∧
        (t.chan c).mgr.boxRanks = ranks ∧
        t.egr = { s.egr with
          completions := s.egr.completions ++ done,
          responses := s.egr.responses.filter (fun r => !(r.ch == c && r.mbx == n)) ++
            [⟨c, n, true, mbxResponseBytes (n / 2) c n
              (responseBytes stBusy (bytesAt (m.box n).buf 2 2) ((m.box n).byte 0) n 0 [])⟩] } ∧
        t.reg (chR c 0xA110) = satAdd (s.reg (chR c 0xA110)) 1 ∧ RegsSame s t [chR c 0xA100, chR c 0xA110] ∧
        (∀ k, k ≠ n → (t.chan c).mgr.box k = m.box k) ∧
        t = { s with host := t.host, egr := t.egr, regs := t.regs, ch := s.ch.set c { s.chan c with mgr := (t.chan c).mgr } }) ∧
    (s.mayMbx a.hf c n = false ∨ (m.box n).state ≠ .empty →
      let k := chR c (if s.mayMbx a.hf c n then 0xA104 else 0xA108)
      ∃ t, exec (.mbxDoorbell c a bells) s = .next t ∧ Acked s t a (chRegion c) 0x21 [] (some (c.val, bells.toNat)) ∧
        t.reg k = satAdd (s.reg k) 1 ∧ RegsSame s t [k] ∧
        t = { s with host := t.host, egr := t.egr, regs := t.regs, ev := t.ev }))

/-- MBX_DISPATCH and MBX_RESPONSE_SENT (R27, R245, R248, R249, R250). -/
def Obligations.DispatchAndResponse : Prop :=
  (∀ (c : Ch) (s : State) (n x : Nat) (rest : List Nat), s.Inv → (s.chan c).mgr.rung = n :: rest → n < 16 →
    (List.range 8).find? (fun x => ((s.chan c).mgr.exec? x).isNone) = some x →
    (s.chan c).mgr.up = true → (s.chan c).mgr.upd = none →
    let m := (s.chan c).mgr
    let b := padTo 256 (m.box n).buf
    let resp (st : Nat) : List Byte := mbxResponseBytes (n / 2) c n (responseBytes st (bytesAt b 2 2) (bytesAt b 0 1) n 0 [])
    (headerCheck n b = none → (s.chan c).req ≠ some .off →
      ∃ t, exec (.mbxDispatch c) s = .next t ∧ (t.chan c).mgr.box n = { m.box n with state := .running } ∧
        (t.chan c).mgr.exec? x = some { Exec.none with mbx := n, hf := n / 2, req := b, since := s.now } ∧
        (∀ y, y ≠ x → (t.chan c).mgr.exec? y = m.exec? y) ∧ (∀ k, k ≠ n → (t.chan c).mgr.box k = m.box k) ∧
        t.egr = { s.egr with responses := s.egr.responses ++
          (if bytesAt b 1 1 % 2 = 1 ∧ s.host.isUp = true then [⟨c, n, false, resp 1⟩] else []) } ∧
        (t.chan c).mgr = { m with boxes := (t.chan c).mgr.boxes, execs := (t.chan c).mgr.execs, rung := rest, served := s.now } ∧
        t = { s with egr := t.egr, ch := s.ch.set c { s.chan c with mgr := (t.chan c).mgr } }) ∧
    (∀ st, headerCheck n b = some st ∨ (headerCheck n b = none ∧ (s.chan c).req = some .off ∧ st = stBusy) →
      s.host.isUp = true →
      ∃ t, exec (.mbxDispatch c) s = .next t ∧ ((t.chan c).mgr.box n).state = .responding ∧
        t.egr = { s.egr with responses := s.egr.responses.filter (fun r => !(r.ch == c && r.mbx == n)) ++ [⟨c, n, true, resp st⟩] } ∧
        (t.chan c).mgr = { m with boxes := (t.chan c).mgr.boxes, rung := rest, served := s.now } ∧
        t = { s with egr := t.egr, ch := s.ch.set c { s.chan c with mgr := (t.chan c).mgr } })) ∧
  (∀ (c : Ch) (mbx : Fin 16) (s : State), s.Inv →
    (s.egr.gone.contains (c.val, mbx.val) = true →
      ∃ t, exec (.mbxResponseSent c mbx) s = .next t ∧ (t.chan c).mgr.box mbx = ⟨.empty, []⟩ ∧
        (∀ k, k ≠ mbx.val → (t.chan c).mgr.box k = (s.chan c).mgr.box k) ∧
        t.egr = { s.egr with gone := dropFirst (fun p => p == (c.val, mbx.val)) s.egr.gone } ∧
        t.reg (chR c 0xA10C) = satAdd (s.reg (chR c 0xA10C)) 1 ∧ RegsSame s t [chR c 0xA10C] ∧
        (((s.chan c).mgr.box mbx).byte 1 / 2 % 2 = 1 → t.ev = s.ev) ∧
        t = { s with
          egr := t.egr, regs := t.regs, ev := t.ev,
          ch := s.ch.set c { s.chan c with mgr := { (s.chan c).mgr with boxes := (t.chan c).mgr.boxes } } }) ∧
    (s.egr.gone.contains (c.val, mbx.val) = false → exec (.mbxResponseSent c mbx) s = .next s))

/-- LOCK_GRANT, ENGINE_LOCK_GROUP_GRANT, SHEEPDOG_INSPECTION, COMMAND_RESTART and COMMAND_TIMEOUT (R255 to R259, R297, R301,
Table 13.1). -/
def Obligations.LocksOfTheManager : Prop :=
  (∀ (c : Ch) (s : State) (i : Instr), s.Inv → i = .lockGrant c ∨ i = .engineLockGroupGrant c → JobsKeepSource s c →
    let m := (s.chan c).mgr
    let at_ := max s.now s.nextMgrCycle
    m.lockRanks.Nodup →
    ((∀ y ∈ m.lockRanks, m.asksNothing y) → exec i s = .next s) ∧
    (∀ pre x post e k, m.lockRanks = pre ++ x :: post → x < 8 → m.exec? x = some e → e.request = some k → m.lock? k = none →
      (∀ y ∈ pre, (m.exec? y).bind Exec.request ≠ some k) → (∀ y ∈ pre, 8 ≤ y → m.groupFree (m.job y) = false) →
      m.locks.length + pre.length < 64 →
      ∃ t won, exec i s = .next t ∧ at_ ≤ t.now ∧ t.now ≤ at_ + nsT 1 ∧
        (t.chan c).mgr.lock? k = some ⟨k, x, at_⟩ ∧ (t.chan c).mgr.exec? x = some { e with want := e.want.drop 1 } ∧
        (m.locks.length + m.lockRanks.length ≤ 62 → ∀ q l, m.lock? q = some l → (t.chan c).mgr.lock? q = some l) ∧
        (∀ y, (m.exec? y).bind Exec.request = none → (t.chan c).mgr.exec? y = m.exec? y) ∧
        x ∈ won ∧ won.Sublist m.lockRanks ∧ (t.chan c).mgr.lockRanks = m.lockRanks.filter (fun h => !won.contains h) ++ won ∧
        MemSame s t ∧
        t = { s with
          now := t.now, regs := t.regs, ev := t.ev,
          ch := s.ch.set c { s.chan c with mgr := { m with
            execs := (t.chan c).mgr.execs, locks := (t.chan c).mgr.locks, lockRanks := (t.chan c).mgr.lockRanks,
            mig := (t.chan c).mgr.mig, rep := (t.chan c).mgr.rep } } }) ∧
    (∀ x e k, x ∈ m.lockRanks → x < 8 → m.exec? x = some e → e.request = some k → m.lock? k = none → m.freeLock = none →
      ∃ t q, exec i s = .next t ∧ t.now = at_ ∧ (t.chan c).mgr.keysOf x = [] ∧ (t.chan c).mgr.exec? x = some q ∧
        q.broken = some at_ ∧ q.attempt = e.attempt + 1 ∧
        (∀ y, y ∉ m.lockRanks ∨ m.asksNothing y → (t.chan c).mgr.keysOf y = m.keysOf y ∧ (t.chan c).mgr.exec? y = m.exec? y) ∧
        t = { s with now := t.now, ch := s.ch.set c { s.chan c with
          mgr := { m with execs := (t.chan c).mgr.execs, locks := (t.chan c).mgr.locks } } })) ∧
  (∀ (c : Ch) (s : State) (i : Instr) (pre post : List Nat) (h : Nat) (j : Job), s.Inv →
    i = .lockGrant c ∨ i = .engineLockGroupGrant c → JobsKeepSource s c →
    let m := (s.chan c).mgr
    let at_ := max s.now s.nextMgrCycle
    m.lockRanks.Nodup → m.lockRanks = pre ++ h :: post → h = 8 ∨ h = 9 → m.job h = some j → m.groupFree (some j) = true →
    (∀ y ∈ pre, m.asksNothing y) → (∀ y ∈ post, 8 ≤ y → m.groupFree (m.job y) = false) → j.src ≠ j.dst →
    let k := blkR c (j.dst / 33) (j.dst % 33)
    ∃ t, exec i s = .next t ∧ t.now = at_ + nsT 1 ∧
      (∀ q ∈ j.keys, (t.chan c).mgr.lock? q = some ⟨q, h, at_⟩) ∧ (t.chan c).mgr.job h = some { j with step := 3 } ∧
      t.field k 0 11 = s.field (blkR c (j.src / 33) (j.src % 33)) 0 11 ∧ MemSame s t ∧ RegsSame s t [k] ∧
      t = { s with
        now := t.now, regs := t.regs, ev := t.ev,
        ch := s.ch.set c { s.chan c with mgr := { m with
          execs := (t.chan c).mgr.execs, locks := (t.chan c).mgr.locks, lockRanks := (t.chan c).mgr.lockRanks,
          mig := (t.chan c).mgr.mig, rep := (t.chan c).mgr.rep } } }) ∧
  (∀ (c : Ch) (s : State) (j : Job), (s.chan c).mgr.mig = some j → (s.chan c).mgr.rep = none → j.step = 0 → j.owner = none →
    s.bit (blkR c (j.src / 33) (j.src % 33)) 0 = false → (∀ y ∈ (s.chan c).mgr.lockRanks, y < 8 → (s.chan c).mgr.asksNothing y) →
    ∀ i : Instr, i = .lockGrant c ∨ i = .engineLockGroupGrant c → exec i s = .next (s.setJob c 8 none)) ∧
  (∀ (c : Ch) (s : State), s.Inv →
    let m := (s.chan c).mgr
    ∃ t, exec (.sheepdogInspection c) s = .next t ∧ t.now = max s.now (m.sheepAt + usT 10) ∧ (t.chan c).mgr.sheepAt = t.now ∧
      (∀ x e, x < 8 → m.isVictim x = true → m.exec? x = some e → (t.chan c).mgr.keysOf x = [] ∧
        ∃ q, (t.chan c).mgr.exec? x = some q ∧ q.broken = some t.now ∧ q.attempt = e.attempt + 1) ∧
      (∀ x, 8 ≤ x ∨ m.isVictim x = false → (t.chan c).mgr.keysOf x = m.keysOf x ∧ (t.chan c).mgr.exec? x = m.exec? x) ∧
      RegsSame s t [chR c 0xA114, chR c 0xA140] ∧
      t = { s with
        now := t.now, regs := t.regs, ev := t.ev,
        ch := s.ch.set c { s.chan c with
          mgr := { m with sheepAt := t.now, execs := (t.chan c).mgr.execs, locks := (t.chan c).mgr.locks } }
        freeCount := t.freeCount }) ∧
  (∀ (c : Ch) (x : Fin 8) (s : State) (e : Exec) (at_ : Nat), s.Inv → (s.chan c).mgr.exec? x = some e →
    e.mbx < 16 ∨ e.code = 0x23 → e.broken = some at_ →
    (e.attempt ≤ 3 ∨ e.code = 0x23 →
      ∃ t l, exec (.commandRestart c x) s = .next t ∧ t.now = max s.now (at_ + usT (20 * min e.attempt 3)) ∧
        (t.chan c).mgr.exec? x = some { e with broken := none } ∧
        t = { s with now := t.now, ch := s.ch.set c { s.chan c with mgr := { (s.chan c).mgr with execs := l } } }) ∧
    (3 < e.attempt → e.code ≠ 0x23 →
      ∃ t, exec (.commandRestart c x) s = .next t ∧ Ended t c x e stRetry ∧
        t.reg (chR c 0xA118) = satAdd (s.reg (chR c 0xA118)) 1 ∧ MemSame s t ∧ (∀ k, k ≠ chR c 0xA118 → t.reg k = s.reg k) ∧
        t = { s with regs := t.regs, ch := t.ch, egr := t.egr })) ∧
  (∀ (c : Ch) (x : Fin 8) (s : State) (e : Exec) (limit : Nat), (s.chan c).mgr.exec? x = some e → e.resp = none →
    (s.chan c).mgr.up = true → s.waitLimit c e = some limit →
    ∃ t, exec (.commandTimeout c x) s = .next t ∧ t.now = max s.now (e.since + limit) ∧ Ended t c x e stTimeout ∧ MemSame s t ∧
      t = { s with now := t.now, ch := t.ch, egr := t.egr })

/-- MGR_WATCHDOG_EXPIRY, MGR_RESTART, MGR_RESTART_COMPLETE, MGR_UPDATE_HALT, MGR_UPDATE_COMPLETE and MGR_UPDATE_FALLBACK (R260 to
R263, R501). -/
def Obligations.ManagerHaltsAndReturns : Prop :=
  ∀ (c : Ch) (s : State), s.Inv →
    let m := (s.chan c).mgr
    let good (b : Bool) : Bool := imageGood false s.boot.revoked ((s.flash c).image b)
    let halted (t : State) : Prop := (t.chan c).mgr.up = false ∧ (t.chan c).mgr.execs = [] ∧ (t.chan c).mgr.rung = [] ∧
      (∀ n, n < 16 → ((t.chan c).mgr.box n).state ≠ .pending ∧ ((t.chan c).mgr.box n).state ≠ .running) ∧
      (t.chan c).mgr.locks = m.locks.filter (fun p => decide (8 ≤ p.2.holder))
    (m.up = true → s.bit (chR c 0xA00C) 1 = true →
      ∃ t, exec (.mgrWatchdogExpiry c) s = .next t ∧ t.now = max s.now (m.served + msT 50) ∧ halted t ∧
        t.reg (chR c 0xA11C) = satAdd (s.reg (chR c 0xA11C)) 1 ∧ MemSame s t ∧ (∀ d, d ≠ c → t.chan d = s.chan d) ∧
        RegsSame s t [chR c 0xA11C, chR c 0xA110] ∧
        t = { s with now := t.now, regs := t.regs, ev := t.ev, ch := t.ch, egr := t.egr }) ∧
    (∀ a : RegAcc, Served s a (chRegion c) 0xA00C → m.up = true →
      ∃ t, exec (.mgrRestart c a) s = .next t ∧ halted t ∧ (t.chan c).mgr.loading = true ∧
        t.egr.completions = s.egr.completions ++ [⟨a.hf, chRegion c, completionBytes a.hf 0 a.rtag 0x21 [], none⟩] ∧
        MemSame s t ∧ (∀ d, d ≠ c → t.chan d = s.chan d) ∧ RegsSame s t [chR c 0xA110] ∧
        t = { s with regs := t.regs, ev := t.ev, ch := t.ch, egr := t.egr, host := t.host }) ∧
    (m.loading = true → m.upd = none → (∀ h j, m.job h = some j → j.forOluek = false) →
      ∃ t, exec (.mgrRestartComplete c) s = .next t ∧ (t.chan c).mgr.up = (good (s.flash c).olActive || good (!(s.flash c).olActive)) ∧
        (t.chan c).mgr.loading = false ∧
        (t.flash c).olActive = ((s.flash c).olActive != ((t.chan c).mgr.up && !good (s.flash c).olActive)) ∧
        MemSame s t ∧ RegsSame s t [chR c 0xA010] ∧ t = { s with regs := t.regs, ev := t.ev, ch := t.ch, boot := t.boot }) ∧
    (∀ j n, m.loading = true → m.upd = none → (good (s.flash c).olActive || good (!(s.flash c).olActive)) = true →
      8 ∈ m.jobRanks → m.mig = some j → m.rep = none → j.step = 6 → j.failed = false → j.dirty = [] → j.owner = none →
      s.takeSlot c 4 = some n →
      ∃ t, exec (.mgrRestartComplete c) s = .next t ∧ t.now = max s.now (s.cycleTime c n) ∧ (t.chan c).mgr.up = true ∧
        (t.chan c).mgr.loading = false ∧ (t.chan c).mgr.mig = none ∧ (t.chan c).mgr.keysOf 8 = [] ∧
        t.bit (blkR c (j.src / 33) (j.src % 33)) 0 = false ∧ (∀ d, d ≠ c → t.chan d = s.chan d)) ∧
    (∀ u, m.upd = some u →
      (u.haltAt = none → (∃ p ∈ m.execs, p.2.code = 0x72 ∧ p.2.phase = 2) →
        ∃ t, exec (.mgrUpdateHalt c) s = .next t ∧ (t.flash c).olActive = !u.old ∧ (t.chan c).mgr.up = false ∧
          (t.chan c).mgr.loading = true ∧ (t.chan c).mgr.execs = [] ∧ (t.chan c).mgr.rung = [] ∧
          (t.chan c).mgr.upd = some { u with haltAt := some s.now } ∧
          (∀ n, n < 16 → ((t.chan c).mgr.box n).state ≠ .pending) ∧ MemSame s t ∧ RegsSame s t [chR c 0xA110] ∧
          t = { s with regs := t.regs, ch := t.ch, egr := t.egr, boot := t.boot }) ∧
      (∀ h, u.haltAt = some h → s.host.isUp = true →
        (h + msT 200 < s.now → exec (.mgrUpdateComplete c) s = .next s) ∧
        (s.now ≤ h + msT 200 →
         let v := imgVersion ((s.flash c).image (s.flash c).olActive)
         ∃ t, exec (.mgrUpdateComplete c) s = .next t ∧ (t.chan c).mgr.up = true ∧ (t.chan c).mgr.loading = false ∧
           (t.chan c).mgr.upd = none ∧ t.reg (chR c 0xA010) = BitVec.ofNat 32 v ∧
           ⟨c, u.mbx, true, mbxResponseBytes (u.mbx / 2) c u.mbx (responseBytes stOK u.seq 0x72 u.mbx v [])⟩ ∈ t.egr.responses ∧
           MemSame s t ∧ RegsSame s t [chR c 0xA010] ∧ t = { s with regs := t.regs, ev := t.ev, ch := t.ch, egr := t.egr }) ∧
        (good u.old = true →
          ∃ t, exec (.mgrUpdateFallback c) s = .next t ∧ t.now = max s.now (h + msT 200) ∧ (t.flash c).olActive = u.old ∧
            (t.chan c).mgr.up = true ∧ (t.chan c).mgr.upd = none ∧
            ⟨c, u.mbx, true, mbxResponseBytes (u.mbx / 2) c u.mbx (responseBytes stImage u.seq 0x72 u.mbx 0 [])⟩ ∈ t.egr.responses ∧
            MemSame s t ∧ RegsSame s t [chR c 0xA010] ∧
            t = { s with now := t.now, regs := t.regs, ev := t.ev, ch := t.ch, egr := t.egr, boot := t.boot })))

/-! ## Mailbox commands -/

/-- The checks of every mailbox command (R265 to R269, R504), the turns that it does not have, and the end of one whose response
is known. -/
def Obligations.ChecksComeFirst : Prop :=
  ∀ (i : Instr) (c : Ch) (x : Fin 8) (code : Nat) (q : State → Ch → Exec → Checks) (s : State), s.Inv →
    mailboxRow i = some (c, x, code, q) →
    (∀ e, Turn s c x e code → e.phase = 0 →
      let k := q (s.turn c) c e
      (∀ st d, firstChk k.2.1 = some (st, d) → ∃ t, exec i s = .next t ∧ Ended t c x e st d ∧ OnlyMgr s t c) ∧
      (firstChk k.2.1 = none → k.1 = true → (s.flash c).full = true →
        ∃ t, exec i s = .next t ∧ Ended t c x e stBusy ∧ MemSame s t ∧ RegsSame s t [] ∧
          t = { s with ch := t.ch, egr := t.egr, regs := t.regs, ev := t.ev }) ∧
      (∀ st d, firstChk k.2.1 = none → (k.1 && (s.flash c).full) = false → firstChk k.2.2 = some (st, d) →
        ∃ t, exec i s = .next t ∧ Ended t c x e st d ∧ OnlyMgr s t c)) ∧
    ((s.chan c).mgr.exec? x = none ∨
      (∃ e, (s.chan c).mgr.exec? x = some e ∧
        (e.code ≠ code ∨ e.mbx = 16 ∨ (s.chan c).mgr.up = false ∨ e.broken.isSome = true ∨ e.want ≠ [])) → exec i s = .next s) ∧
    (∀ e r, (s.chan c).mgr.exec? x = some e → e.code = code → e.mbx ≠ 16 → (s.chan c).mgr.up = true → e.broken = none → e.want = [] →
      e.resp = some r →
      let waits := s.writing c x ||
        (s.bit (modR 0x8010) 0 && (match e.jpos with | some j => !(s.flash c).committed j | none => false))
      (waits = true → exec i s = .next s) ∧
      (waits = false → ∃ t, exec i s = .next t ∧ (t.chan c).mgr.exec? x = none ∧ (t.chan c).mgr.keysOf x = [] ∧
        (s.host.isUp = true → t.egr.responses =
          s.egr.responses.filter (fun r => !(r.ch == c && r.mbx == e.mbx)) ++
            [⟨c, e.mbx, true, mbxResponseBytes (e.mbx / 2) c e.mbx r⟩]) ∧ OnlyMgr s t c))

/-- RULE_INSERT, RULE_DELETE, RULE_MODIFY_AD, RULE_READ and RULE_BULK_INSERT (R271 to R278). -/
def Obligations.RuleCommands : Prop :=
  ∀ (c : Ch) (x : Fin 8) (s : State) (e : Exec), s.Inv → ArrayQueue s c →
    let u := s.turn c
    let t := e.par 0 1
    let r := u.tableOf c t
    let a := u.planned c
    let key : BitVec 64 := BitVec.ofNat 64 (e.par 8 8) &&& r.mask
    let elsewhere (slots : List Nat) (k : Nat) : Bool := [0, 1].any (fun i => a.live i k && !slots.contains i)
    let done (w : State) (st d : Nat) (res : List Byte) : Prop :=
      Ended w c x e st d res ∧ MemSame s w ∧ w = { s with ch := w.ch, egr := w.egr, boot := w.boot }
    (Turn s c x e 0x10 → Passes u c (u.ruleInsertChecks c e) →
      let en := entOf (e.req.drop 16) (insertWords e.plen)
      let hits := (a.carriers r (en.ad &&& r.mask))
      (∀ slots tr k, Inserts u c x t (e.par 1 1 % 4) en slots tr k →
        ∃ w, exec (.ruleInsert c x) s = .next w ∧ done w stOK (u.indexOf c k) [] ∧
          Queued s w c x (a.putItems t r.width k en (slots.contains 0) (slots.contains 1)) ∧
          (w.chan c).ep = ((u.track c tr [k]).chan c).ep) ∧
      (u.reach c a r (e.par 1 1 % 4) (en.ad &&& r.mask) = none →
        ∃ w, exec (.ruleInsert c x) s = .next w ∧ Ended w c x e stEpoch ∧ OnlyMgr s w c) ∧
      (∀ slots tr, u.reach c a r (e.par 1 1 % 4) (en.ad &&& r.mask) = some (slots, tr) →
        (∀ k, hits.find? (fun k => slots.any (fun i => a.live i k)) = some k →
          ∃ w, exec (.ruleInsert c x) s = .next w ∧ Ended w c x e stExists (u.indexOf c k) ∧ OnlyMgr s w c) ∧
        (hits.find? (fun k => slots.any (fun i => a.live i k)) = none →
          (a.freeEntry r.width r.blocks en.ranged = none →
            ∃ w, exec (.ruleInsert c x) s = .next w ∧ Ended w c x e stNoSpace ∧ OnlyMgr s w c) ∧
          (∀ k, a.freeEntry r.width r.blocks en.ranged = some k → u.holds c x (k / 4096) = false → s.writing c x = false →
            ∃ w, exec (.ruleInsert c x) s = .next w ∧ Asks w c x [k / 4096] ∧ (w.chan c).mgr.keysOf x = [] ∧ OnlyMgr s w c)))) ∧
    (Turn s c x e 0x11 → Passes u c (u.ruleDeleteChecks c e) → ∀ slots tr, u.keyWay c e = some (slots, tr) →
      let ks := (a.carriers r key).filter (fun k => slots.any (fun i => a.live i k))
      (ks = [] → ∃ w, exec (.ruleDelete c x) s = .next w ∧ Ended w c x e stNotFound ∧ OnlyMgr s w c) ∧
      (ks ≠ [] → HoldsAll u c x (ks.map (· / 4096)) →
        ∃ w its, exec (.ruleDelete c x) s = .next w ∧ done w stOK (u.indexOf c (ks.headD 0)) [] ∧ Queued s w c x its) ∧
      (∀ k, ks = [k] → u.holds c x (k / 4096) = true →
        ∃ w, exec (.ruleDelete c x) s = .next w ∧
          (elsewhere slots k = false → Queued s w c x (a.dropItems t r.width k) ∧
            (w.chan c).ep = ((u.untrack c (fun j => j == k)).chan c).ep) ∧
          (elsewhere slots k = true →
            Queued s w c x [ecfItem t k (slots.foldl (fun f i => ecfSetE f i false) (a.word k).ecf)] ∧
            (w.chan c).ep = ((u.track c tr [k]).chan c).ep)) ∧
      ((∃ k ∈ ks, u.holds c x (k / 4096) = false) → ∃ w, exec (.ruleDelete c x) s = .next w ∧ OnlyMgr s w c ∧
        Asks w c x (((ks.map (· / 4096)).dedup).filter (fun q => !u.holds c x q)))) ∧
    (Turn s c x e 0x12 → Passes u c (u.ruleModifyChecks c e) → ∀ slots tr, u.keyWay c e = some (slots, tr) →
      let ad : BitVec 64 := BitVec.ofNat 64 (e.par 16 8)
      ((a.carriers r key).find? (fun k => slots.any (fun i => a.live i k)) = none →
        ∃ w, exec (.ruleModifyAd c x) s = .next w ∧ Ended w c x e stNotFound ∧ OnlyMgr s w c) ∧
      (∀ k, (a.carriers r key).find? (fun k => slots.any (fun i => a.live i k)) = some k →
        (elsewhere slots k = false → u.holds c x (k / 4096) = true →
          ∃ w, exec (.ruleModifyAd c x) s = .next w ∧ done w stOK (u.indexOf c k) [] ∧
            Queued s w c x [a.adItem t r.width k ad] ∧ (w.chan c).ep = (s.chan c).ep) ∧
        (elsewhere slots k = true →
          (a.freeEntry r.width r.blocks (a.ent r.width k).ranged = none →
            ∃ w, exec (.ruleModifyAd c x) s = .next w ∧ Ended w c x e stNoSpace ∧ OnlyMgr s w c) ∧
          (∀ k', a.freeEntry r.width r.blocks (a.ent r.width k).ranged = some k' →
            HoldsAll u c x [k / 4096, k' / 4096] →
            ∃ w its, exec (.ruleModifyAd c x) s = .next w ∧ done w stOK (u.indexOf c k') [] ∧
              Queued s w c x (a.putItems t r.width k' { a.ent r.width k with ad := ad }
                (slots.contains 0 && a.live 0 k) (slots.contains 1 && a.live 1 k) ++ its) ∧ its ≠ [])))) ∧
    (Turn s c x e 0x13 → Passes u c (u.ruleReadChecks c e) →
      let size := recordSize r.width
      let staged (w : State) (ks : List Nat) : Prop :=
        w.ch = s.ch.set c { s.chan c with
          mgr := (w.chan c).mgr
          hbm := ((s.chan c).stagePutBytes e.hf (e.stOff 16) ((ks.map (u.entryRecord c a r.width)).flatten)).hbm } ∧
        w = { s with ch := w.ch, egr := w.egr }
      (e.par 1 1 % 2 = 1 →
        let all := (a.entries r).filter (fun k => decide (e.par 8 4 ≤ u.indexOf c k))
        let ks := all.take (e.stLen 16 / size)
        ∃ w, exec (.ruleRead c x) s = .next w ∧ staged w ks ∧
          Ended w c x e stOK ks.length (toBytes 4 (match all.drop (e.stLen 16 / size) with
            | [] => 0xFFFFFFFF | k :: _ => u.indexOf c k))) ∧
      (e.par 1 1 % 2 ≠ 1 →
        let all := a.carriers r key
        (all = [] → ∃ w, exec (.ruleRead c x) s = .next w ∧ Ended w c x e stNotFound ∧ OnlyMgr s w c) ∧
        (all ≠ [] → e.stLen 16 < size * all.length →
          ∃ w, exec (.ruleRead c x) s = .next w ∧ Ended w c x e stBadParam 16 ∧ OnlyMgr s w c) ∧
        (all ≠ [] → size * all.length ≤ e.stLen 16 →
          ∃ w, exec (.ruleRead c x) s = .next w ∧ staged w all ∧ Ended w c x e stOK all.length))) ∧
    (Turn s c x e 0x14 → (e.phase = 1 ∨ Passes u c (u.bulkInsertChecks c e)) → ∀ data,
      (u.chan c).stageBytes e.hf (e.stOff 8) (e.stLen 8) = .bytes data →
      let n := e.nums.getD 0 0
      let p := (data.drop (n * bulkSize r.width)).take (bulkSize r.width)
      (e.par 4 4 ≤ n → ∃ w, exec (.ruleBulkInsert c x) s = .next w ∧
        Ended w c x e stOK (n * 2 ^ 32 + e.nums.getD 1 0) ∧ OnlyMgr s w c) ∧
      (e.par 4 4 = n + 1 → entChk p (widthWords r.width) = none → ∀ slots tr k,
        Inserts u c x t (e.par 1 1 % 4) (entOf p (widthWords r.width)) slots tr k →
        ∃ w, exec (.ruleBulkInsert c x) s = .next w ∧ done w stOK ((n + 1) * 2 ^ 32 + u.indexOf c k) [] ∧
          Queued s w c x (a.putItems t r.width k (entOf p (widthWords r.width)) (slots.contains 0) (slots.contains 1)) ∧
          (w.chan c).ep = ((u.track c tr [k]).chan c).ep) ∧
      (∀ st d, n < e.par 4 4 → entChk p (widthWords r.width) = some (st, d) →
        ∃ w, exec (.ruleBulkInsert c x) s = .next w ∧ Ended w c x e st (n * 2 ^ 32 + e.nums.getD 1 0) ∧ OnlyMgr s w c))

/-- TABLE_CREATE, TABLE_DESTROY, TABLE_RESIZE and DEFRAG (R279 to R283, R295). -/
def Obligations.TableCommands : Prop :=
  ∀ (c : Ch) (x : Fin 8) (s : State) (e : Exec), s.Inv → ArrayQueue s c →
    let u := s.turn c
    let t := e.par 0 1
    let r := u.tableOf c t
    let blk (b : Nat) : Nat := blkR c (b / 33) (b % 33)
    let done (w : State) (d : Nat) (ks : List Nat) : Prop :=
      Ended w c x e stOK d ∧ MemSame s w ∧ RegsSame s w ks ∧ (∀ d, d ≠ c → w.chan d = s.chan d) ∧
      w = { s with ch := w.ch, egr := w.egr, boot := w.boot, regs := w.regs, ev := w.ev, parity := w.parity }
    let freed (w : State) (b : Nat) : Prop := w.bit (blk b) 0 = false ∨ ⟨x, u.releaseItem c b⟩ ∈ (w.chan c).mgr.items
    let taken (w : State) (b width : Nat) : Prop :=
      w.bit (blk b) 0 = true ∧ bmWidth (w.reg (blk b)) = width ∧ bmTable (w.reg (blk b)) = t
    (Turn s c x e 0x01 → Passes u c (u.tableCreateChecks c e) → HoldsAll u c x (u.createBlocks c e) →
      ∃ w, exec (.tableCreate c x) s = .next w ∧ done w 0 (tblR c t :: (u.createBlocks c e).map blk) ∧
        w.bit (tblR c t) 0 = true ∧ w.field (tblR c t) 1 2 = e.par 1 1 % 4 ∧ w.field (tblR c t) 3 4 = e.par 2 1 % 16 ∧
        (u.createBlocks c e).length = e.par 4 2 ∧ (∀ b ∈ u.createBlocks c e, taken w b (e.par 1 1 % 4)) ∧
        w.tableOf c t = ⟨e.par 1 1 % 4, (e.par 1 1).testBit 2, e.par 2 1 % 16, BitVec.ofNat 64 (e.par 8 8),
          sortKeys (u.createBlocks c e)⟩ ∧
        (w.chan c).mgr.items = (s.chan c).mgr.items) ∧
    (Turn s c x e 0x02 → Passes u c (u.tableDestroyChecks c e) → HoldsAll u c x r.blocks →
      swf (fun _ => TableRec.none_) (s.chan c).mgr.tables = true →
      ∃ w, exec (.tableDestroy c x) s = .next w ∧ done w 0 (tblR c t :: r.blocks.map blk) ∧
        w.bit (tblR c t) 0 = false ∧ (w.chan c).mgr.table? t = none ∧ ∀ b ∈ r.blocks, freed w b) ∧
    (Turn s c x e 0x03 → Passes u c (u.tableResizeChecks c e) → r.mask ≠ 0 →
      (r.blocks.length ≤ e.par 2 2 → HoldsAll u c x (u.growBlocks c e) →
        ∃ w, exec (.tableResize c x) s = .next w ∧ done w 0 ((u.growBlocks c e).map blk) ∧
          (∀ b ∈ u.growBlocks c e, taken w b r.width) ∧
          w.tableOf c t = { r with blocks := sortKeys (r.blocks ++ u.growBlocks c e) }) ∧
      (e.par 2 2 < r.blocks.length →
        let less := (u.emptyBlocks c e).take (r.blocks.length - e.par 2 2)
        HoldsAll u c x less →
        ∃ w, exec (.tableResize c x) s = .next w ∧ done w 0 (less.map blk) ∧ (∀ b ∈ less, freed w b) ∧
          w.tableOf c t = { r with blocks := r.blocks.filter (fun b => !less.contains b) })) ∧
    (Turn s c x e 0x42 → Passes u c (u.defragChecks c e) → e.phase = 0 → e.nums = [] → r.mask ≠ 0 →
      (nextDefrag (u.planned c) r = .done →
        ∃ w, exec (.defrag c x) s = .next w ∧ Ended w c x e stOK ∧ OnlyMgr s w c) ∧
      (∀ b, e.par 2 2 = 1 → nextDefrag (u.planned c) r = .release b → u.holds c x b = true →
        ∃ w, exec (.defrag c x) s = .next w ∧ done w 1 [blk b] ∧ freed w b ∧
          w.tableOf c t = { r with blocks := r.blocks.filter (fun q => q != b) }) ∧
      (∀ k k', nextDefrag (u.planned c) r = .move k k' → (u.planned c).entBad r.width k = false → s.writing c x = false →
        ¬ HoldsAll u c x [k / 4096, k' / 4096] →
        ∃ w, exec (.defrag c x) s = .next w ∧ Asks w c x [k / 4096, k' / 4096] ∧ Waits w c x 1 [0] ∧ OnlyMgr s w c))
/-- EPOCH_PREPARE, EPOCH_COMMIT, EPOCH_ABORT, EPOCH_RETIRE and EPOCH_IMAGE_LOAD (R284 to R288, R203, R212, R213, R253). -/
def Obligations.EpochCommands : Prop :=
  ∀ (c : Ch) (x : Fin 8) (s : State) (e : Exec), s.Inv → ArrayQueue s c →
    let u := s.turn c
    let ep := (s.chan c).ep
    let cur := (s.chan c).curSlot
    let oth := (s.chan c).othSlot
    let num := chR c (0x5004 + 4 * oth)
    let a := u.planned c
    let only (w : State) (ks : List Nat) : Prop :=
      MemSame s w ∧ RegsSame s w ks ∧ (∀ d, d ≠ c → w.chan d = s.chan d) ∧
      w = { s with ch := w.ch, egr := w.egr, boot := w.boot, regs := w.regs, ev := w.ev, parity := w.parity }
    (Turn s c x e 0x20 → Passes u c (u.epochPrepareChecks c e) →
      ∃ w, exec (.epochPrepare c x) s = .next w ∧ Ended w c x e stOK ∧ w.field num 0 16 = e.par 0 2 ∧
        (w.chan c).ep = { ep.setSlot oth .staged with stagedWork := [] } ∧ only w [num]) ∧
    (Turn s c x e 0x21 → e.phase = 0 → Passes u c (u.epochCommitChecks c e) →
      let slack (w : State) : Prop :=
        w.field (chR c 0x5000) 0 16 = if e.par 2 2 = 0xFFFF then s.field (chR c 0x5000) 0 16 else e.par 2 2
      (e.par 0 1 % 2 = 0 →
        ∃ w, exec (.epochCommit c x) s = .next w ∧ Waits w c x 1 [cur] ∧ slack w ∧
          (w.chan c).ep = { ep with commitAt := some (s.wrapAfter c 4), lateNow := false } ∧ only w [chR c 0x5000]) ∧
      (e.par 0 1 % 2 = 1 →
        let ok := s.time.valid && decide (s.timeNs ≤ e.par 4 6 * 1000000000 + e.par 10 4 + 1000000000)
        ∃ w, exec (.epochCommit c x) s = .next w ∧ Ended w c x e (if ok then stOK else stEpoch) ∧ slack w ∧
          (w.chan c).ep.armed = ok ∧ w.schedNs c = e.par 4 6 * 1000000000 + e.par 10 4 ∧
          (w.chan c).ep = { ep with
            armed := ok, lateNow := (w.chan c).ep.lateNow, armTick := if ok then s.time.tickAt else ep.armTick } ∧
          only w ([0x5000, 0x5014, 0x5018, 0x501C, 0xC104].map (chR c)))) ∧
    (Turn s c x e 0x21 → e.phase = 1 →
      (ep.pending = true ∨ cur = e.nums.getD 0 0 → exec (.epochCommit c x) s = .next u) ∧
      (ep.pending = false → cur ≠ e.nums.getD 0 0 →
        ∃ w, exec (.epochCommit c x) s = .next w ∧
          Ended w c x e stOK (s.field (chR c 0x5024) 0 32 * 2 ^ 32 + s.field (chR c 0x5028) 0 30) ∧
          (w.chan c).ep = ep ∧ only w [])) ∧
    (Turn s c x e 0x22 → e.phase = 0 → Passes u c (u.epochAbortChecks c e) → s.schedDue c = true →
      ∃ w, exec (.epochAbort c x) s = .next w ∧ Ended w c x e stEpoch ∧ (w.chan c).ep = ep ∧ only w []) ∧
    (Turn s c x e 0x22 → e.phase = 0 → Passes u c (u.epochAbortChecks c e) → s.schedDue c = false →
      let n := e.nums.getD 0 0
      (ep.stagedWork = [] → s.writing c x = false →
        ∃ w, exec (.epochAbort c x) s = .next w ∧ Ended w c x e stOK n ∧ (w.chan c).ep.slot oth = .free ∧
          (w.chan c).ep.slot cur = ep.slot cur ∧ (w.chan c).ep.armed = false ∧ (w.chan c).ep.stagedWork = [] ∧
          w.reg (chR c 0x5118) = satAdd (s.reg (chR c 0x5118)) 1 ∧ only w [chR c 0x5118]) ∧
      (∀ k l, ep.stagedWork = k :: l → u.holds c x (k / 4096) = false → s.writing c x = false →
        ∃ w, exec (.epochAbort c x) s = .next w ∧ Asks w c x [k / 4096] ∧ Waits w c x 1 [n] ∧
          (w.chan c).ep.armed = false ∧ (w.chan c).ep.stagedWork = ep.stagedWork ∧ only w []) ∧
      (∀ k, ep.stagedWork = [k] → u.holds c x (k / 4096) = true → ecfValid (a.word k).ecf = true →
        a.live cur k ≠ a.live oth k →
        let m := s.reg (blkR c (k / 4096 / 33) (k / 4096 % 33))
        ∃ w, exec (.epochAbort c x) s = .next w ∧ Waits w c x 1 [n + 1] ∧ (w.chan c).ep.stagedWork = [] ∧ only w [] ∧
          Queued s w c x (if a.live cur k then [ecfItem (bmTable m) k (ecfSetE (a.word k).ecf oth true)]
            else a.dropItems (bmTable m) (bmWidth m) k))) ∧
    (Turn s c x e 0x22 → e.phase = 1 → (s.chan c).othState ≠ .staged ∨ ep.pending = true ∨ s.schedDue c = true →
      ∃ w, exec (.epochAbort c x) s = .next w ∧ Ended w c x e stEpoch ∧ OnlyMgr s w c) ∧
    (Turn s c x e 0x23 → e.phase = 0 → Passes u c (u.epochRetireChecks c e) →
      ((s.chan c).othState = .free → ∃ w, exec (.epochRetire c x) s = .next w ∧ Ended w c x e stOK ∧ OnlyMgr s w c) ∧
      ((s.chan c).othState = .slack → ∃ w, exec (.epochRetire c x) s = .next w ∧ Waits w c x 1 [] ∧
        (w.chan c).ep = { ep with endSlack := true } ∧ only w []) ∧
      ((s.chan c).othState = .retiring → ∃ w, exec (.epochRetire c x) s = .next w ∧ Waits w c x 1 [] ∧ OnlyMgr s w c)) ∧
    (Turn s c x e 0x23 → e.phase = 1 →
      ((s.chan c).othState = .free ∨ (s.chan c).othState = .staged →
        ∃ w, exec (.epochRetire c x) s = .next w ∧ Ended w c x e stOK ep.swept ∧ OnlyMgr s w c) ∧
      ((s.chan c).othState = .slack ∨ (s.chan c).othState = .retiring → exec (.epochRetire c x) s = .next u)) ∧
    (Turn s c x e 0x24 →
      let b := u.stagedFor c e 0
      let recs := imgRecs b
      let at_ := bytesAt b 16 6 * 1000000000 + bytesAt b 22 4
      (e.phase = 0 → Passes u c (u.epochImageChecks c e) → recs ≠ [] →
        HoldsAll u c x (recs.map (fun it => wordKey (itemBank it) (itemBlock it) (itemWord it) / 4096)) →
        ∃ w, exec (.epochImageLoad c x) s = .next w ∧ Waits w c x 1 [recs.length] ∧ w.field num 0 16 = bytesAt b 12 2 ∧
          (w.chan c).ep.slot oth = .staged ∧ (w.chan c).ep.slot cur = ep.slot cur ∧
          (w.chan c).mgr.items.length = (s.chan c).mgr.items.length + recs.length ∧ only w [num]) ∧
      (∀ o, e.phase = 1 → u.stagedBad c e 0 = some o →
        ∃ w, exec (.epochImageLoad c x) s = .next w ∧ Ended w c x e stFault o ∧ OnlyMgr s w c) ∧
      (e.phase = 1 → u.stagedBad c e 0 = none → e.nums = [recs.length] → s.writing c x = false → bytesAt b 16 10 = 0 →
        ∃ w, exec (.epochImageLoad c x) s = .next w ∧ Ended w c x e stOK recs.length ∧
          w.field (chR c 0x5000) 0 16 = (if bytesAt b 26 2 = 0xFFFF then s.field (chR c 0x5000) 0 16 else bytesAt b 26 2) ∧
          (w.chan c).ep = ep ∧ only w [chR c 0x5000]) ∧
      (e.phase = 1 → u.stagedBad c e 0 = none → e.nums = [recs.length] → s.writing c x = false → bytesAt b 16 10 ≠ 0 →
        bytesAt b 22 4 < 1000000000 →
        ep.armed = false → ep.pending = false → (s.chan c).othState = .staged →
        let ok := s.time.valid && decide (s.timeNs ≤ at_ + 1000000000)
        ∃ w, exec (.epochImageLoad c x) s = .next w ∧ Ended w c x e (if ok then stOK else stEpoch) recs.length ∧
          (w.chan c).ep.armed = ok ∧ w.schedNs c = at_ ∧ only w ([0x5000, 0x5014, 0x5018, 0x501C, 0xC104].map (chR c))))

/-- FLOW_TABLE_CREATE, FLOW_INSERT, FLOW_DELETE, FLOW_READ, FLOW_FLUSH and FLOW_RELOCATE (R289 to R292, R136, R145, R146). -/
def Obligations.FlowCommands : Prop :=
  ∀ (c : Ch) (x : Fin 8) (s : State) (e : Exec), s.Inv →
    let u := s.turn c
    let t := e.par 0 1
    let f := (s.chan c).flow
    let fu := u.flowDue c
    let g := (fu.chan c).flow
    let counts := [0x4020, 0x4024, 0x4028].map (chR c)
    let stepOf (w : State) (b1 b2 : Nat) (lines : Bool) : Prop := ∃ tk, (w.chan c).flow.tickets = f.tickets ++ [tk] ∧
      tk.id = f.nextTicket ∧ tk.owner = .mailbox x ∧ tk.table = t ∧ tk.b1 = b1 ∧ tk.b2 = b2 ∧ tk.extra = [] ∧ tk.lines = lines
    let only (w : State) (ks : List Nat) : Prop :=
      (w.chan c).arr = (s.chan c).arr ∧ (w.chan c).spad = (s.chan c).spad ∧ (∀ d, d ≠ c → w.chan d = s.chan d) ∧ RegsSame s w ks ∧
      w = { s with
        now := w.now, ch := w.ch, egr := w.egr, boot := w.boot, regs := w.regs, ev := w.ev, parity := w.parity }
    let place (w : State) (n : Nat) : Prop :=
      let key := e.par n (s.ftKeyBytes c t)
      Waits w c x 1 [f.nextTicket] ∧ (w.chan c).flow.nextTicket = f.nextTicket + 1 ∧
      (∃ tk, (w.chan c).flow.tickets = f.tickets ++ [tk] ∧ tk.id = f.nextTicket ∧ tk.owner = .mailbox x ∧ tk.table = t ∧
        tk.granted = none ∧ (tk.b1, tk.b2) = s.flowBuckets c t key) ∧ MemSame s w ∧ only w []
    (Turn s c x e 0x30 → Passes u c (u.flowCreateChecks c e) →
      (u.holds c x (flowKeyLock t) = false →
        ∃ w, exec (.flowTableCreate c x) s = .next w ∧ Asks w c x [flowKeyLock t] ∧ OnlyMgr s w c) ∧
      (u.holds c x (flowKeyLock t) = true →
        let r := e.newFlowRange
        ∃ w, exec (.flowTableCreate c x) s = .next w ∧ Ended w c x e stOK ∧ w.bit (ftR c t) 0 = true ∧ w.ftRange c t = r ∧
          w.field (ftR c t) 0 9 = e.newFlowCtrl + 1 ∧ w.field (ftR c t + 8) 0 28 = 0 ∧
          (∀ k, k < 8 → w.field (chR c (0x4200 + 0x20 * t + 4 * k)) 0 24 = e.par (8 + 4 * k) 4) ∧
          (∀ i, r.1 ≤ i → i < r.2 → (w.chan c).flowSlot i = ⟨0, 0⟩) ∧
          (∀ i, i < r.1 ∨ r.2 ≤ i → (w.chan c).hbmSlot i = (s.chan c).hbmSlot i ∧ (w.chan c).flowSlot i = (s.chan c).flowSlot i) ∧
          (w.chan c).flow.pen = f.pen.filter (fun p => p.2.table != t) ∧
          only w ([chR c 0xC104, ftR c t, ftR c t + 4, ftR c t + 8] ++ (List.range 8).map (fun k => chR c (0x4200 + 0x20 * t + 4 * k))))) ∧
    (Turn s c x e 0x31 → e.phase ≠ 1 → Passes u c (u.flowInsertChecks c e) →
      ∃ w, exec (.flowInsert c x) s = .next w ∧ place w 12) ∧
    (Turn s c x e 0x32 → e.phase ≠ 1 → Passes u c (u.flowDeleteChecks c e) →
      ∃ w, exec (.flowDelete c x) s = .next w ∧ place w 4) ∧
    (Turn s c x e 0x33 → e.phase ≠ 1 → Passes u c (u.flowReadChecks c e) →
      ∃ w, exec (.flowRead c x) s = .next w ∧ place w 4) ∧
    (∀ i : Instr, e.phase = 1 → (i = .flowInsert c x ∧ Turn s c x e 0x31) ∨ (i = .flowDelete c x ∧ Turn s c x e 0x32) ∨
      (i = .flowRead c x ∧ Turn s c x e 0x33) →
      (∀ tk, g.tickets.find? (fun t => t.id == e.nums.getD 0 0) = some tk → fu.ticketReady c tk = false) → exec i s = .next fu) ∧
    (∀ tk, e.phase = 1 → g.tickets.find? (fun t => t.id == e.nums.getD 0 0) = some tk → fu.ticketReady c tk = true →
      tk.table < 16 → (f.lines.map (·.slot)).Nodup → swf (fun _ => penNone) f.pen = true →
      let q := s.flowKey c tk.table tk.key.toNat tk.b1 tk.b2
      let v := fu.readPlaces c q
      let y := v.chan c
      let found := y.find q
      let flows := chR c (0x4108 + 16 * tk.table)
      (∀ l i, found = .at_ (.slot l i) → q.double = true → i % 2 = 0) →
      let ends (w : State) (st : Nat) (res : List Byte) (create : Bool) : Prop :=
        w.now = max s.now (fu.ticketTime c tk create) ∧ Ended w c x e st 0 res ∧
        (w.chan c).flow.tickets = dropFirst (fun t => t.id == tk.id) g.tickets ∧ MemSame fu w ∧
        only w (flows :: counts)
      (Turn s c x e 0x31 →
        (found = .eccErr → ∃ w, exec (.flowInsert c x) s = .next w ∧ ends w stFault [] false) ∧
        (∀ p, found = .at_ p →
          (e.par 1 1 % 2 = 0 → ∃ w, exec (.flowInsert c x) s = .next w ∧ ends w stExists (toBytes 1 p.loc) false ∧
            w.field flows 0 28 = s.field flows 0 28) ∧
          (e.par 1 1 % 2 = 1 → ∃ w, exec (.flowInsert c x) s = .next w ∧ ends w stOK (toBytes 1 p.loc) false ∧
            ((w.chan c).at p).data = mkFlow (frKey (y.at p).data) (frPkt (y.at p).data) (frBytes (y.at p).data)
              (frSeen (y.at p).data) (e.par 2 1) (e.par 4 8))) ∧
        (found = .absent →
          (y.freePlace q = none → ∃ w, exec (.flowInsert c x) s = .next w ∧ ends w stNoSpace [] false) ∧
          (∀ p, y.freePlace q = some p → ∃ w, exec (.flowInsert c x) s = .next w ∧ ends w stOK (toBytes 1 p.loc) true ∧
            ((w.chan c).at p).data = mkFlow q.headKey 0 0 s.flowTick (e.par 2 1) (e.par 4 8) ∧
            w.field flows 0 28 = (s.field flows 0 28 + 1) % 2 ^ 28))) ∧
      (Turn s c x e 0x32 →
        (found = .eccErr → ∃ w, exec (.flowDelete c x) s = .next w ∧ ends w stFault [] false) ∧
        (found = .absent → ∃ w, exec (.flowDelete c x) s = .next w ∧ ends w stNotFound [] false) ∧
        (∀ p, found = .at_ p →
          (e.par 1 1 % 2 = 1 → s.host.isUp = true → 2048 ≤ g.exports.length → exec (.flowDelete c x) s = .next fu) ∧
          (e.par 1 1 % 2 = 0 ∨ s.host.isUp = false ∨ g.exports.length < 2048 →
            ∃ w, exec (.flowDelete c x) s = .next w ∧ ends w stOK [] false ∧
              sbOcc ((w.chan c).at p).sb = 0 ∧
              (w.chan c).flow.exports.length = g.exports.length + (if e.par 1 1 % 2 = 1 ∧ s.host.isUp = true then 1 else 0)))) ∧
      (Turn s c x e 0x33 →
        (found = .eccErr → ∃ w, exec (.flowRead c x) s = .next w ∧ ends w stFault [] false) ∧
        (found = .absent → ∃ w, exec (.flowRead c x) s = .next w ∧ ends w stNotFound [] false) ∧
        (∀ p, found = .at_ p → ∃ w, exec (.flowRead c x) s = .next w ∧
          ends w stOK (toBytes 64 (y.at p).data.toNat ++ (if q.double then toBytes 64 (y.at p.tailOf).data.toNat else [])
            ++ toBytes 1 (natBits (y.at p).sb.toNat 8 8) ++ toBytes 1 p.loc) false))) ∧
    (Turn s c x e 0x34 → e.phase ≠ 1 → Passes u c (u.flowFlushChecks c e) →
      let begins (w : State) (b b1 b2 : Nat) (lines : Bool) : Prop :=
        Waits w c x 1 [b, 0, f.nextTicket + 1] ∧ stepOf w b1 b2 lines ∧ MemSame s w ∧ only w []
      (u.holds c x (flowKeyLock t) = false →
        ∃ w, exec (.flowFlush c x) s = .next w ∧ Asks w c x [flowKeyLock t] ∧ OnlyMgr s w c) ∧
      (u.holds c x (flowKeyLock t) = true →
        (∀ i l, u.usedBuckets c t 0 = i :: l → ∃ w, exec (.flowFlush c x) s = .next w ∧
          begins w (u.bucketOf c t i) (u.bucketOf c t i) (u.bucketOf c t i) true) ∧
        (∀ en l, u.usedBuckets c t 0 = [] → (u.chan c).penOf t = en :: l → ∃ w, exec (.flowFlush c x) s = .next w ∧
          begins w (2 ^ 25 + en) ((u.chan c).penEntry en).b1 ((u.chan c).penEntry en).b2 false) ∧
        (u.usedBuckets c t 0 = [] → (u.chan c).penOf t = [] → ∃ w, exec (.flowFlush c x) s = .next w ∧ Ended w c x e stOK ∧
          w.bit (ftR c t) 0 = (s.bit (ftR c t) 0 && decide (e.par 1 1 % 4 ≠ 2)) ∧ MemSame s w ∧ only w [ftR c t]))) ∧
    (∀ tk, Turn s c x e 0x34 → e.phase = 1 → e.nums.getD 2 0 = tk.id + 1 → g.tickets.find? (fun k => k.id == tk.id) = some tk →
      tk.table = t → t < 16 → (f.lines.map (·.slot)).Nodup → swf (fun _ => penNone) f.pen = true →
      let b := e.nums.getD 0 0
      let n := e.nums.getD 1 0
      let i := fu.bucketSlot c t b
      let exp := (e.par 1 1).testBit 2
      let pick (y : Chan) (rs : List (FPlace × Bool)) : List (FPlace × Bool) := y.flushPick (e.par 1 1 % 4) (e.par 2 1) (e.par 3 1) rs
      let fits (y : Chan) (l : List (FPlace × Bool)) : Prop := exp = false ∨ s.host.isUp = false ∨
        g.exports.length + (l.filter (fun r => !y.recordBad r)).length ≤ 2048
      let goes (w : State) (k : Nat) : Prop :=
        w.now = max s.now (fu.ticketTime c tk false) ∧ w.field (ftR c t + 8) 0 28 = s.field (ftR c t + 8) 0 28 - k ∧
        (∃ m, (w.chan c).flow.tickets = dropFirst (fun t => t.id == tk.id) g.tickets ++ m ∧
          ((∃ b' k', m = [k'] ∧ b < b' ∧ k'.id = g.nextTicket ∧ Waits w c x 1 [b', n + k, g.nextTicket + 1]) ∨
            (m = [] ∧ Ended w c x e stOK (n + k)))) ∧
        only w ([ftR c t, ftR c t + 8] ++ counts)
      (fu.ticketReady c tk = false → exec (.flowFlush c x) s = .next fu) ∧
      (fu.ticketReady c tk = true → b < 2 ^ 25 →
        let y := (fu.fixBucket c i).chan c
        let l := pick y (y.bucketRecords (s.ftDouble c t) i)
        (¬ fits y l → exec (.flowFlush c x) s = .next fu) ∧
        (fits y l → ∃ w, exec (.flowFlush c x) s = .next w ∧ goes w l.length ∧
          (∀ r ∈ l, ((w.chan c).at r.1).free = true ∧ (r.2 = true → ((w.chan c).at r.1.tailOf).free = true)) ∧
          (∀ j, (∀ r ∈ l, r.1 ≠ .slot 1 j ∧ (r.2 = true → r.1.tailOf ≠ .slot 1 j)) → (w.chan c).flowSlot j = y.flowSlot j) ∧
          (w.chan c).flow.pen = g.pen)) ∧
      (fu.ticketReady c tk = true → 2 ^ 25 ≤ b →
        let en := b - 2 ^ 25
        let p := (fu.chan c).penEntry en
        let pl := (fu.chan c).penPlace en
        let y := (fu.fixPenRecord c pl).chan c
        let gone : Bool := p.occ == 0 || p.occ == 3 || p.table != t
        let l := if gone then [] else pick y [(pl, p.occ == 2)]
        (gone = false → ¬ fits y l → exec (.flowFlush c x) s = .next fu) ∧
        (gone = true ∨ fits y l → ∃ w, exec (.flowFlush c x) s = .next w ∧ goes w l.length ∧
          (l ≠ [] → (w.chan c).penEntry en = penNone) ∧ ∀ j, (w.chan c).flowSlot j = (fu.chan c).flowSlot j))) ∧
    (Turn s c x e 0x35 → e.phase ≠ 1 → Passes u c (u.flowRelocateChecks c e) →
      (u.holds c x (flowKeyLock t) = false →
        ∃ w, exec (.flowRelocate c x) s = .next w ∧ Asks w c x [flowKeyLock t] ∧ OnlyMgr s w c) ∧
      (u.holds c x (flowKeyLock t) = true →
        ((u.chan c).penOf t = [] → ∃ w, exec (.flowRelocate c x) s = .next w ∧ Ended w c x e stOK ∧ OnlyMgr s w c) ∧
        (∀ en rest, (u.chan c).penOf t = en :: rest →
          let p := (u.chan c).penEntry en
          let double := p.occ == 2
          let v := u.fixPenRecord c ((u.chan c).penPlace en)
          let z := State.chainReads c t double (e.par 1 1) p.b2 (State.chainReads c t double (e.par 1 1) p.b1 v)
          (v.chan c).recordBad ((u.chan c).penPlace en, double) = false →
          ∀ loc i ms, z.bestChain c t double p.b1 p.b2 (e.par 1 1) = some (loc, i, ms) →
            ∃ w, exec (.flowRelocate c x) s = .next w ∧ Waits w c x 1 ([en, 0, f.nextTicket + 1, i] ++ flatMoves ms) ∧
              (match ms with
                | [] => stepOf w p.b1 p.b2 true
                | m :: _ => stepOf w (u.bucketOf c t m.src) (u.bucketOf c t m.dst) true) ∧
              (∀ j, (w.chan c).flowSlot j = (z.chan c).flowSlot j) ∧ only w counts))) ∧
    (∀ tk en moved i ms, Turn s c x e 0x35 → e.phase = 1 → e.nums = [en, moved, tk.id + 1, i] ++ flatMoves ms →
      g.tickets.find? (fun k => k.id == tk.id) = some tk → (f.lines.map (·.slot)).Nodup → swf (fun _ => penNone) f.pen = true →
      let p := (fu.chan c).penEntry en
      let double := p.occ == 2
      let v := tk.buckets.foldl (fun s b => s.fixBucket c (s.bucketSlot c t b)) fu
      let y := v.chan c
      (fu.ticketReady c tk = false → exec (.flowRelocate c x) s = .next fu) ∧
      (fu.ticketReady c tk = true → p.occ ≠ 0 → p.occ ≠ 3 → p.table = t →
        (∀ m l, ms = m :: l → v.moveHolds c t double m = true →
          ∃ w, exec (.flowRelocate c x) s = .next w ∧ w.now = max s.now (fu.ticketTime c tk false) ∧
            (w.chan c).flowSlot m.dst = y.flowSlot m.src ∧ ((w.chan c).flowSlot m.src).free = true ∧
            (double = true → (w.chan c).flowSlot (m.dst + 1) = y.flowSlot (m.src + 1) ∧ ((w.chan c).flowSlot (m.src + 1)).free = true) ∧
            (∀ j, j ≠ m.src → j ≠ m.dst → (double = true → j ≠ m.src + 1 ∧ j ≠ m.dst + 1) → (w.chan c).flowSlot j = y.flowSlot j) ∧
            Waits w c x 1 ([en, moved, g.nextTicket + 1, i] ++ flatMoves l) ∧ (w.chan c).flow.pen = g.pen ∧ only w counts) ∧
        (ms = [] → (y.flowSlot i).free = true → (double = true → (y.flowSlot (i + 1)).free = true) → tk.b1 = p.b1 → tk.b2 = p.b2 →
          (⟨p.data, p.sb⟩ : HbmSlot).fixed.2 = 0 →
          let tail := (fu.chan c).at ((fu.chan c).penPlace en).tailOf
          (double = true → tail.fixed.2 = 0) →
          ∃ w d, exec (.flowRelocate c x) s = .next w ∧ max s.now (fu.ticketTime c tk false) = w.now ∧
            (w.chan c).flowSlot i = ⟨p.data, p.sb⟩ ∧ (double = true → (w.chan c).flowSlot (i + 1) = tail) ∧
            (w.chan c).penEntry en = penNone ∧
            (Ended w c x e stOK ((moved + 1) * 2 ^ 32 + d) ∨ ∃ l, Waits w c x 1 l ∧ l.getD 1 0 = moved + 1) ∧ only w counts)))

/-- BLOCK_MIGRATE, BLOCK_REPAIR, MIRROR_SET, PROFILE_WRITE and PROFILE_READ (R293, R294, R296 to R298, R111, R119). -/
def Obligations.PlacementAndProfiles : Prop :=
  ∀ (c : Ch) (x : Fin 8) (s : State) (e : Exec), s.Inv →
    let u := s.turn c
    let p := e.par 0 1
    let body := u.stagedBody c e
    let word (i : Nat) : Nat := 0x200000 + 0x400 * p + 4 * i
    let uses := (s.chan c).ctxs.any (fun k => k.usesBody && k.req.profile.val == p)
    let only (w : State) (ks : List Nat) : Prop :=
      MemSame s w ∧ RegsSame s w ks ∧ (∀ d, d ≠ c → w.chan d = s.chan d) ∧
      w = { s with ch := w.ch, egr := w.egr, boot := w.boot, regs := w.regs, ev := w.ev, parity := w.parity, late := w.late }
    let written (w : State) : Prop :=
      Ended w c x e stOK ∧ (∀ i fs, i < 96 → regFields (c.val + 1) true (word i) = some fs →
        w.reg (chI c (word i)) &&& clsMask .rwd fs = pw body i &&& clsMask .rwd fs) ∧
      w.bit (profR c p) 0 = (decide (e.par 1 1 % 2 = 1) && pbValid (w.profBody c p)) ∧
      only w ([profR c p, chR c 0xC104] ++ (List.range 96).map (fun i => chI c (word i)))
    (Turn s c x e 0x40 → e.phase ≠ 1 → Passes u c (u.migrateChecks c e) →
      ∃ w d, exec (.blockMigrate c x) s = .next w ∧ u.migrateTarget c e = some d ∧ Waits w c x 1 [] ∧ OnlyMgr s w c ∧
        (w.chan c).mgr.mig = some (Job.start (e.par 0 1 * 33 + e.par 1 1) d (some x))) ∧
    (Turn s c x e 0x40 → e.phase = 1 → exec (.blockMigrate c x) s = .next u) ∧
    (Turn s c x e 0x41 → e.phase ≠ 1 → Passes u c (u.repairChecks c e) →
      ∃ w, exec (.blockRepair c x) s = .next w ∧ Waits w c x 1 [] ∧ OnlyMgr s w c ∧
        (w.chan c).mgr.rep = some (Job.start (e.par 0 1 * 33 + e.par 1 1) (e.par 0 1 * 33 + 32) (some x))) ∧
    (Turn s c x e 0x41 → e.phase = 1 → exec (.blockRepair c x) s = .next u) ∧
    (Turn s c x e 0x43 → Passes u c (u.mirrorChecks c e) →
      let k := modR (0x2010 + 4 * c.val)
      ∃ w, exec (.mirrorSet c x) s = .next w ∧ Ended w c x e stOK ∧ w.field k 0 2 = p ∧
        w.bit k 2 = decide (e.par 1 1 % 2 = 1) ∧ only w [k, modR 0xA104]) ∧
    (Turn s c x e 0x50 → e.phase ≠ 1 → Passes u c (u.profileWriteChecks c e) →
      (uses = true → ∃ w, exec (.profileWrite c x) s = .next w ∧ Waits w c x 1 [] ∧ w.bit (profR c p) 0 = false ∧ only w [profR c p]) ∧
      (uses = false → ∃ w, exec (.profileWrite c x) s = .next w ∧ written w)) ∧
    (∀ o, Turn s c x e 0x50 → e.phase = 1 → u.stagedBad c e 4 = some o →
      ∃ w, exec (.profileWrite c x) s = .next w ∧ Ended w c x e stFault o ∧ OnlyMgr s w c) ∧
    (Turn s c x e 0x50 → e.phase = 1 → p < 64 → body.length = 96 → u.stagedBad c e 4 = none →
      (s.profActive c p = true → exec (.profileWrite c x) s = .next u) ∧
      (s.profActive c p = false → ∃ w, exec (.profileWrite c x) s = .next w ∧ written w)) ∧
    (Turn s c x e 0x51 → Passes u c (u.profileReadChecks c e) →
      ∃ w, exec (.profileRead c x) s = .next w ∧
        Ended w c x e stOK 0 (toBytes 4 (u.readReg (c.val + 1) false (0x2000 + 4 * p)).toNat) ∧
        w.ch = s.ch.set c { s.chan c with
          mgr := (w.chan c).mgr
          hbm := ((s.chan c).stagePutBytes e.hf (e.stOff 4) (padTo 448 (u.profileBytes c p))).hbm } ∧
        w = { s with ch := w.ch, egr := w.egr })

/-- TEST_MARCH, CAL_RUN, CHANNEL_DRAIN, CHANNEL_RESUME and STATS_READ (R299 to R302, R307). -/
def Obligations.TestAndChannelCommands : Prop :=
  ∀ (c : Ch) (x : Fin 8) (s : State) (e : Exec), s.Inv →
    let u := s.turn c
    let y := s.chan c
    let bank := e.par 0 1
    let only (w : State) (ks : List Nat) : Prop :=
      MemSame s w ∧ RegsSame s w ks ∧ (∀ d, d ≠ c → w.chan d = s.chan d) ∧
      w = { s with ch := w.ch, egr := w.egr, regs := w.regs, ev := w.ev, parity := w.parity, late := w.late }
    (Turn s c x e 0x60 → bank < 16 →
      let owner := s.spadOwner c bank
      let was := e.nums.getD 0 0
      (e.phase = 0 → Passes u c (u.marchChecks c e) →
        ∃ w, exec (.testMarch c x) s = .next w ∧ Waits w c x 1 [owner] ∧ w.field (spadR c bank) 0 2 = 3 ∧ only w [spadR c bank]) ∧
      (e.phase = 1 → owner ≠ 3 ∨ y.march.isSome = true → exec (.testMarch c x) s = .next u) ∧
      (e.phase = 1 → owner = 3 → y.march = none → e.par 1 1 / 2 % 4 ≠ 3 →
        ∃ w, exec (.testMarch c x) s = .next w ∧ Waits w c x 2 e.nums ∧
          (w.chan c).march = some ⟨bank, decide (e.par 1 1 % 2 = 1), e.par 1 1 / 2 % 4, s.now, 0⟩ ∧
          w.bit (chR c 0x9054) 0 = true ∧ w.bit (spadR c bank) 7 = true ∧
          only w [chR c 0x9050, chR c 0x9054, spadR c bank, chR c 0xC104]) ∧
      (e.phase = 2 → exec (.testMarch c x) s = .next u) ∧
      (e.phase = 4 → bank ≠ 0 → was < 4 →
        ∃ w, exec (.testMarch c x) s = .next w ∧ Waits w c x 3 e.nums ∧
          w.field (spadR c bank) 0 2 = was ∧ only w [spadR c bank]) ∧
      (e.phase = 3 → owner ≠ was → exec (.testMarch c x) s = .next u) ∧
      (e.phase = 3 → owner = was → ∃ w, exec (.testMarch c x) s = .next w ∧ OnlyMgr s w c ∧
        (e.nums.getD 1 0 = 0 → Ended w c x e stOK) ∧
        (e.nums.getD 1 0 ≠ 0 → Ended w c x e stFault ((e.nums.getD 1 0 - 1) * 8)))) ∧
    (Turn s c x e 0x61 →
      let named := u.calNamed c bank (e.par 1 1)
      let owed (l : List Nat) : List Nat := l.filter (fun b => named.contains b && u.hasSample c b)
      let bad := (named.filter (fun b => u.excl c (b / 33) (b % 33))).length
      let code := if bank ≠ 0xFF ∧ e.par 1 1 ≠ 0xFF then toBytes 1 (s.field (calR c bank (e.par 1 1)) 0 5) else []
      let asked (w : State) (l : List Nat) : Prop :=
        (∀ b ∈ l, (w.chan c).passQueued b = true ∧ ((s.chan c).passQueued b = false → w.bit (calR c (b / 33) (b % 33)) 21 = true)) ∧
        only w (l.map (fun b => calR c (b / 33) (b % 33)))
      (e.phase = 0 → Passes u c (u.calRunChecks c e) →
        (owed named = [] → ∃ w, exec (.calRun c x) s = .next w ∧ Ended w c x e (if bad = 0 then stOK else stFault) bad code ∧
          OnlyMgr s w c) ∧
        (owed named ≠ [] → ∃ w, exec (.calRun c x) s = .next w ∧ Waits w c x 1 (0 :: owed named) ∧ asked w (owed named))) ∧
      (e.phase = 1 → owed (e.nums.drop 1) = [] → ∃ w, exec (.calRun c x) s = .next w ∧
        Ended w c x e (if bad = 0 then stOK else stFault) (e.nums.headD 0 * 2 ^ 32 + bad) code ∧ OnlyMgr s w c) ∧
      (e.phase = 1 → owed (e.nums.drop 1) ≠ [] → ∃ w, exec (.calRun c x) s = .next w ∧ asked w (owed (e.nums.drop 1)) ∧
        (w.chan c).mgr = (u.chan c).mgr)) ∧
    (Turn s c x e 0x70 →
      (e.phase = 0 → Passes u c (u.drainChecks c e) → y.charges ≠ [] →
        ∃ w, exec (.channelDrain c x) s = .next w ∧ Waits w c x 1 [] ∧ w.bit (chCtrl c) 0 = false ∧ only w [chCtrl c]) ∧
      (e.phase = 0 → Passes u c (u.drainChecks c e) → y.charges = [] → e.par 0 1 % 2 = 0 →
        ∃ w, exec (.channelDrain c x) s = .next w ∧ Ended w c x e stOK ∧ w.bit (chCtrl c) 0 = false ∧ only w [chCtrl c]) ∧
      (e.phase = 0 → Passes u c (u.drainChecks c e) → y.charges = [] → e.par 0 1 % 2 = 1 → y.req = none →
        s.field (chCtrl c) 1 2 = 0 →
        (y.power = .on → y.causes = 0 → ∃ w, exec (.channelDrain c x) s = .next w ∧ Waits w c x 2 [] ∧
          w.bit (chCtrl c) 0 = false ∧ w.field (chCtrl c) 1 2 = 2 ∧ (w.chan c).req = some .idle ∧ only w [chCtrl c]) ∧
        (y.power = .idle → ∃ w, exec (.channelDrain c x) s = .next w ∧ Ended w c x e stOK ∧ w.bit (chCtrl c) 0 = false ∧
          only w [chCtrl c])) ∧
      (e.phase = 1 → y.charges ≠ [] → exec (.channelDrain c x) s = .next u) ∧
      (e.phase = 1 → y.charges = [] → e.par 0 1 % 2 = 0 →
        ∃ w, exec (.channelDrain c x) s = .next w ∧ Ended w c x e stOK ∧ OnlyMgr s w c) ∧
      (e.phase = 2 → y.power ≠ .idle → exec (.channelDrain c x) s = .next u) ∧
      (e.phase = 2 → y.power = .idle → ∃ w, exec (.channelDrain c x) s = .next w ∧ Ended w c x e stOK ∧ OnlyMgr s w c)) ∧
    (Turn s c x e 0x71 →
      (e.phase = 0 → Passes u c (u.resumeChecks c e) → y.power = .on →
        ∃ w, exec (.channelResume c x) s = .next w ∧ Ended w c x e stOK ∧ w.bit (chCtrl c) 0 = true ∧ only w [chCtrl c]) ∧
      (e.phase = 0 → Passes u c (u.resumeChecks c e) → y.power = .idle → y.req = none → s.field (chCtrl c) 1 2 = 0 →
        ∃ w, exec (.channelResume c x) s = .next w ∧ Waits w c x 1 [] ∧ (w.chan c).req = some .on ∧
          w.field (chCtrl c) 1 2 = 1 ∧ w.bit (chR c 0xD000) 0 = false ∧ only w [chCtrl c, chR c 0xD000]) ∧
      (e.phase = 1 → y.power = .on → y.ready = true →
        ∃ w, exec (.channelResume c x) s = .next w ∧ Ended w c x e stOK ∧ w.bit (chCtrl c) 0 = true ∧ only w [chCtrl c]) ∧
      (e.phase = 1 → y.power = .idle → y.req = some .on → exec (.channelResume c x) s = .next u) ∧
      (e.phase = 1 → y.power = .idle → y.req ≠ some .on → ∃ w, exec (.channelResume c x) s = .next w ∧ OnlyMgr s w c ∧
        Ended w c x e (if y.faulted then stFault else stBusy))) ∧
    (Turn s c x e 0x90 → Passes u c (u.statsChecks c e) →
      ∃ w, exec (.statsRead c x) s = .next w ∧ Ended w c x e stOK cntOffsets.length ∧
        (w.chan c).hbm = (y.stagePutBytes e.hf (e.stOff 4) (u.statsBytes c)).hbm ∧
        (w.chan c).arr = y.arr ∧ (w.chan c).spad = y.spad ∧ (∀ d, d ≠ c → w.chan d = s.chan d) ∧
        (e.par 0 1 % 2 = 0 → w.regs = s.regs) ∧
        (e.par 0 1 % 2 = 1 → ∀ k ∈ cntOffsets, w.reg (chR c k) = 0) ∧
        RegsSame s w (cntOffsets.map (chR c)) ∧ w = { s with ch := w.ch, egr := w.egr, regs := w.regs })

/-- MANAGER_UPDATE, IMAGE_SAVE and IMAGE_RESTORE (R253, R262, R303 to R306, R505, R506). -/
def Obligations.ImageCommands : Prop :=
  ∀ (c : Ch) (x : Fin 8) (s : State) (e : Exec), s.Inv →
    let u := s.turn c
    let m := (s.chan c).mgr
    (Turn s c x e 0x72 →
      (e.phase = 0 → Passes u c (u.updateChecks c e) →
        ∃ w, exec (.managerUpdate c x) s = .next w ∧ Waits w c x 1 [] ∧ OnlyMgr s w c ∧
          (w.chan c).mgr.upd = some ⟨e.mbx, e.hf, e.seq, (bytesAt e.req 1 1).testBit 1, (s.flash c).olActive, none⟩) ∧
      (e.phase = 1 → 1 < m.execs.length ∨ m.items ≠ [] → exec (.managerUpdate c x) s = .next u) ∧
      (e.phase = 1 → m.execs.length ≤ 1 → m.items = [] →
        (∀ o, (s.chan c).stageBytes e.hf (e.stOff 0) (e.stLen 0) = .bad o →
          ∃ w, exec (.managerUpdate c x) s = .next w ∧ Ended w c x e stFault o ∧ (w.chan c).mgr.upd = none ∧ OnlyMgr s w c) ∧
        (∀ b, (s.chan c).stageBytes e.hf (e.stOff 0) (e.stLen 0) = .bytes b →
          (imageGood false s.boot.revoked b = false →
            ∃ w, exec (.managerUpdate c x) s = .next w ∧ Ended w c x e stImage ∧ (w.chan c).mgr.upd = none ∧ OnlyMgr s w c) ∧
          (imageGood false s.boot.revoked b = true →
            ∃ w, exec (.managerUpdate c x) s = .next w ∧ Waits w c x 2 [] ∧ (w.flash c).image (!(s.flash c).olActive) = b ∧
              (w.flash c).image (s.flash c).olActive = (s.flash c).image (s.flash c).olActive ∧
              (w.flash c).olActive = (s.flash c).olActive ∧ (∀ d, d ≠ c → w.flash d = s.flash d) ∧
              w = { s with ch := s.ch.set c { s.chan c with mgr := (w.chan c).mgr }, boot := w.boot }))) ∧
      (e.phase = 2 → exec (.managerUpdate c x) s = .next u)) ∧
    (Turn s c x e 0x80 → Passes u c (u.imageSaveChecks c e) →
      let saved := u.saveImage c (e.par 0 1 % 2 == 1) ((e.par 0 1).testBit 1)
      (saved = none → ∃ w, exec (.imageSave c x) s = .next w ∧ Ended w c x e stNoSpace ∧ MemSame s w ∧ RegsSame s w [] ∧
        w = { s with ch := w.ch, egr := w.egr, regs := w.regs, ev := w.ev }) ∧
      (saved ≠ none → ∃ w img, exec (.imageSave c x) s = .next w ∧ Ended w c x e stOK ((s.flash c).gen + 1) ∧
        (w.flash c).gen = (s.flash c).gen + 1 ∧ (w.flash c).images.getLast? = some img ∧ tiGood img = true ∧
        bytesAt img 20 1 = c.val ∧ bytesAt img 16 4 = ((s.flash c).gen + 1) % 2 ^ 32 ∧
        (∀ i ∈ (w.flash c).images, i = img ∨ i ∈ (s.flash c).images) ∧ (w.flash c).truncated = false ∧
        (∀ d, d ≠ c → w.flash d = s.flash d) ∧ MemSame s w ∧ w.reg (modR 0x8114) = satAdd (s.reg (modR 0x8114)) 1 ∧
        RegsSame s w [modR 0x8114] ∧ w = { s with ch := w.ch, egr := w.egr, regs := w.regs, ev := w.ev, boot := w.boot })) ∧
    (Turn s c x e 0x81 →
      let from_ := e.imageFrom c
      let f := s.flash from_
      let img := u.imageOf c e
      let last := if e.par 0 1 = 2 then 0 else if e.phase = 0 then f.head else e.nums.getD 2 0
      let readable : Prop := e.par 0 1 = 2 → u.stagedBad c e 8 = none
      let rep := if e.par 0 1 = 2 then (([], false) : List JRec × Bool) else f.replay last f.recs.length (bytesAt img 8 8)
      let steps := restoreSteps img rep.1
      let carried := [steps.length, tiGen img, last]
      (e.phase = 0 → e.nums = [] → Passes u c (u.imageRestoreChecks c e) → s.writing c x = false →
        (∀ it l, steps = .item it :: l → itemType it < 16 →
          u.holds c x (wordKey (itemBank it) (itemBlock it) (itemWord it) / 4096) = false →
          ∃ w, exec (.imageRestore c x) s = .next w ∧ Asks w c x [wordKey (itemBank it) (itemBlock it) (itemWord it) / 4096] ∧
            Waits w c x 1 [0, tiGen img, last] ∧ (w.flash c).restoreDone = false ∧ MemSame s w ∧
            w = { s with ch := w.ch, boot := w.boot }) ∧
        (steps = [.bulk] → tiFlows img = false → tiExt img = false →
          ∃ w, exec (.imageRestore c x) s = .next w ∧ Waits w c x 3 carried ∧ (w.flash c).restoreDone = false ∧ MemSame s w ∧
            w = { s with ch := w.ch, boot := w.boot })) ∧
      (∀ o, e.phase ≠ 0 → e.par 0 1 = 2 → u.stagedBad c e 8 = some o →
        ∃ w, exec (.imageRestore c x) s = .next w ∧ Ended w c x e stFault o ∧ OnlyMgr s w c) ∧
      (∀ src dst l, e.phase = 1 → readable → steps.drop (e.nums.headD 0) = .move src dst :: l → s.writing c x = false →
        ¬ HoldsAll u c x [src, dst] →
        ∃ w, exec (.imageRestore c x) s = .next w ∧ Asks w c x [src, dst] ∧
          Waits w c x 1 [e.nums.headD 0, tiGen img, last] ∧ OnlyMgr s w c) ∧
      (∀ src dst it l, e.phase = 1 → readable → steps.drop (e.nums.headD 0) = .move src dst :: .item it :: l → 16 ≤ itemType it →
        HoldsAll u c x [src, dst] → s.writing c x = false → ArrayQueue s c →
        let its := (s.chan c).arr.moveItems (bmTable (s.reg (blkR c (src / 33) (src % 33)))) src dst
        its ≠ [] →
        ∃ w, exec (.imageRestore c x) s = .next w ∧ Waits w c x 1 [e.nums.headD 0 + 1, tiGen img, last] ∧ MemSame s w ∧
          (w.chan c).mgr.items = m.items ++ its.map (fun i => ⟨x, i⟩) ∧ OnlyMgr s w c) ∧
      (e.phase = 2 → readable → s.writing c x = true → ∃ w, exec (.imageRestore c x) s = .next w ∧ Waits w c x 2 carried ∧ OnlyMgr s w c) ∧
      (e.phase = 2 → readable → s.writing c x = false → ∃ w, exec (.imageRestore c x) s = .next w ∧ Waits w c x 3 carried ∧
        (∀ t, ((w.chan c).mgr.table? t).isSome = ((s.chan c).mgr.table? t).isSome) ∧ MemSame s w ∧
        w = { s with ch := w.ch }) ∧
      (e.phase = 3 → readable → (s.chan c).othState = .retiring → exec (.imageRestore c x) s = .next u) ∧
      (e.phase = 3 → (s.chan c).othState ≠ .retiring → e.par 0 1 < 2 →
        ∃ w, exec (.imageRestore c x) s = .next w ∧ Ended w c x e stOK (tiGen img) ∧ (w.flash c).restoreDone = true ∧
          w.reg (modR 0x8104) = satAdd (s.reg (modR 0x8104)) rep.1.length ∧
          w.reg (modR 0x8108) = (if rep.2 then satAdd (s.reg (modR 0x8108)) 1 else s.reg (modR 0x8108)) ∧
          MemSame s w ∧ RegsSame s w [modR 0x8104, modR 0x8108] ∧
          w = { s with ch := w.ch, egr := w.egr, regs := w.regs, ev := w.ev, boot := w.boot }))
/-! ## The calendar, maintenance and tide periods -/

/-- WRITE_SLOT, SCRUB_SLOT, SCRUB_REPAIR_START, CAL_SLOT and MIG_SLOT (R318 to R330, R340 to R347, R354 to R356). -/
def Obligations.SlotsOfTheCalendar : Prop :=
  (∀ (c : Ch) (s : State) (n : Nat), s.Inv → s.takeSlot c 1 = some n → (s.chan c).mgr.freeing = [] →
    let x := s.chan c
    let frame (t : State) : Prop :=
      t.now = max s.now (s.cycleTime c n) ∧ (t.chan c).lastSlot = some n ∧ (t.chan c).mgr.items = [] ∧ (t.chan c).direct = [] ∧
      (t.chan c).hbm = x.hbm ∧ (t.chan c).spad = x.spad ∧ (∀ d, d ≠ c → t.chan d = s.chan d) ∧
      RegsSame s t ([0x1008, 0x6910, 0x6914, 0x6918, 0x8114].map (chR c)) ∧
      t = { s with now := t.now, ch := t.ch, egr := t.egr, regs := t.regs, ev := t.ev }
    let stored (t : State) (it : BitVec 256) (half : Nat) : Prop :=
      let k := wordKey (itemBank it) (itemBlock it) (itemWord it)
      let w := wordOfImage (itemPayload it)
      (itemType it = 1 → (t.chan c).arr.word k = mkWord w.data w.mask w.ecf0) ∧
      (itemType it = 6 → (t.chan c).arr.word k = { x.arr.word k with
        ecf0 := BitVec.ofNat 24 (bytesAt (itemPayload it) 0 3)
        ecf1 := BitVec.ofNat 24 (bytesAt (itemPayload it) 0 3)
        ecf2 := BitVec.ofNat 24 (bytesAt (itemPayload it) 0 3) }) ∧
      (itemType it = 3 → ∃ v, (t.chan c).arr.adPair (pairKey (itemBank it) (itemBlock it) (itemWord it / 2)) = mkAd v ∧
        let old := x.arr.pairAd (pairKey (itemBank it) (itemBlock it) (itemWord it / 2))
        let ad : BitVec 64 := BitVec.ofNat 64 (bytesAt (itemPayload it) 0 8)
        v.extractLsb' 0 32 = (if half = 2 then old else ad).extractLsb' 0 32 ∧
        v.extractLsb' 32 32 = (if half = 1 then old else ad).extractLsb' 32 32) ∧
      (itemType it = 2 → (t.chan c).arr.unit3 (k - k % 2) = unit3 (unitsOfImage (itemPayload it)).1 ∧
        (t.chan c).arr.unit3 (k - k % 2 + 1) = unit3 (unitsOfImage (itemPayload it)).2)
    (x.mgr.items = [] → x.direct = [] → (∀ y e, x.mgr.exec? y = some e → e.resp = none) → exec (.writeSlot c) s = .next (s.useSlot c n)) ∧
    (∀ m, x.mgr.items = [m] → x.direct = [] → itemType m.item < 16 → itemInArray m.item = true →
      ∃ t, exec (.writeSlot c) s = .next t ∧ frame t ∧ stored t m.item (itemField m.item 5 1) ∧ t.reg (chR c 0x6918) = satAdd (s.reg (chR c 0x6918)) 1 ∧
        (s.bit (modR 0x8010) 0 = false → ∀ y e, y < 8 → x.mgr.exec? y = some e → e.resp.isSome = true →
          (t.chan c).mgr.exec? y = none)) ∧
    (∀ d, x.mgr.items = [] → x.direct = [d] →
      (s.directOk c d = true → ∃ t, exec (.writeSlot c) s = .next t ∧ frame t ∧ stored t d.item 0 ∧
        t.reg (chR c 0x6910) = satAdd (s.reg (chR c 0x6910)) 1 ∧ (t.chan c).dwrOut = x.dwrOut + 1 ∧
        (t.chan c).dwrCr = (x.dwrCr + 1) % 65536) ∧
      (s.directOk c d = false → ∃ t, exec (.writeSlot c) s = .next t ∧ frame t ∧ (t.chan c).arr = x.arr ∧
        t.reg (chR c 0x6914) = satAdd (s.reg (chR c 0x6914)) 1 ∧ (t.chan c).dwrOut = x.dwrOut + 1))) ∧
  (∀ (c : Ch) (s : State) (n : Nat), s.Inv → s.takeSlot c 2 = some n → (∀ b, b < 36 → ((s.chan c).scrubOf b).pos < 16896) →
    swf (fun _ => (⟨0, 0, 0, [], 0⟩ : BankScrub)) (s.chan c).maint.scrub = true →
    let x := s.chan c
    (s.bit (chR c 0x7000) 0 = false → exec (.scrubSlot c) s = .next (s.useSlot c n)) ∧
    (s.bit (chR c 0x7000) 0 = true →
      ∃ t, exec (.scrubSlot c) s = .next t ∧ t.now = max s.now (s.cycleTime c n) ∧ (t.chan c).lastSlot = some n ∧
        (∀ b, b < 36 →
          let p := x.scrubOf b
          let q := (t.chan c).scrubOf b
          q.start = p.start ∧
          (p.wb ≠ [] → q.wb = [] ∧ q.pos = p.pos ∧ q.read = p.read) ∧
          (p.wb = [] → x.maint.budget ≤ p.read → q.wb = [] ∧ q.pos = p.pos ∧ q.read = p.read) ∧
          (p.wb = [] → p.read < x.maint.budget → q.pos = (p.pos + 1) % 16896 ∧ q.read = p.read + 1)) ∧
        ((∀ b, b < 36 → (x.scrubOf b).wb = []) →
          (∀ k, (t.chan c).arr.word k = { x.arr.word k with poison := ((t.chan c).arr.word k).poison }) ∧
          (∀ k, (t.chan c).arr.adPair k = x.arr.adPair k) ∧ (∀ k, (t.chan c).arr.unit3 k = x.arr.unit3 k) ∧
          ∀ b, b < 36 → (x.scrubOf b).read < x.maint.budget →
            ((t.chan c).scrubOf b).wb = x.arr.groupWb (wordKey b ((x.scrubOf b).pos / 512) (8 * ((x.scrubOf b).pos % 512)))) ∧
        (t.chan c).hbm = x.hbm ∧ (t.chan c).spad = x.spad ∧ (∀ d, d ≠ c → t.chan d = s.chan d) ∧
        RegsSame s t ([0x7010, 0x7014, 0x7018, 0x701C, 0x7020, 0x7028, 0x7030].map (chR c)
          ++ (List.range 1188).map (fun i => scrubR c (i / 33) (i % 33))) ∧
        t = { s with now := t.now, ch := t.ch, regs := t.regs, ev := t.ev })) ∧
  (∀ (c : Ch) (s : State) (blk : Nat) (rest : List Nat), s.Inv →
    let m := (s.chan c).mgr
    m.repairs = blk :: rest → m.up = true → m.upd = none → m.rep = none →
    let spare := blk / 33 * 33 + 32
    ∃ t, exec (.scrubRepairStart c) s = .next t ∧ MemSame s t ∧ RegsSame s t [] ∧
      (t.chan c).mgr = { m with
        repairs := rest, served := s.now
        rep := if s.bit (blkR c (blk / 33) (blk % 33)) 0 && s.blkFree c spare then some (Job.start blk spare none) else none } ∧
      t = { s with regs := t.regs, ev := t.ev, ch := s.ch.set c { s.chan c with mgr := (t.chan c).mgr } }) ∧
  (∀ (c : Ch) (sense : List CalSense) (s : State) (n b : Nat), s.Inv → s.takeSlot c 3 = some n →
    let m := (s.chan c).maint
    let at_ := s.cycleTime c n
    let u := (s.useSlot c n).cullWork c b
    let y := u.chan c
    let culled := m.prio.map (fun p => calR c p.1 p.2) ++ m.cur.map (fun p => calR c (p.1 / 2) p.2.block)
    (m.busyBanks = [] → exec (.calSlot c sense) s = .next (s.useSlot c n)) ∧
    (m.busyBanks = [b] →
      (∀ block data, u.calWork c at_ b = .buoy block data →
        ∃ t, exec (.calSlot c sense) s = .next t ∧ t.now = max s.now at_ ∧
          sget (fun _ => (⟨0, 0, 0, 0⟩ : BuoyCell)) (t.chan c).arr.buoys (b * 33 + block) =
            ⟨0, 0, BitVec.ofNat 80 data, BitVec.allOnes 80⟩ ∧
          (t.chan c).arr.words = (s.chan c).arr.words ∧ (t.chan c).arr.ads = (s.chan c).arr.ads ∧
          (t.chan c).arr.units = (s.chan c).arr.units ∧ RegsSame s t culled ∧
          t = { s with now := t.now, ch := t.ch, regs := t.regs }) ∧
      (∀ p smp, u.calWork c at_ b = .replay p →
        (sget (fun _ => []) y.maint.samples (bmTable (s.reg (blkR c b p.block))))[p.idx %
          (sget (fun _ => []) y.maint.samples (bmTable (s.reg (blkR c b p.block)))).length]? = some smp →
        let sensed := (sense.find? (fun q => q.bank.val == b)).getD (u.senseStored c b p.block smp)
        let good := y.agrees smp b p.block sensed && (p.idx % 8 == 0 || p.good)
        let codes := if p.idx % 8 = 7 ∧ good = true then p.codes ||| BitVec.ofNat 32 (2 ^ (p.idx / 8)) else p.codes
        let k := calR c b p.block
        let w := calWindow codes
        let ok := decide (max (s.field (chR c 0x8000) 8 5) 1 ≤ w.2)
        (p.idx < 255 →
          ∃ t, exec (.calSlot c sense) s = .next t ∧ t.now = max s.now at_ ∧
            (t.chan c).maint.cur.find? (fun r => r.1 == 2 * b + b2n (!p.prio)) =
              some (2 * b + b2n (!p.prio), { p with idx := p.idx + 1, good := good, codes := codes }) ∧
            t.reg (chR c 0x8124) = satAdd (s.reg (chR c 0x8124)) 1 ∧ MemSame s t ∧ RegsSame s t (chR c 0x8124 :: culled) ∧
            t = { s with now := t.now, ch := t.ch, regs := t.regs }) ∧
        (255 ≤ p.idx → (s.chan c).mgr.mig = none → (s.chan c).mgr.rep = none → b < 36 → p.block < 33 →
          ∃ t, exec (.calSlot c sense) s = .next t ∧ t.now = max s.now (at_ + nsT 1) ∧
            (∀ r ∈ (t.chan c).maint.cur, r.1 ≠ 2 * b + b2n (!p.prio)) ∧ t.bit k 21 = false ∧
            (ok = true → t.field k 0 5 = w.1 + (w.2 - 1) / 2 ∧ t.field k 5 5 = w.1 ∧ t.field k 10 5 = w.1 + w.2 - 1 ∧ t.bit k 15 = true ∧
              t.field k 24 4 = 0 ∧ t.bit k 22 = false ∧ t.reg (chR c 0x8108) = satAdd (s.reg (chR c 0x8108)) 1) ∧
            (ok = false → t.field k 0 5 = s.field k 0 5 ∧ t.field k 24 4 = min (s.field k 24 4 + 1) 15 ∧
              t.reg (chR c 0x810C) = satAdd (s.reg (chR c 0x810C)) 1) ∧
            MemSame s t ∧ RegsSame s t (k :: [0x8124, 0x8108, 0x810C, 0x800C].map (chR c) ++ culled) ∧
            t = { s with now := t.now, ch := t.ch, regs := t.regs, ev := t.ev })))) ∧
  (∀ (c : Ch) (s : State) (n h : Nat) (ranks : List Nat) (j : Job), s.Inv → s.takeSlot c 4 = some n →
    let m := (s.chan c).mgr
    let a := (s.chan c).arr
    let k := blkR c (j.src / 33) (j.src % 33)
    let waits (h : Nat) : Bool := match m.job h with | some j => j.waits m.up | none => false
    (rotate m.jobRanks waits = none → exec (.migSlot c) s = .next (s.useSlot c n)) ∧
    (rotate m.jobRanks waits = some (h, ranks) → m.job h = some j → j.failed = false → j.src ≠ j.dst →
      (j.step = 3 → j.next < 511 → h = 9 ∨ a.groupBad j.src j.next = false →
        ∃ t, exec (.migSlot c) s = .next t ∧ t.now = max s.now (s.cycleTime c n) ∧
          (t.chan c).mgr.job h = some { j with
            lost := (a.groupLost (bmWidth (s.reg k)) j.src j.next).foldl (fun l k => insertNat k l) j.lost
            next := j.next + 1, dirty := j.dirty.filter (fun q => q != j.next) } ∧
          (∀ i, i < 8 → (t.chan c).arr.word (j.dst * 4096 + 8 * j.next + i) = (a.word (j.src * 4096 + 8 * j.next + i)).copied
            (a.entryLost (bmWidth (s.reg k)) (j.src * 4096 + 8 * j.next + i))) ∧
          (∀ i, i < 4 → (t.chan c).arr.adPair (j.dst * 2048 + 4 * j.next + i) = (a.adPair (j.src * 2048 + 4 * j.next + i)).copied) ∧
          (∀ q, q / 4096 ≠ j.dst → (t.chan c).arr.word q = a.word q ∧ (t.chan c).arr.unit3 q = a.unit3 q) ∧
          (∀ q, q / 2048 ≠ j.dst → (t.chan c).arr.adPair q = a.adPair q) ∧
          (t.chan c).hbm = (s.chan c).hbm ∧ (t.chan c).spad = (s.chan c).spad ∧ (∀ d, d ≠ c → t.chan d = s.chan d) ∧
          t.reg (chR c 0x691C) = satAdd (s.reg (chR c 0x691C)) 1 ∧ RegsSame s t [chR c 0x691C, chR c 0x8114] ∧
          t = { s with now := t.now, ch := t.ch, regs := t.regs, ev := t.ev }) ∧
      (∀ x e, j.step = 6 → j.dirty = [] → m.up = true → j.owner = some x → m.exec? x = some e → h = 8 → ArrayQueue s c →
        ∃ t, exec (.migSlot c) s = .next t ∧ t.bit k 0 = false ∧ (t.chan c).mgr.mig = none ∧ (t.chan c).mgr.keysOf 8 = [] ∧
          (t.chan c).mgr.freeing = m.freeing ++ [(j.src, false)] ∧ Ended t c x e stOK (s.indexOf c (j.dst * 4096)) ∧
          (∀ q, q / 4096 = j.src → ecfValid ((t.chan c).arr.word q).ecf = false) ∧
          (∀ q, q / 4096 ≠ j.src → (t.chan c).arr.word q = a.word q) ∧
          (t.chan c).hbm = (s.chan c).hbm ∧ (t.chan c).spad = (s.chan c).spad ∧ (∀ d, d ≠ c → t.chan d = s.chan d) ∧
          RegsSame s t [k, chR c 0x8114] ∧
          t = { s with now := t.now, ch := t.ch, egr := t.egr, boot := t.boot, regs := t.regs, ev := t.ev })))

/-- CAL_CTRL_SWAP, CAL_SWAP_TAKES_EFFECT, TIDE_PERIOD_BOUNDARY and MODULE_TIDE_PERIOD (R313, R315 to R317, R329, R331, R346, R458). -/
def Obligations.TidePeriods : Prop :=
  (∀ (c : Ch) (a : RegAcc) (s : State), s.Inv → Served s a (chRegion c) 0x6800 →
    ∃ t, exec (.calCtrlSwap c a) s = .next t ∧ Acked s t a (chRegion c) 0x21 [] ∧
      (s.swapOk c = true → t = { s with
        host := t.host, egr := t.egr,
        ch := s.ch.set c { s.chan c with maint := { (s.chan c).maint with swapAt := some (s.wrapAfter c 4) } } }) ∧
      (s.swapOk c = false → t.reg (chR c 0x6908) = satAdd (s.reg (chR c 0x6908)) 1 ∧ RegsSame s t [chR c 0x6908] ∧
        t = { s with host := t.host, egr := t.egr, regs := t.regs, ev := t.ev })) ∧
  (∀ (c : Ch) (s : State) (at_ : Nat), s.Inv → (s.chan c).maint.swapAt = some at_ →
    ∃ t, exec (.calSwapTakesEffect c) s = .next t ∧ t.now = max s.now at_ ∧
      (∀ k, k < 32 → t.reg (chR c (0x6000 + 4 * k)) = s.reg (chR c (0x6400 + 4 * k))) ∧
      t.reg (chR c 0x6904) = satAdd (s.reg (chR c 0x6904)) 1 ∧
      RegsSame s t (chR c 0x6904 :: (List.range 32).map (fun k => chR c (0x6000 + 4 * k))) ∧
      t = { s with
        now := t.now, regs := t.regs, ev := t.ev
        ch := s.ch.set c { s.chan c with maint := { (s.chan c).maint with swapAt := none } } }) ∧
  (∀ (c : Ch) (s : State), s.Inv →
    let x := s.chan c
    (x.power = .off ∨ x.power = .wake → exec (.tidePeriodBoundary c) s = .next s) ∧
    (x.power = .on ∨ x.power = .idle → swf (fun _ => (⟨0, 0, 0, [], 0⟩ : BankScrub)) x.maint.scrub = true →
      let start := x.tideStart + nsT (256 * x.maint.tideRevs)
      ∃ t, exec (.tidePeriodBoundary c) s = .next t ∧ t.now = max s.now start ∧ (t.chan c).tideStart = start ∧
        (t.chan c).flow.exports = [] ∧ (t.chan c).flow.ageDone = 0 ∧ (t.chan c).flow.penDone = 0 ∧
        t.reg (chR c 0x4430) = satAdd (s.reg (chR c 0x4430)) x.flow.exports.length ∧
        t.reg (chR c 0x6900) = satAdd (s.reg (chR c 0x6900)) 1 ∧
        (t.chan c).maint.tideRevs = max (s.field (chR c 0x6804) 0 16) 1024 ∧ (t.chan c).maint.budget = s.field (chR c 0x7004) 0 17 ∧
        (t.chan c).maint.cur = [] ∧
        (∀ b, b < 36 → ((t.chan c).scrubOf b).read = 0 ∧ ((t.chan c).scrubOf b).wb = [] ∧
          ((t.chan c).scrubOf b).pos = (if s.bit (chR c 0x7000) 0 then ((x.scrubOf b).start + x.maint.budget) % 16896
            else (x.scrubOf b).pos)) ∧
        (∀ i, i < 1188 → t.field (scrubR c (i / 33) (i % 33)) 16 8 = 0) ∧
        (∀ q ∈ (t.chan c).maint.prio, t.bit (calR c q.1 q.2) 21 = true) ∧
        MemSame s t ∧ (∀ d, d ≠ c → t.chan d = s.chan d) ∧
        t = { s with now := t.now, regs := t.regs, ev := t.ev, ch := t.ch, pwr := { s.pwr with railReq := t.pwr.railReq } })) ∧
  (∀ s : State,
    (s.boot.inReset = true → exec .moduleTidePeriod s = .next s) ∧
    (s.boot.inReset = false → ∃ t, exec .moduleTidePeriod s = .next t ∧ t.now = max s.now (s.tideAt + msT 4) ∧
      t.tideAt = s.tideAt + msT 4 ∧ t.ev = { s.ev with seen := t.ev.seen } ∧
      (∀ p ∈ t.ev.seen, p.1 < 256 → p.2.1 = 0) ∧ (∀ p, 256 ≤ p.1 → (p ∈ t.ev.seen ↔ p ∈ s.ev.seen)) ∧
      t = { s with now := t.now, tideAt := t.tideAt, ev := t.ev }))
/-! ## The Suade link -/

/-- FLIT_RECEIVED, CTRL_STATUS_FLIT, NAK_RECEIVED, CTRL_FLIT_SEND and ACK_TIMEOUT (R367, R369 to R375, R379). -/
def Obligations.LinkFlits : Prop :=
  (∀ (p : Port) (flit : BitVec 512) (fec : Fec) (s : State), s.Inv → (s.port p).state = .up →
    let l := s.port p
    let b := toBytes 64 flit.toNat
    let ty := natBits flit.toNat 509 3
    let seq := natBits flit.toNat 496 13
    let good : Prop := (crc16 (b.take 62)).toNat = flit.toNat % 65536 ∧ ty ≠ 5
    let line := max (31 * s.now) l.rxLine
    let at_ := (line + 30) / 31
    let brought : LinkPort := { l with rxLine := line + 1920 / max l.width 1 }
    let taken : LinkPort := { brought with
      rxExpect := (l.rxExpect + 1) % 8192, waiting := false, replayLeft := l.replayLeft - 1
      rcvd := l.rcvd.set ty (l.rcvd.getD ty 0 + 1) }
    let nakT := (at_ + nsT 70) / linkCycle * linkCycle + linkCycle
    let missed (left : Nat) : LinkPort := { brought with
      nakId := (l.nakId + 1) % 16, waiting := true, replayLeft := max l.replayLeft left, nakFrom := nakT, ctrlBy := min l.ctrlBy nakT }
    let credit : Prop := l.rcvd.getD ty 0 < grantOf p ty + l.freed ty
    let again := decide (0 < l.replayLeft)
    let r := parseStream (p == .host) ty 40 (l.rx.getD ty [] ++ (b.drop 2).take 60)
      (if l.rx.getD ty [] = [] then (again, at_) else (l.rxReplay.getD ty false, l.rxAt.getD ty 0)) (again, at_) []
    let ahead := (seq + 8192 - l.rxExpect) % 8192 + 1
    let counts (t : State) (ks : List Nat) : Prop :=
      ∀ k ∈ [0x1100, 0x1104, 0x1108, 0x110C, 0x1114, 0x1118], t.reg (modR k) = satAdd (s.reg (modR k))
        (if p = .host ∧ (k ∈ ks ∨ (k = 0x1114 ∧ fec = .corrected) ∨ (k = 0x1118 ∧ fec = .uncorrectable)) then 1 else 0)
    let frame (t : State) : Prop :=
      RegsSame s t ([0x1100, 0x1104, 0x1108, 0x110C, 0x1114, 0x1118].map modR) ∧
      t = { (s.setPort p (t.port p)) with now := at_, regs := t.regs, ev := t.ev }
    (good → ty < 5 → seq = l.rxExpect → credit → r.2.2.2 = false →
      ∃ t, exec (.flitReceived p flit fec .clean) s = .next t ∧ counts t [0x1100] ∧ frame t ∧
        t.port p = { taken with
          rx := l.rx.set ty r.2.1, rxReplay := l.rxReplay.set ty r.2.2.1.1, rxAt := l.rxAt.set ty r.2.2.1.2
          arrived := l.arrived ++ r.1 }) ∧
    (good → ty < 5 → seq = l.rxExpect → credit → r.2.2.2 = true → p = .host →
      ∃ t, exec (.flitReceived p flit fec .clean) s = .next t ∧ HostLost s t s.mayTrain ∧ t.now = at_ ∧
        t.host.arrived = l.arrived ++ r.1 ∧ t.reg (modR 0x1200) = satAdd (s.reg (modR 0x1200)) 1 ∧ Raised t 32 ∧
        RegsSame s t ([0x1100, 0x1114, 0x1118, 0x1200, 0x112C, 0x1130].map modR) ∧
        t = { s with now := at_, host := t.host, egr := t.egr, ch := t.ch, regs := t.regs, ev := t.ev }) ∧
    (good → ty < 5 → seq = l.rxExpect → ¬ credit → p = .host →
      ∃ t, exec (.flitReceived p flit fec .clean) s = .next t ∧ HostLost s t s.mayTrain ∧ t.now = at_ ∧ t.host.arrived = l.arrived ∧
        t.reg (modR 0x1124) = satAdd (s.reg (modR 0x1124)) 1 ∧ Raised t 32 ∧
        RegsSame s t ([0x1100, 0x1114, 0x1118, 0x1124, 0x112C, 0x1130].map modR) ∧
        t = { s with now := at_, host := t.host, egr := t.egr, ch := t.ch, regs := t.regs, ev := t.ev }) ∧
    (¬ good → ty ≠ 6 → ty ≠ 7 →
      ∃ t, exec (.flitReceived p flit fec .clean) s = .next t ∧ counts t (if l.waiting then [0x1104] else [0x1104, 0x110C]) ∧ frame t ∧
        t.port p = (if l.waiting then { brought with replayLeft := l.replayLeft + 1 } else missed 1)) ∧
    (¬ good → ty = 6 ∨ ty = 7 →
      ∃ t, exec (.flitReceived p flit fec .clean) s = .next t ∧ counts t [0x1104] ∧ frame t ∧ t.port p = brought) ∧
    (good → 5 < ty → ∃ t, exec (.flitReceived p flit fec .clean) s = .next t ∧ counts t [] ∧ frame t ∧ t.port p = brought) ∧
    (good → ty < 5 → seq ≠ l.rxExpect →
      ∃ t, exec (.flitReceived p flit fec .clean) s = .next t ∧ counts t (if l.waiting then [] else [0x1108, 0x110C]) ∧ frame t ∧
        t.port p = (if l.waiting then { brought with replayLeft := max l.replayLeft ahead } else missed ahead))) ∧
  (∀ (p : Port) (payload : BitVec 480) (s : State), s.Inv → (s.port p).state = .up → (s.port p).hostCr.length = 5 →
    let l := s.port p
    let ack := ctrlField payload 2 2 % 8192
    let moved (q : LinkPort) : Prop :=
      q.acked = ack ∧ q.rxExpect = l.rxExpect ∧ q.waiting = l.waiting ∧ q.nakId = l.nakId ∧ q.lanes = l.lanes ∧
      q.arrived = l.arrived ∧ q.rx = l.rx ∧ q.rcvd = l.rcvd ∧
      (∀ v, v < 5 → (p = .host ∨ v = 0) → q.hostCr.getD v 0 % 65536 = ctrlField payload (4 + 2 * v) 2 ∧
        l.hostCr.getD v 0 ≤ q.hostCr.getD v 0 ∧ q.hostCr.getD v 0 < l.hostCr.getD v 0 + 65536) ∧
      (∀ v, p ≠ .host → v ≠ 0 → q.hostCr.getD v 0 = l.hostCr.getD v 0) ∧
      (p = .host → q.txNext = l.txNext ∧ q.sent = l.sent ∧ q.txq = l.txq ∧ q.lastCtrl = l.lastCtrl ∧ q.ctrlBy = l.ctrlBy) ∧ ∃ k, q.txq = l.txq.drop (60 * k)
    let kept (old new : List TxFlit) : Prop :=
      (∀ a f rest, l.replayBuf = a ++ f :: rest → f.seq = ack → (∀ g ∈ a, g.seq ≠ ack) → old = rest) ∧
      ((∀ f ∈ l.replayBuf, f.seq ≠ ack) → old = l.replayBuf) ∧ old.length ≤ new.length ∧ (p = .host → new.length = old.length)
    let id := ctrlField payload 1 1 / 16
    let runs := if l.nakRuns ≠ 0 ∧ l.nakAck = ack then l.nakRuns + 1 else 1
    let cnt := match p with | .host => modR 0x1110 | _ => modR 0x6110
    (ctrlField payload 0 1 = 1 →
      ∃ q old, exec (.ctrlStatusFlit p payload) s = .next (s.setPort p q) ∧ q.state = .up ∧ q.nakRuns = 0 ∧ moved q ∧
        kept old q.replayBuf ∧ old <+: q.replayBuf ∧ q.lastNak = l.lastNak) ∧
    (ctrlField payload 0 1 = 2 →
      ∃ t old, exec (.nakReceived p payload) s = .next t ∧ moved (t.port p) ∧ kept old (t.port p).replayBuf ∧
        (l.lastNak = some id → old <+: (t.port p).replayBuf ∧ t.reg cnt = s.reg cnt) ∧
        (l.lastNak ≠ some id → t.reg cnt = satAdd (s.reg cnt) 1 ∧
          ∀ (i : Nat) (f : TxFlit), old[i]? = some f → ∃ g, (t.port p).replayBuf[i]? = some g ∧ g = replayFlit f s.now ∧
            g.seq = f.seq ∧ g.sentAt = s.now ∧ (f.results = [] → g.flit = f.flit)) ∧
        (t.port p).lastNak = some id ∧ (t.port p).nakAck = ack ∧
        (runs < 8 → (t.port p).state = .up ∧ (t.port p).nakRuns = runs ∧ RegsSame s t [cnt]) ∧
        (8 ≤ runs → (t.port p).state = .recovery ∧ (t.port p).step = 2 ∧ (t.port p).nakRuns = 0 ∧
          (p = .host → t.reg (modR 0x111C) = satAdd (s.reg (modR 0x111C)) 1) ∧
          RegsSame s t (cnt :: [0x111C, 0x3000, 0x3010].map modR)) ∧
        t = { (s.setPort p (t.port p)) with regs := t.regs, ev := t.ev })) ∧
  (∀ (p : Port) (s : State), s.Inv →
    let l := s.port p
    let at_ := roundUp (if l.state = .up ∧ l.waiting then max s.now l.nakFrom else s.now) linkCycle
    let training : Prop := l.state = .train ∨ l.state = .recovery
    let shown (v : Nat) : Nat := if p = .host ∨ v = 0 then grantOf p v + l.freed v else 0
    let sent (t : State) : Prop := t.now = max s.now at_ ∧ t = { (s.setPort p { l with
      lastCtrl := (t.port p).lastCtrl, lastCtrlAt := t.now, ctrlBy := t.now + 32 * linkCycle }) with now := t.now }
    (l.state = .down ∨ (training ∧ l.step ≠ 5 ∧ l.step ≠ 6) → exec (.ctrlFlitSend p) s = .next { s with now := max s.now at_ }) ∧
    (training → l.step = 5 → ∃ t, exec (.ctrlFlitSend p) s = .next t ∧ sent t ∧
      let b := toBytes 64 (t.port p).lastCtrl.toNat
      b.take 3 = [0xE0, 0, 3] ∧ bytesAt b 3 1 = (if p = .host then 1 else 2) ∧ bytesAt b 4 1 = s.casc.pos % 256 ∧ bytesAt b 5 1 = l.width ∧
      bytesAt b 6 1 = b2n (p == .host && s.bit (modR 0x1000) 5) ∧ bytesAt b 7 2 = 1 ∧ bytesAt b 9 53 = 0 ∧
      bytesAt b 62 2 = (crc16 (b.take 62)).toNat) ∧
    (l.state = .up ∨ (training ∧ l.step = 6) → ∃ t, exec (.ctrlFlitSend p) s = .next t ∧ sent t ∧
      let b := toBytes 64 (t.port p).lastCtrl.toNat
      b.take 2 = [0xE0, 0] ∧ bytesAt b 2 1 = (if l.waiting then 2 else 1) ∧ bytesAt b 3 1 = l.nakId * 16 % 256 ∧
      bytesAt b 4 2 = (l.rxExpect + 8191) % 8192 ∧ (∀ v, v < 5 → bytesAt b (6 + 2 * v) 2 = shown v % 65536) ∧
      (∀ c : Ch,
        bytesAt b (16 + 2 * c.val) 2 = (if p = .host then (s.chan c).slotCr % 65536 else 0) ∧
        bytesAt b (24 + 2 * c.val) 2 = (if p = .host then (s.chan c).dwrCr % 65536 else 0) ∧
        bytesAt b (32 + 2 * c.val) 2 = (if p = .host then (s.chan c).grpCr % 65536 else 0)) ∧
      bytesAt b 40 22 = 0 ∧ bytesAt b 62 2 = (crc16 (b.take 62)).toNat)) ∧
  (∀ (p : Port) (s : State) (f : TxFlit) (rest : List TxFlit), s.Inv → (s.port p).state = .up →
    (s.port p).replayBuf = f :: rest →
    ∃ t, exec (.ackTimeout p) s = .next t ∧ t.now = max s.now (f.sentAt + usT 10) ∧ Recovering s t p)

/-- TRAINING_STEP_COMPLETE, TRAINING_TIMEOUT, LANE_LOSS_OF_LOCK, RECOVERY_COMPLETE, RECOVERY_TIMEOUT, LINK_ENABLE, LINK_DISABLE and
LINK_RETRAIN (R368, R379, R382, R385 to R388). -/
def Obligations.LinkStates : Prop :=
  (∀ (lanes : BitVec 16) (most : Nat),
    let sets : List (Nat × BitVec 16) :=
      [(16, 0xFFFF), (8, 0x00FF), (8, 0xFF00), (4, 0x000F), (4, 0x00F0), (4, 0x0F00), (4, 0xF000)]
    (∀ w, formWidth lanes most = some w → lanes &&& w = w ∧ ∃ n, (n, w) ∈ sets ∧ n ≤ most ∧
      ∀ m v, (m, v) ∈ sets → m ≤ most → lanes &&& v = v → m < n ∨ (m = n ∧ w.toNat ≤ v.toNat)) ∧
    (formWidth lanes most = none → ∀ m v, (m, v) ∈ sets → m ≤ most → lanes &&& v ≠ v)) ∧
  (∀ (p : Port) (lanes : BitVec 16) (reversed : Bool) (payload : BitVec 480) (s : State), s.Inv →
    (s.port p).state = .train ∨ (s.port p).state = .recovery →
    let l := s.port p
    let again : Prop := l.state = .recovery
    let sendAt := roundUp s.now linkCycle
    let failed : BitVec 16 := (if p = .host then 0xFFFF else 0xFF) &&& ~~~lanes
    let cr := [0, 1, 2, 3, 4].map (fun v => ctrlField payload (4 + 2 * v) 2)
    let enough : Prop := 256 ≤ cr.getD 1 0 ∧ 64 ≤ cr.getD 3 0 ∧ 64 ≤ cr.getD 4 0
    let run := exec (.trainingStepComplete p lanes reversed payload) s
    let narrow := s.bit (modR 0x6004) 16
    let most := if again then l.width else if p = .host then s.widthMax else if narrow then 4 else 8
    (l.step = 1 ∨ l.step = 2 → run = .next (s.setPort p { l with step := l.step + 1, stepAt := s.now })) ∧
    (l.step = 3 → run = .next (s.setPort p { l with reversed := reversed, step := 4, stepAt := s.now })) ∧
    (l.step = 4 →
      ∃ t, run = .next t ∧ RegsSame s t [] ∧ t = { (s.setPort p (t.port p)) with regs := t.regs, ev := t.ev } ∧
        (p = .host → failed &&& ~~~l.failed ≠ 0 → Raised t 42) ∧
        let trains (w : BitVec 16) : LinkPort := { l with
          failed := failed, lanes := w, step := 5, stepAt := s.now
          lastCtrl := mkFlit 7 0 (t.trainPayload p), lastCtrlAt := sendAt, ctrlBy := sendAt + 32 * linkCycle }
        (again → t.port p = trains l.lanes) ∧
        (¬ again → (∀ w, formWidth lanes most = some w → t.port p = trains w) ∧
          (formWidth lanes most = none → t.port p = { l with failed := failed }))) ∧
    (l.step = 5 → ctrlField payload 0 1 ≠ 3 → run = .next s) ∧
    (l.step = 5 → ctrlField payload 0 1 = 3 →
      let asked : LinkPort := { l with
        precodeTx := decide (ctrlField payload 4 1 % 2 = 1), precodeRx := p == .host && s.bit (modR 0x1000) 5, stepAt := s.now }
      (again → run = .next (s.setPort p asked)) ∧
      (¬ again → run = .next (s.setPort p { asked with
        step := 6, lastCtrl := mkFlit 7 0 (s.ctrlPayload p), lastCtrlAt := sendAt, ctrlBy := sendAt + 32 * linkCycle }))) ∧
    (l.step = 6 → p ≠ .host ∨ ctrlField payload 0 1 ≠ 1 → run = .next s) ∧
    (l.step = 6 → p = .host → ctrlField payload 0 1 = 1 → ¬ enough → run = .next { s with host := { l with credMinFail := true } }) ∧
    (l.step = 6 → p = .host → ctrlField payload 0 1 = 1 → enough →
      ∃ t, run = .next t ∧ Raised t 32 ∧
        t.host = { LinkPort.reset with
          state := .up, lanes := l.lanes, failed := l.failed, reversed := l.reversed, hostCr := cr, arrived := l.arrived
          ctrlBy := sendAt + 32 * linkCycle, precodeTx := l.precodeTx, precodeRx := l.precodeRx } ∧
        (∀ d, t.chan d = { s.chan d with slotOut := 0, slotCr := 0, grpOut := 0, grpCr := 0, dwrCr := 4096, dwrOut := 4096 }) ∧
        t.reg (modR 0x3000) = (if s.field (modR 0x3000) 1 2 = 1 then setFld (s.reg (modR 0x3000)) 1 2 0 else s.reg (modR 0x3000)) ∧
        RegsSame s t [modR 0x3000] ∧ t = { s with host := t.host, ch := t.ch, regs := t.regs, ev := t.ev })) ∧
  (∀ (p : Port) (s : State), s.Inv → (s.port p).state = .train →
    ∃ t, exec (.trainingTimeout p) s = .next t ∧ t.now = max s.now ((s.port p).trainAt + msT 25) ∧
      t.port p = { s.port p with step := 1, stepAt := t.now, trainAt := t.now, lanes := 0 } ∧
      (p = .host → t.reg (modR 0x1134) = satAdd (s.reg (modR 0x1134)) 1) ∧
      RegsSame s t (if p = .host then [modR 0x1134] else []) ∧
      t = { (s.setPort p (t.port p)) with now := t.now, regs := t.regs }) ∧
  (∀ (p : Port) (lane : Fin 16) (s : State), s.Inv → (s.port p).state = .up →
    ((s.port p).lanes.getLsbD lane = true →
      ∃ t, exec (.laneLossOfLock p lane) s = .next t ∧ t.now = s.now ∧ Recovering s t p) ∧
    ((s.port p).lanes.getLsbD lane = false → exec (.laneLossOfLock p lane) s = .next s)) ∧
  (∀ (p : Port) (lanes : BitVec 16) (s : State), s.Inv → (s.port p).state = .recovery →
    let l := s.port p
    let failed : BitVec 16 := (if p = .host then 0xFFFF else 0xFF) &&& ~~~lanes
    let stays (t : State) : Prop :=
      t.port p = { l with failed := failed } ∧ RegsSame s t [] ∧
      t = { (s.setPort p (t.port p)) with regs := t.regs, ev := t.ev }
    (formWidth lanes l.width = none → ∃ t, exec (.recoveryComplete p lanes) s = .next t ∧ stays t) ∧
    (∀ w, formWidth lanes l.width = some w →
      (w ≠ l.lanes → s.bit (modR 0x1000) 4 = false → ∃ t, exec (.recoveryComplete p lanes) s = .next t ∧ stays t) ∧
      (w = l.lanes ∨ s.bit (modR 0x1000) 4 = true →
        ∃ t, exec (.recoveryComplete p lanes) s = .next t ∧
          (∃ n, n ≤ 4096 ∧ (t.port p).replayLeft = max l.replayLeft n) ∧
          (p = .host → t.host = { l with
            state := .up, lanes := w, step := 0, failed := failed, replayBuf := l.replayBuf.map (fun f => replayFlit f s.now)
            replayLeft := t.host.replayLeft, ctrlBy := roundUp s.now linkCycle + 32 * linkCycle } ∧
            t.reg (modR 0x3000) = setFld (s.reg (modR 0x3000)) 1 2 0 ∧ Raised t 32 ∧
            (s.linkDegraded = false → t.linkDegraded = true → Raised t 33)) ∧
          (p = .up → t.reg (modR 0x3010) = setFld (s.reg (modR 0x3010)) 1 2 0) ∧
          (t.port p).state = .up ∧ (t.port p).lanes = w ∧ (t.port p).failed = failed ∧
          l.replayBuf.map (fun f => replayFlit f s.now) <+: (t.port p).replayBuf ∧ (t.port p).rxExpect = l.rxExpect ∧
          (t.port p).hostCr = l.hostCr ∧ (t.port p).arrived = l.arrived ∧
          RegsSame s t (match p with | .host => [modR 0x3000] | .up => [modR 0x3010] | .down => []) ∧
          t = { (s.setPort p (t.port p)) with regs := t.regs, ev := t.ev, freeCount := s.freeCount + 1 }))) ∧
  (∀ s : State, s.Inv → s.host.state = .recovery →
    ∃ t, exec (.recoveryTimeout .host) s = .next t ∧ t.now = max s.now (s.host.recoveryAt + msT 2) ∧ HostLost s t s.mayTrain ∧
      t.host.arrived = s.host.arrived ∧ t.ev.queue = [] ∧ t.reg (modR 0x3000) = setFld (s.reg (modR 0x3000)) 1 2 0 ∧
      RegsSame s t ([0x112C, 0x1130, 0x3000].map modR) ∧
      t = { s with now := t.now, host := t.host, egr := t.egr, ch := t.ch, regs := t.regs, ev := t.ev }) ∧
  (∀ (p : Port) (s : State), p ≠ .host → (s.port p).state = .recovery →
    exec (.recoveryTimeout p) s = exec (.cascPortDown p) { s with now := max s.now ((s.port p).recoveryAt + msT 2) }) ∧
  (∀ (a : RegAcc) (s : State), s.Inv → s.host.state = .down → s.vc2 = [] → a.rivals = [] → s.egr.completions.length < 256 → a.be = 15 →
    s.mayReg a.hf 0 1 true = true → s.bit (modR 0x1000) 0 = false → s.bit (modR 0x0014) 0 = true → s.linkSafe = false →
    ∃ t, exec (.linkEnable a) s = .next t ∧ t.host = { s.host.stop s.now true with arrived := t.host.arrived } ∧
      t.host.state = .train ∧ t.host.step = 1 ∧ t.reg (modR 0x1000) = setFld (s.reg (modR 0x1000)) 0 1 1 ∧
      RegsSame s t [modR 0x1000] ∧ t = { s with host := t.host, regs := t.regs }) ∧
  (∀ (a : RegAcc) (s : State), s.Inv → Served s a 0 0x1000 → s.host.state = .up → s.bit (modR 0x1000) 0 = true →
    ∃ t, exec (.linkDisable a) s = .next t ∧ HostLost s t false ∧ t.now = s.now ∧ t.host.state = .down ∧ Raised t 32 ∧
      t.reg (modR 0x1000) = setFld (s.reg (modR 0x1000)) 0 1 0 ∧ RegsSame s t ([0x1000, 0x112C, 0x1130].map modR) ∧
      t = { s with host := t.host, egr := t.egr, ch := t.ch, regs := t.regs, ev := t.ev }) ∧
  (∀ (a : RegAcc) (s : State), s.Inv → Served s a 0 0x1000 → s.bit (modR 0x1000) 0 = true →
    ∃ t, exec (.linkRetrain a) s = .next t ∧
      t.egr = { s.egr with completions := s.egr.completions ++ [⟨a.hf, 0, completionBytes a.hf 0 a.rtag 0x21 [], none⟩] } ∧
      (s.host.state = .up → t.host = { s.host with
        state := .recovery, step := 2, stepAt := s.now, recoveryAt := s.now, nakRuns := 0, arrived := t.host.arrived } ∧
        t.reg (modR 0x3000) = setFld (s.reg (modR 0x3000)) 1 2 3 ∧ t.reg (modR 0x111C) = satAdd (s.reg (modR 0x111C)) 1 ∧
        Raised t 34 ∧ RegsSame s t [modR 0x3000, modR 0x111C]) ∧
      (s.host.state = .recovery → t.host = { s.host with arrived := t.host.arrived } ∧ RegsSame s t []) ∧
      t = { s with host := t.host, egr := t.egr, regs := t.regs, ev := t.ev })
/-! ## Registers, bulk frames and indirect accesses -/

/-- BULK_WRITE, BULK_READ and WRITE_DIRECT (R252, R253, R402, R403, R405, R407). -/
def Obligations.BulkAndDirectFrames : Prop :=
  (∀ (hf : Hf) (c : Ch) (rtag : BitVec 16) (unitsM1 : BitVec 4) (off64 : BitVec 19) (s : State), s.Inv →
    s.vc2 = [] → s.egr.completions.length < 256 → s.host.isUp = true →
    let n := unitsM1.toNat + 1
    let unit (i : Nat) : Nat := stageUnit hf (64 * (off64.toNat + i))
    let inside : Prop := 64 * (off64.toNat + n) ≤ 0x2000000
    let right : Prop := s.mayMbx hf c (2 * hf.val) = true ∨ s.mayMbx hf c (2 * hf.val + 1) = true
    let live : Prop := (s.chan c).power = .on ∨ (s.chan c).power = .idle
    let answers (t : State) (fstat opc : Nat) (data : List Byte) : Prop :=
      t.egr = { s.egr with completions := s.egr.completions ++ [⟨hf, chRegion c, completionBytes hf fstat rtag opc data, none⟩] } ∧
      t.host = { s.host with arrived := t.host.arrived } ∧
      t.reg (modR 0x1204) = satAdd (s.reg (modR 0x1204)) (if fstat = 0 then 0 else 1) ∧
      (∀ k, k ≠ modR 0x1204 → t.reg k = s.reg k)
    (∀ data : List (BitVec 512),
      (inside → right → live →
        ∃ t, exec (.bulkWrite hf c rtag unitsM1 off64 data) s = .next t ∧ answers t 0 0x23 [] ∧
          (∀ i u, i < n → data[i]? = some u → (t.chan c).hbmSlot (unit i) = mkUnit64 u ∧
            (t.chan c).stageRead hf (64 * (off64.toNat + i)) = some u) ∧
          (∀ k, (∀ i, i < n → i < data.length → k ≠ unit i) → (t.chan c).hbmSlot k = (s.chan c).hbmSlot k) ∧
          t = { s with
            host := t.host, egr := t.egr, regs := t.regs, ch := s.ch.set c { s.chan c with hbm := (t.chan c).hbm } }) ∧
      (∀ fstat, (¬ inside ∧ fstat = 8) ∨ (inside ∧ ¬ right ∧ fstat = 1) ∨ (inside ∧ right ∧ ¬ live ∧ fstat = 3) →
        ∃ t, exec (.bulkWrite hf c rtag unitsM1 off64 data) s = .next t ∧ answers t fstat 0x23 [] ∧
          t = { s with host := t.host, egr := t.egr, regs := t.regs })) ∧
    (inside → right → live →
      ∃ t bytes, exec (.bulkRead hf c rtag unitsM1 off64) s = .next t ∧ bytes.length = 64 * n ∧
        answers t (if ∀ i, i < n → ((s.chan c).stageRead hf (64 * (off64.toNat + i))).isSome = true then 0 else 9) 0x24 bytes ∧
        (∀ i, i < n → bytesAt bytes (64 * i) 64 = (((s.chan c).stageRead hf (64 * (off64.toNat + i))).getD 0).toNat) ∧
        t = { s with host := t.host, egr := t.egr, regs := t.regs }) ∧
    (∀ fstat, (¬ inside ∧ fstat = 8) ∨ (inside ∧ ¬ right ∧ fstat = 1) ∨ (inside ∧ right ∧ ¬ live ∧ fstat = 3) →
      ∃ t, exec (.bulkRead hf c rtag unitsM1 off64) s = .next t ∧ answers t fstat 0x24 [] ∧
        t = { s with host := t.host, egr := t.egr, regs := t.regs })) ∧
  (∀ (hf : Hf) (c : Ch) (items : List (BitVec 256)) (s : State), s.Inv → s.vc2 = [] →
    let x := s.chan c
    (x.power = .off ∨ x.power = .wake →
      ∃ t, exec (.writeDirect hf c items) s = .next t ∧ t.reg (modR 0x1208) = satAdd (s.reg (modR 0x1208)) 1 ∧
        (∀ k, k ≠ modR 0x1208 → t.reg k = s.reg k) ∧ t.host = { s.host with arrived := t.host.arrived } ∧
        t = { s with
          host := t.host, regs := t.regs, ch := s.ch.set c { x with dwrCr := (x.dwrCr + items.length) % 65536 } }) ∧
    (x.power = .on ∨ x.power = .idle → x.direct.length + items.length ≤ 4096 →
      ∃ t, exec (.writeDirect hf c items) s = .next t ∧ t.host = { s.host with arrived := t.host.arrived } ∧
        (t.chan c).direct.map (fun d => (d.hf, d.item)) = x.direct.map (fun d => (d.hf, d.item)) ++ items.map (fun i => (hf, i)) ∧
        (t.chan c).dwrOut = x.dwrOut - items.length ∧
        t = { s with
          host := t.host
          ch := s.ch.set c { x with
            direct := (t.chan c).direct, dwrFrames := (t.chan c).dwrFrames, dwrOut := (t.chan c).dwrOut } })) ∧
  (∀ (hf : Hf) (c : Ch) (rtag : BitVec 16) (n : BitVec 4) (off : BitVec 19) (data : List (BitVec 512)) (items : List (BitVec 256))
    (s : State),
    let behind : Prop := ∃ f l, s.vc2 = f :: l ∧ s.vc2Waits f = true
    let live : Prop := (s.chan c).power = .on ∨ (s.chan c).power = .idle
    ((s.vc2 = [] ∧ 256 ≤ s.egr.completions.length) ∨ behind →
      exec (.bulkWrite hf c rtag n off data) s = .next { s with vc2 := s.vc2 ++ [.bulkWrite hf c rtag n off data] } ∧
      exec (.bulkRead hf c rtag n off) s = .next { s with vc2 := s.vc2 ++ [.bulkRead hf c rtag n off] }) ∧
    ((s.vc2 = [] ∧ live ∧ 4096 < (s.chan c).direct.length + items.length) ∨ behind →
      exec (.writeDirect hf c items) s = .next { s with vc2 := s.vc2 ++ [.direct hf c items] }) ∧
    (∀ f l, s.vc2 = f :: l → s.host.state = .recovery →
      (s.vc2Waits f = true → exec (.hostEgressCycle .clean) s = .next s) ∧
      (s.vc2Waits f = false → l = [] → exec (.hostEgressCycle .clean) s = .next ({ s with vc2 := [] }.runVc2 f))))

/-- REGISTER_WRITE, ALIAS_WRITE, CTX_HWM_CLR, EVT_CLR and CONFIG_PARITY_MISMATCH (R401, R402, R413 to R422, R457, Table 06.6). What
a write of a register starts beyond its fields is stated with the command that names that register. -/
def Obligations.RegisterWrites : Prop :=
  (∀ (a : RegAcc) (addr : BitVec 32) (data : Word) (off st : Nat) (s : State), s.Inv → s.vc2 = [] → a.rivals = [] →
    s.egr.completions.length < 256 → s.host.isUp = true →
    let r := regionOf addr
    let x := s.chan (Fin.ofNat 4 (r - 1))
    let right : Prop := s.mayReg a.hf r (off / 0x1000) true = true
    let down : Prop := r ≠ 0 ∧ (x.power = .off ∨ x.power = .wake) ∧ baseBlock off = false
    (areaOf addr = .none ∧ st = 2) ∨
      (((areaOf addr = .ctl off ∧ off ≠ indBase r ∧ off ≠ indBase r + 4) ∨ ∃ b, areaOf addr = .bitWord off b) ∧
        ((¬ right ∧ st = 1) ∨ (right ∧ down ∧ st = 3) ∨ (right ∧ ¬ down ∧ addr.toNat % 4 ≠ 0 ∧ st = 4) ∨
          (right ∧ ¬ down ∧ addr.toNat % 4 = 0 ∧ a.be ≠ 15 ∧ st = 5))) →
    ∀ i ∈ [Instr.registerWrite a addr data, Instr.aliasWrite a addr data],
      ∃ t, exec i s = .next t ∧
        t.egr = { s.egr with completions := s.egr.completions ++ [⟨a.hf, r, completionBytes a.hf st a.rtag 0x21 [], none⟩] } ∧
        t.reg (modR 0x1204) = satAdd (s.reg (modR 0x1204)) 1 ∧ (∀ k, k ≠ modR 0x1204 → t.reg k = s.reg k) ∧
        t.host = { s.host with arrived := t.host.arrived } ∧ t = { s with host := t.host, egr := t.egr, regs := t.regs }) ∧
  (∀ (a : RegAcc) (addr : BitVec 32) (data : Word) (s : State),
    (s.vc2 = [] ∧ 256 ≤ s.egr.completions.length) ∨ (∃ f l, s.vc2 = f :: l ∧ s.vc2Waits f = true) →
    ∀ i ∈ [Instr.registerWrite a addr data, Instr.aliasWrite a addr data],
      exec i s = .next { s with vc2 := s.vc2 ++ [.reg a true addr data []] }) ∧
  (∀ (region : Fin 5) (off : Nat) (a : RegAcc) (r : RegRival) (data : Word) (s : State), s.vc2 = [] → a.rivals = [r] →
    s.egr.completions.length < 256 → off < 0x10000 → off % 4 = 0 → blockExists region off = true →
    off ≠ indBase region → off ≠ indBase region + 4 →
    let ranks := s.portRanks region
    let num := if r.boot then 2 else 1
    let run := exec (.registerWrite a (regAddr region off) data) s
    (∀ l, rotate ranks (fun i => i == 0 || i == num) = some (0, l) →
      run = .next (((s.setPortRanks region l).regAct a true (regAddr region off) data []).rivalAct region r)) ∧
    (∀ l, rotate ranks (fun i => i == 0 || i == num) = some (num, l) →
      run = .next (((s.setPortRanks region l).rivalAct region r).regAct a true (regAddr region off) data []))) ∧
  (∀ (region : Fin 5) (off : Nat) (a : RegAcc) (data : Word) (s : State) (fs : List Fld), s.Inv → Served s a region off →
    off < 0x10000 → off % 4 = 0 → regFields region false off = some fs → writeActs region off = false → a.hw = 0 →
    let k := regKey region false off
    let disabled := (s.ownerOf (.host a.hf) region false off).1
    let cnt := regKey region false ((if region = 0 then 0xA000 else 0xC000) + 0x104)
    let frame (t : State) : Prop :=
      Acked s t a region 0x21 [] ∧ (t.parity = s.parity ∨ t.parity = s.parity.filter (· != k)) ∧
      (actsLater region false off = true → t.regAt k = s.regAt k) ∧ (actsLater region false off = false → t.late = s.late) ∧
      t = { s with host := t.host, egr := t.egr, regs := t.regs, ev := t.ev, parity := t.parity, late := t.late }
    (∃ t, exec (.registerWrite a (regAddr region off) data) s = .next t ∧ frame t ∧
      Landed (s.reg k) (t.reg k) data fs disabled (reachable region false off) ∧ RegsSame s t [k, cnt]) ∧
    (∀ (b : Nat) (f : Fld), b < 32 → f ∈ fs → f.lo ≤ b → b < f.lo + f.n →
      ∃ t, exec (.aliasWrite a (aliasAddr region off b) data) s = .next t ∧ frame t ∧ RegsSame s t [k] ∧
        t.reg k = (if f.takes disabled && wbit (reachable region false off) b then setFld (s.reg k) b 1 (fld data 0 1)
          else s.reg k))) ∧
  (∀ (c : Ch) (a : RegAcc) (s : State), s.Inv → Served s a (chRegion c) 0x3004 →
    ∃ t, exec (.ctxHwmClr c a) s = .next t ∧ Acked s t a (chRegion c) 0x21 [] ∧
      t.reg (chR c 0x3004) = setFld (s.reg (chR c 0x3004)) 0 12 (s.chan c).ctxs.length ∧ RegsSame s t [chR c 0x3004] ∧
      t = { s with host := t.host, egr := t.egr, regs := t.regs, ev := t.ev }) ∧
  (∀ (region : Fin 5) (idx : Fin 15) (bits : Word) (a : RegAcc) (s : State), s.Inv →
    let base := if region = 0 then 0x4000 else 0xB000
    Served s a region (base + 0x40 + 4 * idx.val) →
    let k := regKey region false (base + 4 * idx.val)
    ∃ t, exec (.evtClr region idx bits a) s = .next t ∧ Acked s t a region 0x21 [] ∧
      (region ≠ 0 ∨ idx.val < 8 → t.reg k = s.reg k &&& ~~~(bits &&& ~~~a.hw)) ∧
      (region = 0 → 8 ≤ idx.val → t.reg k = s.reg k) ∧ (∀ j, j ≠ k → t.reg j = s.reg j) ∧
      t = { s with host := t.host, egr := t.egr, regs := t.regs }) ∧
  (∀ (region : Fin 5) (ind : Bool) (off : BitVec 24) (flip : Word) (s : State), s.Inv →
    let k := regKey region ind off.toNat
    let m (fs : List Fld) : Word := parityMask region ind off.toNat fs
    let run := exec (.configParityMismatch region ind off flip) s
    (regFields region ind off.toNat = none → run = .next s) ∧
    (∀ fs, regFields region ind off.toNat = some fs → (region = 0 ∧ ind = true ∧ 0x200000 ≤ off.toNat) ∨ m fs = 0 → run = .next s) ∧
    (∀ fs, regFields region ind off.toNat = some fs → ¬ (region = 0 ∧ ind = true ∧ 0x200000 ≤ off.toNat) → m fs ≠ 0 →
      ∃ t, run = .next t ∧ t.reg k = s.reg k ^^^ (flip &&& m fs) ∧ (∀ j, j ∈ t.parity ↔ j = k ∨ j ∈ s.parity) ∧
        (s.linkSafe = false → t.linkSafe = true → Raised t 41) ∧ (s.cascSafe = false → t.cascSafe = true → Raised t 71) ∧
        (s.linkSafe = true ∨ t.linkSafe = false ∨ s.host.state = .down →
          RegsSame s t [k] ∧ t = { s with regs := t.regs, ev := t.ev, parity := t.parity }) ∧
        (s.linkSafe = false → t.linkSafe = true → s.host.isUp = true →
          HostLost s t false ∧ t.host.state = .down ∧ RegsSame s t (k :: [0x112C, 0x1130, 0x3000].map modR) ∧
          t = { s with host := t.host, egr := t.egr, ch := t.ch, regs := t.regs, ev := t.ev, parity := t.parity })))

/-- IND_DATA_READ, IND_DATA_WRITE, IND_ACCESS_DONE and IND_TIMEOUT, and the writes of IND_ADDR and IND_CTRL (R423 to R425). -/
def Obligations.IndirectAccess : Prop :=
  (∀ (region : Fin 5) (a : RegAcc) (data : Word) (s : State), s.Inv → a.hw = 0 → (s.pair region a.hf).flight = none →
    let p := s.pair region a.hf
    let frame (t : State) : Prop :=
      Acked s t a region 0x21 [] ∧ (∀ r q, r ≠ region.val ∨ q ≠ a.hf.val → t.pair r q = s.pair r q) ∧
      RegsSame s t [regKey region false ((if region = 0 then 0xA000 else 0xC000) + 0x104)] ∧
      t = { s with host := t.host, egr := t.egr, regs := t.regs, ev := t.ev, ind := t.ind }
    (Served s a region (indBase region) →
      ∃ t, exec (.registerWrite a (regAddr region (indBase region)) data) s = .next t ∧ frame t ∧
        t.pair region a.hf = { p with addr := data }) ∧
    (Served s a region (indBase region + 8) →
      ∃ t, exec (.registerWrite a (regAddr region (indBase region + 8)) data) s = .next t ∧ frame t ∧
        t.pair region a.hf = { p with ctrl := data })) ∧
  (∀ (region : Fin 5) (a : RegAcc) (data : Word) (write : Bool) (s : State), s.Inv →
    let p := s.pair region a.hf
    let run := exec (if write then .indDataWrite region a data else .indDataRead region a) s
    let target := p.addr.toNat % 2 ^ 24 / 4 * 4
    let right : Prop := ∀ b, indOwner region (p.addr.toNat) = some b → s.mayReg a.hf region b write = true
    (s.vc2 = [] → p.flight.isSome = true → ∃ f, run = .next { s with vc2 := [f] } ∧ s.vc2Waits f = true) ∧
    (p.flight = none → Served s a region (indBase region + 4) write → right →
      ∃ t f, run = .next t ∧ t.host = { s.host with arrived := t.host.arrived } ∧
        t.egr = { s.egr with completions := s.egr.completions ++
          [⟨a.hf, region, if write then completionBytes a.hf 0 a.rtag 0x21 [] else [], none⟩] } ∧
        (t.pair region a.hf).flight = some f ∧ f.addr = target ∧ f.write = write ∧ (write = true → f.data = data) ∧ f.acc = a ∧
        f.at_ = s.now ∧ (t.pair region a.hf).ctrl = p.ctrl ∧ (t.pair region a.hf).err = p.err ∧
        (t.pair region a.hf).addr = (if wbit p.ctrl 0 then setFld p.addr 2 22 (fld p.addr 2 22 + 1) else p.addr) ∧
        (∀ r q, r ≠ region.val ∨ q ≠ a.hf.val → t.pair r q = s.pair r q) ∧
        t = { s with host := t.host, egr := t.egr, ind := t.ind }) ∧
    (p.flight = none → Served s a region (indBase region + 4) write → ¬ right →
      ∃ t, run = .next t ∧ t.host = { s.host with arrived := t.host.arrived } ∧
        t.egr = { s.egr with completions := s.egr.completions ++
          [⟨a.hf, region, completionBytes a.hf 1 a.rtag (if write then 0x21 else 0x20) [], none⟩] } ∧
        t.reg (modR 0x1204) = satAdd (s.reg (modR 0x1204)) 1 ∧ (∀ k, k ≠ modR 0x1204 → t.reg k = s.reg k) ∧
        t = { s with host := t.host, egr := t.egr, regs := t.regs })) ∧
  (∀ (region : Fin 5) (requester : Fin 9) (s : State) (f : IndFlight), s.Inv → s.vc2 = [] →
    (s.pair region requester).flight = some f →
    let p := s.pair region requester
    let k := regKey region true f.addr
    let cnt := regKey region false (indBase region + 0x108)
    let others (t : State) : Prop := ∀ r q, r ≠ region.val ∨ q ≠ requester.val → t.pair r q = s.pair r q
    let answered (t : State) (data : Word) : Prop :=
      t.egr = { s.egr with completions := t.egr.completions } ∧
      (f.write = true → t.egr = s.egr) ∧
      (f.write = false → ∀ pre post, s.egr.completions = pre ++ ⟨f.acc.hf, region, [], none⟩ :: post →
        (∀ q ∈ pre, q.hf ≠ f.acc.hf ∨ q.target ≠ region.val ∨ q.bytes ≠ []) →
        t.egr.completions = pre ++ ⟨f.acc.hf, region, completionBytes f.acc.hf 0 f.acc.rtag 0x20 (toBytes 4 data.toNat), none⟩ :: post)
    let wrong (t : State) (code : Nat) : Prop :=
      t.pair region requester = { p with err := p.err / 4 * 4 + code, flight := none } ∧ others t ∧ answered t 0 ∧
      t.reg cnt = satAdd (s.reg cnt) 1 ∧ RegsSame s t [cnt] ∧
      Raised t (if region = 0 then 156 else chSrc (Fin.ofNat 4 (region.val - 1)) 452) ∧
      t = { s with now := t.now, egr := t.egr, regs := t.regs, ev := t.ev, ind := t.ind }
    (∃ t, exec (.indTimeout region requester) s = .next t ∧ t.now = max s.now (f.at_ + usT 2) ∧ wrong t 2) ∧
    (indOwner region f.addr = none → ∃ t, exec (.indAccessDone region requester) s = .next t ∧ t.now = s.now ∧ wrong t 1) ∧
    ((indOwner region f.addr).isSome = true → f.write = false → s.measured region true f.addr = false →
      ∃ t, exec (.indAccessDone region requester) s = .next t ∧ t.pair region requester = { p with flight := none } ∧ others t ∧
        answered t (s.readReg region true f.addr) ∧ t = { s with egr := t.egr, ind := t.ind }) ∧
    (∀ fs, (indOwner region f.addr).isSome = true → f.write = true → regFields region true f.addr = some fs → f.acc.hw = 0 →
      (region = 0 → s.linkSafe = false) →
      let disabled := (s.ownerOf (.host f.acc.hf) region true f.addr).1
      let c : Ch := Fin.ofNat 4 (region.val - 1)
      ∃ t, exec (.indAccessDone region requester) s = .next t ∧ t.pair region requester = { p with flight := none } ∧ others t ∧
        Landed (s.reg k) (t.reg k) f.data fs disabled (~~~0) ∧
        RegsSame s t ([k, regKey region false (indBase region + 0x104)] ++
          (if region ≠ 0 ∧ 0x200000 ≤ f.addr ∧ f.addr < 0x300000 then [profR c ((f.addr - 0x200000) / 0x400)] else [])) ∧
        (t.parity = s.parity ∨ t.parity = s.parity.filter (· != k)) ∧
        t = { s with regs := t.regs, ev := t.ev, ind := t.ind, parity := t.parity }))
/-! ## Faults of a channel -/

/-- CH_FAULT_DETECT, D2D_LINK_FAILURE, CH_PLL_LOSS, CTX_WATCHDOG_EXPIRY, HBM_PHY_RETRAIN, HBM_PHY_RETRAIN_END and
CH_FAULT_CAUSE_CLEARS (R466 to R468, Table 17.6, Table 18.4). -/
def Obligations.ChannelFaults : Prop :=
  ∀ (c : Ch) (s : State), s.Inv →
    let x := s.chan c
    let mode := chR c 0xD000
    (x.power ≠ .off → x.faulted = false →
      (∀ causes : BitVec 6, causes ≠ 0 →
        ∃ t, exec (.chFaultDetect c causes) s = .next t ∧ t.now = s.now ∧ ChannelLost s t c causes []) ∧
      (∃ t, exec (.d2dLinkFailure c) s = .next t ∧ t.now = s.now ∧ ChannelLost s t c 1 []) ∧
      (∃ t, exec (.chPllLoss c) s = .next t ∧ t.now = s.now ∧ ChannelLost s t c 2 []) ∧
      (∀ (ctx : Fin 2048) (k : Ctx), x.ctx? ctx = some k →
        ∃ t, exec (.ctxWatchdogExpiry c ctx) s = .next t ∧ t.now = max s.now (k.ingressAt + usT 20) ∧
          ChannelLost s t c 16 []) ∧
      (s.field mode 1 2 = 3 →
        ∃ t, exec (.hbmPhyRetrainEnd c false) s = .next t ∧ t.now = s.now ∧ t.reg mode = setFld (s.reg mode) 1 2 0 ∧
          ChannelLost s t c 8 [mode])) ∧
    (x.power ≠ .off → x.faulted = true → ∀ causes : BitVec 6,
      exec (.chFaultDetect c causes) s = .next { s with ch := s.ch.set c { x with causes := x.causes ||| causes } }) ∧
    (x.power = .off → ∀ causes : BitVec 6, exec (.chFaultDetect c causes) s = .next s) ∧
    ((x.power = .on ∨ x.power = .idle) →
      ∃ t, exec (.hbmPhyRetrain c) s = .next t ∧ t.reg mode = setFld (s.reg mode) 1 2 3 ∧ RegsSame s t [mode] ∧
        t = { s with regs := t.regs, ev := t.ev }) ∧
    (s.field mode 1 2 = 3 →
      ∃ t, exec (.hbmPhyRetrainEnd c true) s = .next t ∧ t.reg mode = setFld (s.reg mode) 1 2 0 ∧ RegsSame s t [mode] ∧
        t = { s with regs := t.regs }) ∧
    (∀ cause : Fin 6,
      (cause.val < 2 →
        ∃ t, exec (.chFaultCauseClears c cause) s = .next t ∧ (∀ i, i < 6 → (t.chan c).causes.getLsbD i =
            (x.causes.getLsbD i && decide (i ≠ cause.val))) ∧
          (t.chan c).ready = (x.ready || (x.power == .on && (t.chan c).causes == 0 && x.mgr.up)) ∧
          t.reg mode = (if x.ready = false ∧ (t.chan c).ready = true then setFld (s.reg mode) 1 2 0 else s.reg mode) ∧
          RegsSame s t [mode] ∧ (s.boot.ready = true → t.boot.ready = true) ∧
          t = { s with
            regs := t.regs, ev := t.ev, boot := { s.boot with ready := t.boot.ready }
            ch := s.ch.set c { x with causes := (t.chan c).causes, ready := (t.chan c).ready } }) ∧
      (2 ≤ cause.val → exec (.chFaultCauseClears c cause) s = .next s))

/-! ## The scratchpad and the HBM command arbiter -/

/-- SPAD_WINDOW_ACCESS, SPAD_HANDOVER_REQUEST, SPAD_HANDOVER, MARCH_START, MARCH_END and HBM_ARB_GRANT (R433 to R453). -/
def Obligations.ScratchpadAndArbiter : Prop :=
  (∀ (c : Ch) (a : RegAcc) (addr : BitVec 32) (o : Nat) (data : Word) (write : Bool) (s : State), s.Inv →
    regionOf addr = chRegion c → areaOf addr = .spad o → s.vc2 = [] → s.egr.completions.length < 256 → s.host.isUp = true →
    s.maySpad a.hf c write = true → (s.chan c).power = .on ∨ (s.chan c).power = .idle →
    let x := s.chan c
    let form : Prop := if s.bit (chR c 0x9000) 1 then a.be = 15 ∧ o + 3 < 0x100000 else o % 4 = 0 ∧ a.be ≠ 0
    let mine : Prop := ∀ p ∈ spadWords o, s.spadOwner c p.1 = 2 ∨ (write = false ∧ s.bit (spadR c p.1) 4 = true)
    let run := exec (.spadWindowAccess a addr write ⟨data, []⟩) s
    let granted (t : State) : Prop := ∀ b, (t.chan c).spadRank b = if s.bit (chR c 0x9000) 0 = false ∧ (spadWords o).any (fun p => p.1 == b) = true
      then (x.spadRank b).filter (· != 3) ++ [3] else x.spadRank b
    let opc := if write then 0x21 else 0x20
    let answers (t : State) (st : Nat) (bytes : List Byte) : Prop :=
      t.egr = { s.egr with
        completions := s.egr.completions ++ [⟨a.hf, chRegion c, completionBytes a.hf st a.rtag opc bytes, none⟩] } ∧
      t.host = { s.host with arrived := t.host.arrived }
    (form → mine → (∀ i, i < 4 → x.spadClean (o + i)) →
      (write = false → ∃ t, run = .next t ∧
        answers t 0 ([0, 1, 2, 3].map (fun i => BitVec.ofNat 8 (x.spadByteAt (o + i)))) ∧
        granted t ∧ t = { s with host := t.host, egr := t.egr, ch := s.ch.set c { x with spadRanks := (t.chan c).spadRanks } }) ∧
      (write = true → ∃ t, run = .next t ∧ answers t 0 [] ∧
        (∀ i, i < 0x100000 → (t.chan c).spadByteAt i = (if o ≤ i ∧ i < o + 4 ∧ a.be.getLsbD (3 - (i - o)) = true
          then fld data (8 * (3 - (i - o))) 8 else x.spadByteAt i)) ∧
        (∀ i, i < 4 → (t.chan c).spadClean (o + i)) ∧
        (∀ k, (∀ p ∈ spadWords o, k ≠ spadKey p.1 p.2) → (t.chan c).spadWord k = x.spadWord k) ∧
        granted t ∧ t = { s with
          host := t.host, egr := t.egr, ch := s.ch.set c { x with spad := (t.chan c).spad, spadRanks := (t.chan c).spadRanks } })) ∧
    (¬ form ∨ ¬ mine → ∃ t, run = .next t ∧ answers t 6 [] ∧
      t.reg (modR 0x1204) = satAdd (s.reg (modR 0x1204)) 1 ∧
      t.reg (chR c 0x9124) = satAdd (s.reg (chR c 0x9124)) (if form then 1 else 0) ∧
      RegsSame s t [modR 0x1204, chR c 0x9124] ∧ t = { s with host := t.host, egr := t.egr, regs := t.regs, ev := t.ev })) ∧
  (∀ (c : Ch) (a : RegAcc) (addr : BitVec 32) (o b w : Nat) (s : State), s.Inv →
    regionOf addr = chRegion c → areaOf addr = .spad o → s.vc2 = [] → s.egr.completions.length < 256 → s.host.isUp = true →
    s.maySpad a.hf c false = true → (s.chan c).power = .on ∨ (s.chan c).power = .idle → s.spadForm c a.be o = true →
    spadWords o = [(b, w)] → s.bit (spadR c b) 4 = true → (∀ i, i < 4 → (s.chan c).spadClean (o + i)) → (s.chan c).march = none →
    let x := s.chan c
    let v1 := s.bit (chR c 0x9000) 0
    let run (others : List (List SpadReq)) := exec (.spadWindowAccess a addr false ⟨0, others⟩) s
    let reads (t : State) : Prop := t.egr = { s.egr with completions := s.egr.completions ++ [⟨a.hf, chRegion c,
      completionBytes a.hf 0 a.rtag 0x20 ([0, 1, 2, 3].map (fun i => BitVec.ofNat 8 (x.spadByteAt (o + i)))), none⟩] }
    let owns (q : SpadReq) : Prop := s.spadOwner c q.bank = (if q.master.val ≤ 1 then 0 else q.master.val - 1)
    let others (t : State) : Prop := t = { s with
      host := t.host, egr := t.egr, regs := t.regs, ev := t.ev
      ch := s.ch.set c { x with spad := (t.chan c).spad, spadRanks := (t.chan c).spadRanks } }
    (∀ q : SpadReq, q.wf = true → owns q → q.bank.val = b → q.word.val = w → q.write = true → q.be = 255 →
      ∃ t, run [[q]] = .next t ∧ reads t ∧ (t.chan c).spadWord (spadKey b w) = mkSpad q.data ∧
        (∀ k, k ≠ spadKey b w → (t.chan c).spadWord k = x.spadWord k) ∧ RegsSame s t [] ∧ others t) ∧
    (∀ (q r : SpadReq) (i j k : Nat), roundWf [q, r] = true → q.write = false → r.write = false → q.bank.val = b → r.bank.val = b →
      x.spadWord (spadKey b q.word) = mkSpad 0 → x.spadWord (spadKey b r.word) = mkSpad 0 →
      x.spadRank b = [0, 1, 2, 3, 4] →
      (s.spadOrder c b).filter (fun m => m == 3 || m == q.master.val || m == r.master.val) = [i, j, k] →
      ∃ t, run [[q, r]] = .next t ∧ reads t ∧
        t.reg (chR c (0x9100 + 4 * k)) = satAdd (s.reg (chR c (0x9100 + 4 * k))) (if v1 then 0 else 1) ∧
        (v1 = false → (t.chan c).spadRank b = [0, 1, 2, 3, 4].filter (fun m => m != i && m != j && m != k) ++ [i, j, k]) ∧
        (v1 = true → (t.chan c).spadRank b = x.spadRank b) ∧
        (∀ n, (t.chan c).spadWord n = x.spadWord n) ∧ RegsSame s t [chR c (0x9100 + 4 * k)] ∧ others t) ∧
    (∀ q r : SpadReq, q.wf = true → r.wf = true → owns q → q.master = 1 → r.master = 1 → q.bank.val ≠ b → r.bank = q.bank →
      r.word = q.word → q.write = true → r.write = true → q.be ≠ 255 → r.be = 255 →
      let cell := x.spadWord (spadKey q.bank q.word)
      let merged := mergeBytes q.be q.data cell.data
      cell = mkSpad cell.data → merged ≠ r.data →
      ∃ t, run [[q], [r]] = .next t ∧ reads t ∧ (t.chan c).spadWord (spadKey q.bank q.word) = mkSpad merged ∧
        (∀ k, k ≠ spadKey q.bank q.word → (t.chan c).spadWord k = x.spadWord k) ∧
        t.reg (chR c 0x9114) = satAdd (s.reg (chR c 0x9114)) 1 ∧ Raised t (chSrc c 352) ∧ RegsSame s t [chR c 0x9114] ∧ others t)) ∧
  (∀ (c : Ch) (bank : Fin 16) (owner : BitVec 2) (manager : Bool) (a : RegAcc) (s : State), s.Inv →
    let k := spadR c bank
    let w := s.reg k
    let ignored : Prop := owner.toNat ≠ fld w 2 2 ∧
      ((bank = 0 ∧ fld w 2 2 = 0 ∧ (s.chan c).mgr.up = true) ∨ (manager = false ∧ wbit w 6 = true))
    let lands (t : State) : Prop :=
      (ignored → t.reg k = w) ∧ (¬ ignored → t.reg k = setFld w 0 2 owner.toNat) ∧ RegsSame s t [k]
    (manager = true → ∃ t, exec (.spadHandoverRequest c bank owner manager a) s = .next t ∧ lands t ∧
      t = { s with regs := t.regs, ev := t.ev }) ∧
    (manager = false → Served s a (chRegion c) (0x9010 + 4 * bank.val) →
      ∃ t, exec (.spadHandoverRequest c bank owner manager a) s = .next t ∧ lands t ∧ Acked s t a (chRegion c) 0x21 [] ∧
        t = { s with host := t.host, egr := t.egr, regs := t.regs, ev := t.ev })) ∧
  (∀ (c : Ch) (bank : Fin 16) (s : State), s.Inv →
    let k := spadR c bank
    let w := s.reg k
    let may : Prop := fld w 0 2 ≠ fld w 2 2 ∧ (∀ m, (s.chan c).march = some m → m.bank ≠ bank.val) ∧
      ((s.chan c).power = .on ∨ (s.chan c).power = .idle)
    (may → ∃ t, exec (.spadHandover c bank) s = .next t ∧ t.reg k = setFld w 2 2 (fld w 0 2) ∧ RegsSame s t [k] ∧
      t = { s with regs := t.regs, ev := t.ev }) ∧
    (¬ may → exec (.spadHandover c bank) s = .next s)) ∧
  (∀ (c : Ch) (bank : Fin 16) (destructive : Bool) (pattern : BitVec 2) (a : RegAcc) (s : State), s.Inv →
    Served s a (chRegion c) 0x9050 →
    let k := chR c 0x9050
    let starts : Prop := s.spadOwner c bank = 3 ∧ (s.chan c).march = none ∧ pattern ≠ 3
    ∃ t, exec (.marchStart c bank destructive pattern a) s = .next t ∧ Acked s t a (chRegion c) 0x21 [] ∧
      fld (t.reg k) 4 4 = bank.val ∧ wbit (t.reg k) 8 = destructive ∧ fld (t.reg k) 9 2 = pattern.toNat ∧
      (starts → (t.chan c).march = some ⟨bank, destructive, pattern.toNat, s.now, 0⟩ ∧
        t.reg (chR c 0x9054) = setFld (setFld (s.reg (chR c 0x9054)) 0 1 1) 1 1 0 ∧
        t.reg (spadR c bank) = setFld (s.reg (spadR c bank)) 7 1 1 ∧ RegsSame s t [k, chR c 0x9054, spadR c bank]) ∧
      (¬ starts → (t.chan c).march = (s.chan c).march ∧ RegsSame s t [k]) ∧
      t = { s with
        host := t.host, egr := t.egr, regs := t.regs, ev := t.ev
        ch := s.ch.set c { s.chan c with march := (t.chan c).march } }) ∧
  (∀ (c : Ch) (failing : Option (Fin 8192)) (m : March) (s : State), s.Inv → (s.chan c).march = some m → m.bank < 16 →
    let x := s.chan c
    let decoded (w : Nat) : RsOut := rsDecode (toBytes 8 (x.spadWord (spadKey m.bank w)).data.toNat) (x.spadWord (spadKey m.bank w)).chk
    let fails (w : Nat) : Prop := (∃ f, failing = some f ∧ f.val = w) ∨
      (m.destructive = false ∧ w < 8192 ∧ decoded w = .uncorrectable)
    let log := chR c 0x9054
    ∃ t, exec (.marchEnd c failing) s = .next t ∧ t.now = max s.now (m.startedAt + marchTime m.destructive m.pattern + m.late * mgrCycle) ∧
      (t.chan c).march = none ∧ t.bit log 0 = false ∧ t.bit log 1 = true ∧ (t.bit log 2 = true ↔ ∃ w, fails w) ∧
      ((∃ w, fails w) → fails (t.field log 4 13) ∧ ∀ w, fails w → t.field log 4 13 ≤ w) ∧
      t.reg (spadR c m.bank) = setFld (s.reg (spadR c m.bank)) 7 1 0 ∧
      (∀ w, w < 8192 →
        (m.destructive = true → (t.chan c).spadWord (spadKey m.bank w) = ⟨0, 0⟩) ∧
        (m.destructive = false →
          (decoded w = .clean → (t.chan c).spadWord (spadKey m.bank w) = x.spadWord (spadKey m.bank w)) ∧
          (∀ l, decoded w = .corrected l → (t.chan c).spadWord (spadKey m.bank w) = mkSpad (BitVec.ofNat 64 (ofBytes l))) ∧
          (decoded w = .uncorrectable → ∃ d, (t.chan c).spadWord (spadKey m.bank w) = mkSpad d))) ∧
      (∀ k, k / 8192 ≠ m.bank → (t.chan c).spadWord k = x.spadWord k) ∧
      RegsSame s t ([0x9054, 0x9118, 0x911C, 0x9140].map (chR c) ++ [spadR c m.bank]) ∧
      t = { s with
        now := t.now, regs := t.regs, ev := t.ev, freeCount := t.freeCount
        ch := s.ch.set c { x with march := none, spad := (t.chan c).spad, mgr := (t.chan c).mgr } } ∧
      ((∃ w, fails w) → (t.chan c).mgr = x.mgr.marchDone m.bank (t.field log 4 13 + 1)) ∧
      ((∀ w, ¬ fails w) → (t.chan c).mgr = x.mgr.marchDone m.bank 0)) ∧
  (∀ (c : Ch) (requests : BitVec 5) (bursts : Nat) (withdrawn : Bool) (s : State), s.Inv →
    let k := chR c 0xD000
    let x := s.chan c
    let run := exec (.hbmArbGrant c requests bursts withdrawn) s
    let normal : Prop := s.field k 1 2 = 0
    let limit := max (s.field k 8 8) 1
    (s.bit k 0 = true ∨ x.power = .off ∨ rotate x.arb.ranks (fun i => requests.getLsbD i) = none → run = .next s) ∧
    (∀ w ranks, s.bit k 0 = false → x.power ≠ .off → rotate x.arb.ranks (fun i => requests.getLsbD i) = some (w, ranks) →
      let n := chR c (0xD108 + 4 * w)
      ∃ t, run = .next t ∧
        (withdrawn = true → t.reg (chR c 0xD100) = satAdd (s.reg (chR c 0xD100)) (if normal then 1 else 0) ∧
          RegsSame s t [chR c 0xD100]) ∧
        (withdrawn = false → normal ∨ bursts ≤ limit → t.reg n = satAdd (s.reg n) bursts ∧ RegsSame s t [n]) ∧
        (withdrawn = false → ¬ normal → limit < bursts → t.reg n = satAdd (s.reg n) (limit + 1) ∧
          t.reg (chR c 0xD104) = satAdd (s.reg (chR c 0xD104)) 1 ∧
          t.reg (chR c 0xD140) = (if s.bit (chR c 0xD140) 31 then s.reg (chR c 0xD140) else BitVec.ofNat 32 (w + 2 ^ 31)) ∧
          RegsSame s t [n, chR c 0xD104, chR c 0xD140]) ∧
        t = { s with
          regs := t.regs, ev := t.ev, ch := s.ch.set c { x with arb := { x.arb with ranks := ranks } } }))
/-! ## Supply, start-up and the nonvolatile store -/

/-- INPUT_LOSS, INPUT_RESTORED, RIDE_EXPIRY, BANK_LOW, EBB_CHANNEL_HALT, EBB_LINK_DOWN and EBB_END (R475 to R478, R490, R495). -/
def Obligations.HoldUpAndEbb : Prop :=
  ∀ s : State, s.Inv →
    (∀ vin : Nat, s.pwr.on = true → s.pwr.ride = none → s.pwr.ebb = none → vin < 34000 → s.pwr.pages.length = 7 →
      ∃ t, exec (.inputLoss vin) s = .next t ∧ t.reg (modR 0x9100) = satAdd (s.reg (modR 0x9100)) 1 ∧ Raised t 0 ∧
        (t.pwr.page? 0).input.getLsbD 4 = true ∧ t.ebbPin = true ∧ RegsSame s t [modR 0x9100] ∧
        t = { s with
          regs := t.regs, ev := t.ev
          pwr := { s.pwr with vin := vin, inputOk := false, ride := some s.now, pages := t.pwr.pages } }) ∧
    (∀ vin : Nat, s.pwr.ride.isSome = true → s.pwr.ebb = none → 38000 ≤ vin →
      ∃ t, exec (.inputRestored vin) s = .next t ∧ Raised t 1 ∧ t.ebbPin = false ∧ RegsSame s t [] ∧
        t = { s with regs := t.regs, ev := t.ev, pwr := { s.pwr with vin := vin, inputOk := true, ride := none } }) ∧
    (∀ r, s.pwr.on = true → s.pwr.ride = some r → s.pwr.ebb = none →
      ∃ t, exec .rideExpiry s = .next t ∧ t.now = max s.now (r + msT s.rideMs) ∧ EbbBegun s t ∧ t.pwr.ride = some r) ∧
    (∀ bank : Nat, s.pwr.on = true → bank ≤ 40000 →
      (s.pwr.ebb = none → ∃ t, exec (.bankLow bank) s = .next t ∧ t.now = s.now ∧ EbbBegun s t ∧ t.pwr.bank = bank ∧
        t.pwr.holdupOk = false) ∧
      (s.pwr.ebb.isSome = true →
        exec (.bankLow bank) s = .next { s with pwr := { s.pwr with bank := bank, holdupOk := false } })) ∧
    (∀ e, s.pwr.on = true → s.pwr.ebb = some e →
      (s.pwr.ebbStep = 0 →
        ∃ t, exec .ebbChannelHalt s = .next t ∧ t.now = max s.now (e + usT 20) ∧ t.pwr.ebbStep = 1 ∧
          (∀ d, (t.chan d).power = .off) ∧ (∀ d, (s.chan d).power = .off → t.chan d = s.chan d) ∧
          (∀ d, (s.chan d).power ≠ .off → (t.chan d).arr = ⟨[], [], [], []⟩ ∧ (t.chan d).hbm = [] ∧ (t.chan d).spad = [] ∧
            (t.chan d).ctxs = [] ∧ (t.chan d).mgr = Mgr.reset ∧ ∀ k, lostOff d k = true → t.reg k = regReset k) ∧
          (∀ k, (∀ d, lostOff d k = false ∧ k ≠ chCtrl d) → isEventReg k = false → t.reg k = s.reg k) ∧
          t = { s with
            now := t.now, regs := t.regs, parity := t.parity, ind := t.ind, ev := t.ev, ch := t.ch, pwr := t.pwr }) ∧
      (s.pwr.ebbStep = 1 →
        ∃ t, exec .ebbLinkDown s = .next t ∧ t.now = max s.now (e + msT 1) ∧ t.pwr = { s.pwr with ebbStep := 2 } ∧
          t.host.state = .down ∧ t.up.state = .down ∧ t.dn.state = .down ∧
          (s.host.isUp = true → t.egr.vc1 = [] ∧ t.egr.completions = [] ∧ t.egr.responses = [] ∧
            t.reg (modR 0x112C) = satAdd (s.reg (modR 0x112C)) 1 ∧
            t.reg (modR 0x1130) = satAdd (s.reg (modR 0x1130)) (s.egr.vc1.length + b2n s.egr.cur1.isSome)) ∧
          MemSame s t ∧ t.boot = s.boot ∧ t.time = s.time ∧ t.rels = s.rels ∧
          RegsSame s t ([0x112C, 0x1130, 0x3000, 0x6104].map modR)) ∧
      (s.pwr.ebbStep = 2 →
        ∃ t, exec .ebbEnd s = .next t ∧ t.now = max s.now (e + msT 6) ∧ WasReset s t true ∧ t.pwr.on = false ∧
          t.pwr.ride = none ∧ t.pwr.holdupOk = false ∧ t.boot.inReset = true ∧
          ∀ c r at_ rest, (s.flash c).prog = (r, at_) :: rest → (t.flash c).recs = (s.flash c).recs ++ [{ r with good := false }]))

/-- RAIL_FAULT, THERMAL_SAMPLE, INPUT_POWER_MEASUREMENT, GOVERNOR_WINDOW, RAIL_STEP_COMPLETE, HOLDUP_CHARGED, PMBUS_COMMAND and
CLEAR_FAULTS (R350, R475, R480 to R489). The free values are those of log entry 8. -/
def Obligations.PowerAndTelemetry : Prop :=
  ∀ s : State, s.Inv →
    (∀ rail : Nat, s.pwr.on = true →
      (rail < 5 → s.pwr.ebb = none →
        ∃ t, exec (.railFault rail) s = .next t ∧ t.now = s.now ∧ EbbBegun s t ∧ Raised t 9 ∧
          (rail = 1 → s.pwr.pages.length = 7 → (t.pwr.page? 1).vout ≠ 0)) ∧
      (∀ c, railChannel rail = some c → (s.chan c).power ≠ .off → (s.chan c).faulted = false →
        ∃ t, exec (.railFault rail) s = .next t ∧ t.now = s.now ∧ Raised t (chSrc c 455) ∧
          ChannelLost { s with pwr := t.pwr, freeCount := t.freeCount } t c 4 [] ∧
          t.pwr = { s.pwr with
            railFault := s.pwr.railFault.set c true, railReq := s.pwr.railReq.set c none, pages := t.pwr.pages })) ∧
    (∀ (baseC stageC : Int) (chC : Quad Int), s.pwr.on = true →
      let hottest := max (max (max (max (max baseC stageC) (chC.get 0)) (chC.get 1)) (chC.get 2)) (chC.get 3)
      let hot (v : Int) : Prop := s.tShut ≤ v
      ∃ t, exec (.thermalSample baseC stageC chC) s = .next t ∧ t.now = s.now ∧ t.pwr.baseC = baseC ∧ t.pwr.stageC = stageC ∧
        t.pwr.chC = chC ∧ 120 ≤ t.pwr.thermalCap ∧ t.pwr.thermalCap ≤ 360 ∧ (hottest < s.tThrottle → t.pwr.thermalCap = 360) ∧
        (s.tThrottle ≤ hottest → (t.pwr.thermalCap : Int) =
          max 120 (360 - (s.field (modI 0x200004) 16 8 : Int) * (hottest - s.tThrottle + 1))) ∧
        (t.pwr.throttle = true ↔ t.pwr.thermalCap < s.capW) ∧ (s.pwr.throttle = false → t.pwr.throttle = true → Raised t 7) ∧
        (∀ d, (s.chan d).power = .on ∨ (s.chan d).power = .idle → hot (chC.get d) → s.pwr.overTemp.get d = false →
          (t.chan d).causes.getLsbD 2 = true) ∧
        ((hot baseC ∨ hot stageC) → s.pwr.ebb = none → t.pwr.ebb = some s.now ∧ t.boot.ready = false ∧ Raised t 8) ∧
        (¬ hot baseC → ¬ hot stageC → (∀ d, ¬ hot (chC.get d)) → RegsSame s t [] ∧
          t = { s with regs := t.regs, ev := t.ev, pwr := t.pwr })) ∧
    (∀ (vin iin : Nat) (chMw : Quad Nat), s.pwr.on = true →
      ∃ t, exec (.inputPowerMeasurement vin iin chMw) s = .next t ∧
        t.pwr.statics = (s.pwr.statics ++ [(vin * iin : Int) - (s.pwr.actMs / 1000 : Nat)]).drop (s.pwr.statics.length + 1 - 8) ∧
        (∃ lo ∈ t.pwr.statics, ∃ hi ∈ t.pwr.statics, lo.toNat ≤ t.pwr.pStatic ∧ t.pwr.pStatic ≤ hi.toNat) ∧
        t = { s with
          freeCount := t.freeCount
          pwr := { s.pwr with
            vin := vin, iin := iin, chMw := chMw, pinDw := vin * iin / 100000, actMs := 0, statics := t.pwr.statics
            pStatic := t.pwr.pStatic } }) ∧
    (let cap := if s.pwr.ebb.isSome then 0 else min s.capW s.pwr.thermalCap
     let budget : Int := (cap : Int) * 1000000 - s.pwr.pStatic
     let act (c : Ch) : Nat := s.energy c (s.chan c).winSlot (s.chan c).winBlk (s.chan c).winFlow (s.chan c).winExt
     let gov := s.bit (modR 0x9000) 0
     let gain (c : Ch) : Int := (s.pwr.charged.get c : Int) - act c
     ∃ t, exec .governorWindow s = .next t ∧ t.now = max s.now (s.pwr.windowAt + usT 1) ∧ t.pwr.windowAt = t.now ∧
       (∀ c, t.pwr.eAct.get c = act c) ∧ (t.pwr.capLow = true ↔ cap * 1000000 ≤ s.pwr.pStatic) ∧
       t.pwr.bucket = (if gov then min (s.pwr.bucket + budget) (4 * budget) + gain 0 + gain 1 + gain 2 + gain 3 else s.pwr.bucket) ∧
       (∀ c, t.pwr.charged.get c = (if gov then 0 else s.pwr.charged.get c)) ∧
       (∀ c, t.pwr.eEst.get c = (if gov = true ∧ 0 < (s.chan c).winSlot then act c / (s.chan c).winSlot else s.pwr.eEst.get c)) ∧
       (t.pwr.hold = true ↔ (gov = true ∧ (t.pwr.bucket ≤ 0 ∨ t.pwr.capLow = true)) ∨ s.pwr.ebb.isSome = true) ∧
       (∀ c, t.chan c = { s.chan c with winSlot := 0, winBlk := 0, winFlow := 0, winExt := 0 }) ∧
       t.reg (modR 0x9108) = satAdd (s.reg (modR 0x9108)) (if s.pwr.heldWin || s.pwr.hold then 1 else 0) ∧
       RegsSame s t [modR 0x9108] ∧ t = { s with now := t.now, regs := t.regs, ev := t.ev, ch := t.ch, pwr := t.pwr }) ∧
    (∀ (c : Ch) (up : Bool), (s.chan c).power = .on ∨ (s.chan c).power = .idle → s.pwr.railReq.get c = some up →
      let v := s.pwr.vcore.get c
      ∃ t, exec (.railStepComplete c) s = .next t ∧ t.pwr.vcore.get c = (if up then v + 5 else v - 5) ∧
        t.pwr = { s.pwr with vcore := t.pwr.vcore, railReq := s.pwr.railReq.set c none } ∧
        (∀ d, d ≠ c → t.pwr.vcore.get d = s.pwr.vcore.get d) ∧ t.field (chR c 0x800C) 0 16 = t.pwr.vcore.get c % 65536 ∧
        t.reg (chR c (if up then 0xE100 else 0xE104)) = satAdd (s.reg (chR c (if up then 0xE100 else 0xE104))) 1 ∧
        RegsSame s t ([0x800C, 0x8008, if up then 0xE100 else 0xE104].map (chR c)) ∧
        t = { s with
          regs := t.regs, ev := t.ev, pwr := t.pwr
          ch := s.ch.set c { s.chan c with maint := { (s.chan c).maint with settle := [], settleAt := s.now } } }) ∧
    (∀ bank : Nat, s.pwr.on = true → s.pwr.ebb = none → 68000 ≤ bank →
      ∃ t, exec (.holdupCharged bank) s = .next t ∧ t.pwr.holdupOk = true ∧ (t.pwr.degraded = true ↔ t.pwr.capUf < 2160) ∧
        (s.pwr.holdupOk = false → Raised t 4) ∧ (s.boot.ready = true → t.boot.ready = true) ∧ RegsSame s t [] ∧
        t = { s with
          regs := t.regs, ev := t.ev, freeCount := t.freeCount, boot := { s.boot with ready := t.boot.ready }
          pwr := { s.pwr with bank := bank, holdupOk := true, capUf := t.pwr.capUf, degraded := t.pwr.degraded } }) ∧
    (∀ (code : Byte) (data : List Byte),
      (∀ b : Byte, s.pwr.page ≤ 6 → b.toNat ≤ 6 →
        exec (.pmbusCommand 0 true [b]) s = .next { s with pwr := { s.pwr with page := b.toNat, reply := [] } }) ∧
      (∀ pages writable, pmbusPages code.toNat = some (pages, writable) → s.pwr.page ∈ pages → code ≠ 3 →
        ∃ t, exec (.pmbusCommand code false data) s = .next t ∧ t = { s with
            freeCount := t.freeCount, pwr := { s.pwr with reply := t.pwr.reply } } ∧
          (code = 0x00 → t.pwr.reply = [BitVec.ofNat 8 s.pwr.page]) ∧ (code = 0x98 → t.pwr.reply = [0x33]) ∧
          (code = 0x99 → t.pwr.reply = [3, 0x4A, 0x48, 0x46]) ∧
          (code = 0x79 → t.pwr.reply = smbWord (s.pwr.page? s.pwr.page).word) ∧
          (code = 0x7A → t.pwr.reply = [(s.pwr.page? s.pwr.page).vout])) ∧
      (∀ write : Bool, pmbusPages code.toNat = none → s.pwr.page < s.pwr.pages.length →
        ∃ t, exec (.pmbusCommand code write data) s = .next t ∧ (t.pwr.page? s.pwr.page).cml.getLsbD 7 = true ∧
          t.pwr.reply = [] ∧ (∀ i, i ≠ s.pwr.page → t.pwr.page? i = s.pwr.page? i) ∧ RegsSame s t [] ∧
          t = { s with regs := t.regs, ev := t.ev, pwr := { s.pwr with pages := t.pwr.pages, reply := [] } })) ∧
    (let cleared (t : State) : Prop :=
       t.pwr.pages.length = s.pwr.pages.length ∧
       ∀ (i : Nat) (q : PageStatus), t.pwr.pages[i]? = some q →
         q.cml = 0 ∧ q.input = (if i = 0 ∧ s.pwr.ride.isSome = true then 0x10 else 0) ∧
         (q.vout ≠ 0 → ∃ c : Ch, i = 2 + c.val ∧ s.pwr.railFault.get c = true ∧ q.vout = (s.pwr.page? i).vout) ∧
         (q.temp ≠ 0 → i = 0 ∨ ∃ c : Ch, i = 2 + c.val ∧ s.pwr.overTemp.get c = true)
     (∃ t, exec .clearFaults s = .next t ∧ cleared t ∧ t = { s with pwr := { s.pwr with pages := t.pwr.pages } }) ∧
     (s.pwr.page ≤ 6 → ∀ data, ∃ t, exec (.pmbusCommand 3 true data) s = .next t ∧ cleared t ∧
       t = { s with pwr := { s.pwr with pages := t.pwr.pages, reply := [] } }))

/-- RESET_N_ASSERT, RESET_N_DEASSERT, MOD_RESET, POWER_UP_START, BASE_PLL_LOCK, REFCLK_MISSING, BOOT_IMAGE_CHECK and
BOOT_CONFIG_APPLY (R217, R426, R474, R492 to R499, Table 20.1). -/
def Obligations.ResetAndStartUp : Prop :=
  ∀ s : State, s.Inv →
    (s.pwr.on = true → s.boot.inReset = false →
      ∃ t, exec .resetNAssert s = .next t ∧ t.now = s.now ∧ WasReset s t true ∧ t.boot.inReset = true ∧ t.pwr.on = true ∧
        t.pwr.bank = s.pwr.bank ∧ t.pwr.pages = s.pwr.pages) ∧
    (∀ pos : BitVec 3, s.pwr.on = true → s.boot.inReset = true →
      exec (.resetNDeassert pos) s = .next { s with
        tideAt := s.now, casc := { s.casc with pos := pos.toNat }
        boot := { s.boot with posPin := pos, inReset := false, stage := 1, stageAt := s.now } }) ∧
    (∀ a : RegAcc, Served s a 0 0x800C →
      ∃ t, exec (.modReset a) s = .next t ∧ t.now = s.now ∧ WasReset s t true ∧ t.boot.inReset = false ∧ t.boot.stage = 1 ∧
        t.boot.stageAt = s.now ∧ t.casc.pos = s.boot.posPin.toNat ∧ t.casc.reach = 0 ∧ t.pwr.on = s.pwr.on ∧ t.pwr.bank = s.pwr.bank) ∧
    (∀ vin : Nat, s.pwr.on = false → 38000 ≤ vin → (∀ c, (s.flash c).prog = []) →
      ∃ t, exec (.powerUpStart vin) s = .next t ∧ t.now = s.now ∧ WasReset s t false ∧ t.boot.inReset = true ∧
        t.pwr = { Supply.reset with on := true, vin := vin, inputOk := true, bank := s.pwr.bank, windowAt := s.now }) ∧
    (s.boot.stage = 1 → s.pwr.pages.length = 7 →
      (∃ t, exec .basePllLock s = .next t ∧ t.boot = { s.boot with pll := true, stage := 2, stageAt := s.now } ∧
        (t.pwr.page? 0).nota = false ∧ t = { s with boot := t.boot, pwr := { s.pwr with pages := t.pwr.pages } }) ∧
      (∃ t, exec .refclkMissing s = .next t ∧ t.now = max s.now (s.boot.stageAt + msT 100) ∧ Raised t 130 ∧
        (t.pwr.page? 0).nota = true ∧ RegsSame s t [] ∧
        t = { s with now := t.now, regs := t.regs, ev := t.ev, pwr := { s.pwr with pages := t.pwr.pages } })) ∧
    (s.boot.stage = 2 →
      let loaded (t : State) (p : Bool) : Prop :=
        t.boot.stage = 3 ∧ t.boot.slot = p ∧ t.boot.version = BitVec.ofNat 32 (imgVersion (s.boot.img p)) ∧
        t.boot.keyIdx = imgKey (s.boot.img p) ∧ t.boot.fail = s.boot.fail
      let stuck (t : State) : Prop := t.boot.stage = 0xF ∧ t.boot.fail = true
      let frame (t : State) (ks : List Nat) : Prop :=
        RegsSame s t ks ∧ t = { s with boot := t.boot, regs := t.regs, ev := t.ev, pwr := { s.pwr with pages := t.pwr.pages } }
      (s.bootFirst = none → ∃ t, exec .bootImageCheck s = .next t ∧ stuck t ∧ frame t []) ∧
      (∀ p, s.bootFirst = some p →
        (s.bootGood p = true → ∃ t, exec .bootImageCheck s = .next t ∧ loaded t p ∧ frame t []) ∧
        (s.bootGood p = false →
          ∃ t, exec .bootImageCheck s = .next t ∧ t.boot.fallback = true ∧ Raised t 129 ∧
            t.reg (modR 0x8118) = satAdd (s.reg (modR 0x8118)) 1 ∧ frame t [modR 0x8118] ∧
            (s.bootGood (!p) = true → loaded t (!p)) ∧ (s.bootGood (!p) = false → stuck t)))) ∧
    (s.boot.stage = 3 →
      let img := s.boot.img s.boot.slot
      let opened (t : State) : Prop :=
        t.boot.stage = 4 ∧ t.bit (modR 0x0014) 0 = true ∧ t.bit (modR 0x1000) 0 = true ∧ Raised t 128 ∧
        t.boot.revoked = s.boot.revoked ||| (BitVec.ofNat 4 (bytesAt img 7 1) &&& ~~~(BitVec.ofNat 4 (2 ^ s.boot.keyIdx))) ∧
        (∀ (c : Ch) (i : Fin 4), fld (t.reg (chR c (0xE000 + 4 * i.val))) 0 16 = fld (Config.calCoeff c i) 0 16) ∧
        (∀ c : Ch, t.bit (modR 0x8008) c.val = true → (s.chan c).power = .off → (s.chan c).req = none →
          s.field (chCtrl c) 1 2 = 0 → (t.chan c).power = .wake ∧ (t.chan c).req = some .on) ∧
        MemSame s t ∧ t.time = s.time ∧ t.rels = s.rels
      (cfgItems img = [] →
        ∃ t, exec .bootConfigApply s = .next t ∧ opened t ∧
          (s.host.state = .down → s.linkSafe = false → s.bit (modR 0x1000) 0 = false → t.host.state = .train)) ∧
      (∀ a v o fs, cfgItems img = [(a, v)] → bootTarget a = some (0, false, o) → modFields o = some fs →
        writeActs 0 o = false → isEventReg o = false → o ≠ 0x14 →
        ∃ t, exec .bootConfigApply s = .next t ∧ opened t ∧
          Landed (s.reg (modR o)) (t.reg (modR o)) (BitVec.ofNat 32 v) fs (s.ownerOf .boot 0 false o).1 (~~~0)) ∧
      (∀ a v rest, cfgItems img = (a, v) :: rest → bootTarget a = none →
        ∃ t, exec .bootConfigApply s = .next t ∧ t.boot.stage = 0xF ∧ t.boot.fail = true ∧
          t.bit (modR 0x0014) 0 = s.bit (modR 0x0014) 0 ∧ RegsSame s t [] ∧
          t = { s with boot := t.boot, regs := t.regs, ev := t.ev, pwr := { s.pwr with pages := t.pwr.pages } }))

/-- JOURNAL_RECORD_CLOSE, JOURNAL_RECORD_COMMIT, STARTUP_RESTORE, BOOT_UPDATE_START and BOOT_UPDATE_END (R478, R502 to R507). That a
start-up restore is STARTUP_RESTORE's turns is the model's choice (log entry 22). -/
def Obligations.NonvolatileStore : Prop :=
  (∀ (c : Ch) (s : State),
    let f := s.flash c
    let may : Prop := f.buf ≠ [] ∧ s.pwr.ebb = none ∧ s.pwr.on = true
    (may → ∃ t, exec (.journalRecordClose c) s = .next t ∧
      t.now = (if 2046 ≤ f.buf.length then s.now else max s.now (f.openedAt + msT 1)) ∧
      t.flash c = { f with
        prog := f.prog ++ [(⟨f.jseq, f.buf.take 2046, true⟩, t.now)], jseq := f.jseq + 1, buf := f.buf.drop 2046
        openedAt := t.now } ∧
      (∀ d, d ≠ c → t.flash d = s.flash d) ∧ t = { s with now := t.now, boot := { s.boot with flash := t.boot.flash } }) ∧
    (¬ may → exec (.journalRecordClose c) s = .next s)) ∧
  (∀ (c : Ch) (s : State) (r : JRec) (at_ : Nat) (rest : List (JRec × Nat)), s.Inv → (s.flash c).prog = (r, at_) :: rest →
    s.pwr.on = true →
    let after := { s.flash c with prog := rest, recs := (s.flash c).recs ++ [r] }
    ((s.chan c).mgr.up = false ∨ after.pct < min (s.field (modR 0x8010) 8 7) 95) →
    ∃ t, exec (.journalRecordCommit c) s = .next t ∧ t.flash c = after ∧ (∀ d, d ≠ c → t.flash d = s.flash d) ∧
      t.reg (modR 0x8100) = satAdd (s.reg (modR 0x8100)) 1 ∧
      (∀ x e, x < 8 → (s.chan c).mgr.exec? x = some e → e.resp.isSome = true → s.writing c x = false →
        (s.bit (modR 0x8010) 0 = true → ∀ j, e.jpos = some j → after.committed j = true) → (t.chan c).mgr.exec? x = none) ∧
      (∀ x e, (s.chan c).mgr.exec? x = some e → e.resp = none → (t.chan c).mgr.exec? x = some e) ∧
      MemSame s t ∧ (∀ d, d ≠ c → t.chan d = s.chan d) ∧ RegsSame s t [modR 0x8100] ∧
      t = { s with regs := t.regs, ev := t.ev, ch := t.ch, egr := t.egr, boot := { s.boot with flash := t.boot.flash } }) ∧
  (∀ (c : Ch) (s : State), s.Inv → s.bit (modR 0x8008) (4 + c.val) = true → (s.flash c).restoreDone = false →
    (s.chan c).power = .on → (s.chan c).mgr.up = true →
    let f := s.flash c
    let m := (s.chan c).mgr
    let run := exec (.startupRestore c) s
    (m.restorer = none → f.newest = none ∨ (∃ img, f.newest = some img ∧ bytesAt img 20 1 ≠ c.val) →
      ∃ t, run = .next t ∧ t.flash c = { f with restoreDone := true } ∧ Raised t 136 ∧ RegsSame s t [] ∧
        t = { s with
          regs := t.regs, ev := t.ev, boot := { s.boot with ready := t.boot.ready, flash := s.boot.flash.set c (t.flash c) } }) ∧
    (∀ img, m.restorer = none → f.newest = some img → bytesAt img 20 1 = c.val →
      let steps := restoreSteps img ((f.replay f.head f.recs.length (bytesAt img 8 8)).1)
      ((∀ h, h < 8 → (m.exec? h).isSome = true) → run = .next s) ∧
      (∀ h it l, h < 8 → m.exec? h = none → (∀ g, g < h → (m.exec? g).isSome = true) → s.writing c h = false →
        steps = .item it :: l → itemType it < 16 →
        let key := wordKey (itemBank it) (itemBlock it) (itemWord it) / 4096
        s.holds c h key = false →
        ∃ t, run = .next t ∧ Asks t c h [key] ∧ Waits t c h 1 [0, tiGen img, f.head] ∧
          (∃ e, (t.chan c).mgr.exec? h = some e ∧ e.mbx = 16 ∧ e.code = 0x81) ∧ OnlyMgr s t c)) ∧
    (∀ h e img, m.restorer = some (h, e) → m.exec? h = some e → e.resp = none → f.generation (e.nums.getD 1 0) = some img →
      let last := if e.phase = 0 then f.head else e.nums.getD 2 0
      let rep := f.replay last f.recs.length (bytesAt img 8 8)
      let steps := restoreSteps img rep.1
      let carried := [steps.length, tiGen img, last]
      (e.want ≠ [] ∨ e.broken.isSome = true → run = .next s) ∧
      (e.want = [] → e.broken = none →
        (∀ it l, e.phase = 1 → steps.drop (e.nums.headD 0) = .item it :: l →
          l = [] ∨ (l = [.bulk] ∧ tiFlows img = false ∧ tiExt img = false) → itemType it < 16 → itemType it ≠ 4 → itemType it ≠ 5 →
          s.holds c h (wordKey (itemBank it) (itemBlock it) (itemWord it) / 4096) = true → ArrayQueue s c →
          ∃ t, run = .next t ∧ (t.chan c).mgr.items = m.items ++ [⟨h, bareItem it⟩] ∧ Waits t c h 2 carried ∧ OnlyMgr s t c) ∧
        (e.phase = 2 → s.writing c h = true → ∃ t, run = .next t ∧ Waits t c h 2 carried ∧ OnlyMgr s t c) ∧
        (e.phase = 2 → s.writing c h = false → ∃ t, run = .next t ∧ Waits t c h 3 carried ∧ MemSame s t ∧ t = { s with ch := t.ch }) ∧
        (e.phase = 3 → (s.chan c).othState = .retiring → run = .next s) ∧
        (e.phase = 3 → (s.chan c).othState ≠ .retiring →
          ∃ t, run = .next t ∧ (t.chan c).mgr.exec? h = none ∧ (t.chan c).mgr.keysOf h = [] ∧ (t.flash c).restoreDone = true ∧
            (t.flash c).truncated = (f.truncated || rep.2) ∧ Raised t 136 ∧
            t.reg (modR 0x8104) = satAdd (s.reg (modR 0x8104)) rep.1.length ∧
            t.reg (modR 0x8108) = (if rep.2 then satAdd (s.reg (modR 0x8108)) 1 else s.reg (modR 0x8108)) ∧
            MemSame s t ∧ RegsSame s t [modR 0x8104, modR 0x8108] ∧
            t = { s with regs := t.regs, ev := t.ev, ch := t.ch, boot := t.boot })))) ∧
  (∀ (a : RegAcc) (s : State), s.Inv → Served s a 0 0x8070 →
    let c : Ch := Fin.ofNat 4 (s.field (modR 0x8070) 1 2)
    let off := s.field (modR 0x8074) 0 32
    let len := s.field (modR 0x8078) 0 32
    let readable : Prop := ((s.chan c).power = .on ∨ (s.chan c).power = .idle) ∧ inWindow off len = true ∧ len ≤ 0x800000 ∧ off % 64 = 0
    ∃ t, exec (.bootUpdateStart a) s = .next t ∧ Acked s t a 0 0x21 [] ∧ RegsSame s t [] ∧
      t = { s with
        host := t.host, egr := t.egr, regs := t.regs, ev := t.ev, boot := { s.boot with updBusy := t.boot.updBusy } } ∧
      (s.boot.updBusy.isSome = true → t.boot.updBusy = s.boot.updBusy) ∧
      (s.boot.updBusy = none →
        (∀ l, readable → (s.chan c).stageBytes a.hf off len = .bytes l →
          t.boot.updBusy = some (l, imageFault true s.boot.revoked l, s.now)) ∧
        (¬ readable ∨ (∃ o, (s.chan c).stageBytes a.hf off len = .bad o) → t.boot.updBusy = some ([], 5, s.now)))) ∧
  (∀ (s : State) (img : List Byte) (result at_ : Nat), s.boot.updBusy = some (img, result, at_) →
    (result = 1 →
      ∃ t, exec (.bootUpdateEnd true) s = .next t ∧ t.boot.img (!s.boot.slot) = img ∧ t.boot.img s.boot.slot = s.boot.img s.boot.slot ∧
        t.boot.prefer = some (!s.boot.slot) ∧ t.boot.updBusy = none ∧ t.boot.updResult = 1 ∧ t.boot.slot = s.boot.slot ∧
        Raised t 139 ∧ RegsSame s t [] ∧ t = { s with boot := t.boot, regs := t.regs, ev := t.ev }) ∧
    (result = 1 →
      ∃ t, exec (.bootUpdateEnd false) s = .next t ∧ t.boot.img s.boot.slot = s.boot.img s.boot.slot ∧
        t.boot.prefer = s.boot.prefer ∧ t.boot.updBusy = none ∧ t.boot.updResult = 6 ∧ t.boot.slot = s.boot.slot ∧
        RegsSame s t [] ∧ t = { s with freeCount := t.freeCount, boot := t.boot, regs := t.regs, ev := t.ev }) ∧
    (∀ written, result ≠ 1 →
      ∃ t, exec (.bootUpdateEnd written) s = .next t ∧ t.boot = { s.boot with updBusy := none, updResult := result } ∧ Raised t 140 ∧
        RegsSame s t [] ∧ t = { s with boot := t.boot, regs := t.regs, ev := t.ev }))
end

