-- ==== Sys2Proof/Laws/Store.lean ====
section
/-! SUPPORT. Sparse stores: a read after a write, and that every operation keeps the canonical form. -/

namespace Sys2Proof.Machine

section
variable {α : Type}

/-- An empty store reads as the default. -/
@[simp] theorem sget_nil (d : Nat → α) (k : Nat) : sget d [] k = d k := rfl

theorem swfFrom_mono [DecidableEq α] {d : Nat → α} {lo j : Nat} (hj : lo ≤ j) :
    ∀ {l : List (Nat × α)}, swfFrom d (some j) l = true → swfFrom d (some lo) l = true
  | [], _ => rfl
  | (k, v) :: t, h => by
    simp only [swfFrom, Bool.and_eq_true, decide_eq_true_eq] at h ⊢
    exact ⟨⟨by omega, h.1.2⟩, h.2⟩

theorem swfFrom_none [DecidableEq α] {d : Nat → α} {j : Nat} :
    ∀ {l : List (Nat × α)}, swfFrom d (some j) l = true → swfFrom d none l = true
  | [], _ => rfl
  | (k, v) :: t, h => by
    simp only [swfFrom, Bool.and_eq_true, decide_eq_true_eq] at h ⊢
    exact ⟨⟨trivial, h.1.2⟩, h.2⟩

/-- Below its first key, a canonical store reads as the default. -/
theorem sget_below [DecidableEq α] {d : Nat → α} {k j : Nat} (hk : k ≤ j) :
    ∀ {l : List (Nat × α)}, swfFrom d (some j) l = true → sget d l k = d k
  | [], _ => rfl
  | (i, v) :: t, h => by
    simp only [swfFrom, Bool.and_eq_true, decide_eq_true_eq] at h
    have : k < i := by omega
    simp [sget, this, Nat.ne_of_gt this]

theorem sset_from [DecidableEq α] {d : Nat → α} {k : Nat} {v : α} :
    ∀ {lo : Option Nat} {l : List (Nat × α)}, swfFrom d lo l = true → (∀ j, lo = some j → j < k) →
      swfFrom d lo (sset d l k v) = true
  | lo, [], _, hk => by
    cases lo with
    | none => by_cases hv : v = d k <;> simp [sset, swfFrom, hv]
    | some j => by_cases hv : v = d k <;> simp [sset, swfFrom, hv, hk j rfl]
  | lo, (i, w) :: t, h, hk => by
    simp only [swfFrom, Bool.and_eq_true, decide_eq_true_eq] at h
    obtain ⟨⟨hlo, hw⟩, ht⟩ := h
    rcases Nat.lt_trichotomy k i with hki | hki | hki
    · by_cases hv : v = d k
      · simp [sset, hki, hv, swfFrom, hlo, hw, ht]
      · cases lo with
        | none => simp [sset, hki, hv, swfFrom, hw, ht]
        | some j => simp [sset, hki, hv, swfFrom, hw, ht, hk j rfl]
    · subst hki
      by_cases hv : v = d k
      · have : swfFrom d lo t = true := by
          cases lo with
          | none => exact swfFrom_none ht
          | some j => exact swfFrom_mono (Nat.le_of_lt (hk j rfl)) ht
        simp [sset, hv, this]
      · cases lo with
        | none => simp [sset, hv, swfFrom, ht]
        | some j => simp [sset, hv, swfFrom, ht, hk j rfl]
    · have := sset_from (d := d) (k := k) (v := v) ht (by intro j hj; cases hj; exact hki)
      have h1 : ¬ k < i := by omega
      have h2 : k ≠ i := by omega
      simp [sset, h1, h2, swfFrom, hlo, hw, this]

/-- A write keeps the canonical form. -/
@[simp] theorem sset_swf [DecidableEq α] {d : Nat → α} {l : List (Nat × α)} {k : Nat} {v : α}
    (h : swf d l = true) : swf d (sset d l k v) = true :=
  sset_from h (by simp)

/-- A read of the key just written gives the value written (in a canonical store). -/
theorem sget_sset_from [DecidableEq α] {d : Nat → α} {k : Nat} {v : α} :
    ∀ {lo : Option Nat} {l : List (Nat × α)}, swfFrom d lo l = true → sget d (sset d l k v) k = v
  | lo, [], _ => by by_cases hv : v = d k <;> simp [sset, sget, hv]
  | lo, (i, w) :: t, h => by
    simp only [swfFrom, Bool.and_eq_true, decide_eq_true_eq] at h
    obtain ⟨_, ht⟩ := h
    rcases Nat.lt_trichotomy k i with hki | hki | hki
    · by_cases hv : v = d k
      · simp [sset, hki, hv, sget, Nat.ne_of_gt hki]
      · simp [sset, hki, hv, sget]
    · subst hki
      by_cases hv : v = d k
      · simp [sset, hv, sget_below (Nat.le_refl k) ht]
      · simp [sset, hv, sget]
    · have h1 : ¬ k < i := by omega
      have h2 : k ≠ i := by omega
      simp [sset, h1, h2, sget, Ne.symm h2, sget_sset_from ht]

/-- A read after a write to the same key. -/
theorem sget_sset_same [DecidableEq α] {d : Nat → α} {l : List (Nat × α)} {k : Nat} {v : α}
    (h : swf d l = true) : sget d (sset d l k v) k = v := sget_sset_from h

/-- A write leaves every other key alone. -/
theorem sget_sset_other [DecidableEq α] {d : Nat → α} {k j : Nat} {v : α} (hkj : j ≠ k) :
    ∀ {lo : Option Nat} {l : List (Nat × α)}, swfFrom d lo l = true → sget d (sset d l k v) j = sget d l j
  | lo, [], _ => by
    by_cases hv : v = d k
    · simp [sset, hv]
    · simp [sset, sget, hv, Ne.symm hkj]
  | lo, (i, w) :: t, h => by
    simp only [swfFrom, Bool.and_eq_true, decide_eq_true_eq] at h
    obtain ⟨_, ht⟩ := h
    rcases Nat.lt_trichotomy k i with hki | hki | hki
    · by_cases hv : v = d k
      · simp [sset, hki, hv]
      · simp only [sset, hki, hv, if_true, if_false, sget]
        by_cases h1 : k = j
        · omega
        · by_cases h2 : j < k
          · have h3 : j < i := by omega
            simp [h1, h2, h3, Nat.ne_of_gt h3]
          · simp [h1, h2]
    · subst hki
      by_cases hv : v = d k
      · simp only [sset, Nat.lt_irrefl, if_false, hv, if_true, sget]
        by_cases h2 : j < k
        · simp [h2, Ne.symm hkj, sget_below (Nat.le_of_lt h2) ht]
        · simp [h2, Ne.symm hkj]
      · simp [sset, hv, sget]
        simp [Ne.symm hkj]
    · have h1 : ¬ k < i := by omega
      have h2 : k ≠ i := by omega
      simp only [sset, h1, h2, if_false, sget]
      by_cases h3 : i = j
      · simp [h3]
      · by_cases h4 : j < i
        · simp [h3, h4]
        · simp only [h3, h4, if_false]
          exact sget_sset_other hkj ht

/-- What every key reads after a write. -/
theorem sget_sset [DecidableEq α] {d : Nat → α} {l : List (Nat × α)} {k j : Nat} {v : α} (h : swf d l = true) :
    sget d (sset d l k v) j = if j = k then v else sget d l j := by
  by_cases hjk : j = k
  · subst hjk; simp [sget_sset_same h]
  · simp [hjk, sget_sset_other hjk h]

theorem swfFrom_filter [DecidableEq α] {d : Nat → α} (p : Nat × α → Bool) :
    ∀ {lo : Option Nat} {l : List (Nat × α)}, swfFrom d lo l = true → swfFrom d lo (l.filter p) = true
  | lo, [], _ => rfl
  | lo, (k, v) :: t, h => by
    simp only [swfFrom, Bool.and_eq_true, decide_eq_true_eq] at h
    obtain ⟨⟨hlo, hv⟩, ht⟩ := h
    have ih := swfFrom_filter p ht
    by_cases hp : p (k, v) = true
    · simp [List.filter, hp, swfFrom, hlo, hv, ih]
    · have : List.filter p ((k, v) :: t) = List.filter p t := by simp [hp]
      rw [this]
      cases lo with
      | none => exact swfFrom_none ih
      | some j => exact swfFrom_mono (Nat.le_of_lt (by simpa using hlo)) ih

/-- Removing entries keeps the canonical form. -/
@[simp] theorem filter_swf [DecidableEq α] {d : Nat → α} {l : List (Nat × α)} (p : Nat × α → Bool)
    (h : swf d l = true) : swf d (l.filter p) = true := swfFrom_filter p h

@[simp] theorem swf_nil [DecidableEq α] {d : Nat → α} : swf d [] = true := rfl

end

/-- Replacing an element keeps the length. -/
@[simp] theorem modAt_length {α : Type} (f : α → α) : ∀ (i : Nat) (l : List α), (modAt i f l).length = l.length
  | 0, [] => rfl
  | _ + 1, [] => rfl
  | 0, _ :: _ => rfl
  | i + 1, _ :: t => by simp [modAt, modAt_length f i t]

end Sys2Proof.Machine
end

