-- ==== Sys2Proof/Laws/State.lean ====
section
/-! SUPPORT. What each primitive operation leaves as it was, one lemma for each field of the state. -/

namespace Sys2Proof.Machine

variable (s : State)

/-! ### setReg -/

@[simp] theorem State.setReg_now (k : Nat) (v : Word) : (s.setReg k v).now = s.now := rfl
@[simp] theorem State.setReg_pending (k : Nat) (v : Word) : (s.setReg k v).pending = s.pending := rfl
@[simp] theorem State.setReg_parity (k : Nat) (v : Word) : (s.setReg k v).parity = s.parity := rfl
@[simp] theorem State.setReg_late (k : Nat) (v : Word) : (s.setReg k v).late = s.late := rfl
@[simp] theorem State.setReg_regRanks (k : Nat) (v : Word) : (s.setReg k v).regRanks = s.regRanks := rfl
@[simp] theorem State.setReg_freeCount (k : Nat) (v : Word) : (s.setReg k v).freeCount = s.freeCount := rfl
@[simp] theorem State.setReg_ch (k : Nat) (v : Word) : (s.setReg k v).ch = s.ch := rfl
@[simp] theorem State.setReg_host (k : Nat) (v : Word) : (s.setReg k v).host = s.host := rfl
@[simp] theorem State.setReg_up (k : Nat) (v : Word) : (s.setReg k v).up = s.up := rfl
@[simp] theorem State.setReg_dn (k : Nat) (v : Word) : (s.setReg k v).dn = s.dn := rfl
@[simp] theorem State.setReg_vc0 (k : Nat) (v : Word) : (s.setReg k v).vc0 = s.vc0 := rfl
@[simp] theorem State.setReg_vc2 (k : Nat) (v : Word) : (s.setReg k v).vc2 = s.vc2 := rfl
@[simp] theorem State.setReg_rels (k : Nat) (v : Word) : (s.setReg k v).rels = s.rels := rfl
@[simp] theorem State.setReg_domains (k : Nat) (v : Word) : (s.setReg k v).domains = s.domains := rfl
@[simp] theorem State.setReg_oldTags (k : Nat) (v : Word) : (s.setReg k v).oldTags = s.oldTags := rfl
@[simp] theorem State.setReg_egr (k : Nat) (v : Word) : (s.setReg k v).egr = s.egr := rfl
@[simp] theorem State.setReg_casc (k : Nat) (v : Word) : (s.setReg k v).casc = s.casc := rfl
@[simp] theorem State.setReg_ev (k : Nat) (v : Word) : (s.setReg k v).ev = s.ev := rfl
@[simp] theorem State.setReg_time (k : Nat) (v : Word) : (s.setReg k v).time = s.time := rfl
@[simp] theorem State.setReg_ind (k : Nat) (v : Word) : (s.setReg k v).ind = s.ind := rfl
@[simp] theorem State.setReg_tideAt (k : Nat) (v : Word) : (s.setReg k v).tideAt = s.tideAt := rfl
@[simp] theorem State.setReg_pwr (k : Nat) (v : Word) : (s.setReg k v).pwr = s.pwr := rfl
@[simp] theorem State.setReg_boot (k : Nat) (v : Word) : (s.setReg k v).boot = s.boot := rfl
@[simp] theorem State.setReg_chan (k : Nat) (v : Word) (d : Ch) : (s.setReg k v).chan d = s.chan d := by simp [State.chan]

/-! ### setField -/

@[simp] theorem State.setField_now (k lo n v : Nat) : (s.setField k lo n v).now = s.now := rfl
@[simp] theorem State.setField_pending (k lo n v : Nat) : (s.setField k lo n v).pending = s.pending := rfl
@[simp] theorem State.setField_parity (k lo n v : Nat) : (s.setField k lo n v).parity = s.parity := rfl
@[simp] theorem State.setField_late (k lo n v : Nat) : (s.setField k lo n v).late = s.late := rfl
@[simp] theorem State.setField_regRanks (k lo n v : Nat) : (s.setField k lo n v).regRanks = s.regRanks := rfl
@[simp] theorem State.setField_freeCount (k lo n v : Nat) : (s.setField k lo n v).freeCount = s.freeCount := rfl
@[simp] theorem State.setField_ch (k lo n v : Nat) : (s.setField k lo n v).ch = s.ch := rfl
@[simp] theorem State.setField_host (k lo n v : Nat) : (s.setField k lo n v).host = s.host := rfl
@[simp] theorem State.setField_up (k lo n v : Nat) : (s.setField k lo n v).up = s.up := rfl
@[simp] theorem State.setField_dn (k lo n v : Nat) : (s.setField k lo n v).dn = s.dn := rfl
@[simp] theorem State.setField_vc0 (k lo n v : Nat) : (s.setField k lo n v).vc0 = s.vc0 := rfl
@[simp] theorem State.setField_vc2 (k lo n v : Nat) : (s.setField k lo n v).vc2 = s.vc2 := rfl
@[simp] theorem State.setField_rels (k lo n v : Nat) : (s.setField k lo n v).rels = s.rels := rfl
@[simp] theorem State.setField_domains (k lo n v : Nat) : (s.setField k lo n v).domains = s.domains := rfl
@[simp] theorem State.setField_oldTags (k lo n v : Nat) : (s.setField k lo n v).oldTags = s.oldTags := rfl
@[simp] theorem State.setField_egr (k lo n v : Nat) : (s.setField k lo n v).egr = s.egr := rfl
@[simp] theorem State.setField_casc (k lo n v : Nat) : (s.setField k lo n v).casc = s.casc := rfl
@[simp] theorem State.setField_ev (k lo n v : Nat) : (s.setField k lo n v).ev = s.ev := rfl
@[simp] theorem State.setField_time (k lo n v : Nat) : (s.setField k lo n v).time = s.time := rfl
@[simp] theorem State.setField_ind (k lo n v : Nat) : (s.setField k lo n v).ind = s.ind := rfl
@[simp] theorem State.setField_tideAt (k lo n v : Nat) : (s.setField k lo n v).tideAt = s.tideAt := rfl
@[simp] theorem State.setField_pwr (k lo n v : Nat) : (s.setField k lo n v).pwr = s.pwr := rfl
@[simp] theorem State.setField_boot (k lo n v : Nat) : (s.setField k lo n v).boot = s.boot := rfl
@[simp] theorem State.setField_chan (k lo n v : Nat) (d : Ch) : (s.setField k lo n v).chan d = s.chan d := by simp [State.chan]

/-! ### setB -/

@[simp] theorem State.setB_now (k i : Nat) (b : Bool) : (s.setB k i b).now = s.now := rfl
@[simp] theorem State.setB_pending (k i : Nat) (b : Bool) : (s.setB k i b).pending = s.pending := rfl
@[simp] theorem State.setB_parity (k i : Nat) (b : Bool) : (s.setB k i b).parity = s.parity := rfl
@[simp] theorem State.setB_late (k i : Nat) (b : Bool) : (s.setB k i b).late = s.late := rfl
@[simp] theorem State.setB_regRanks (k i : Nat) (b : Bool) : (s.setB k i b).regRanks = s.regRanks := rfl
@[simp] theorem State.setB_freeCount (k i : Nat) (b : Bool) : (s.setB k i b).freeCount = s.freeCount := rfl
@[simp] theorem State.setB_ch (k i : Nat) (b : Bool) : (s.setB k i b).ch = s.ch := rfl
@[simp] theorem State.setB_host (k i : Nat) (b : Bool) : (s.setB k i b).host = s.host := rfl
@[simp] theorem State.setB_up (k i : Nat) (b : Bool) : (s.setB k i b).up = s.up := rfl
@[simp] theorem State.setB_dn (k i : Nat) (b : Bool) : (s.setB k i b).dn = s.dn := rfl
@[simp] theorem State.setB_vc0 (k i : Nat) (b : Bool) : (s.setB k i b).vc0 = s.vc0 := rfl
@[simp] theorem State.setB_vc2 (k i : Nat) (b : Bool) : (s.setB k i b).vc2 = s.vc2 := rfl
@[simp] theorem State.setB_rels (k i : Nat) (b : Bool) : (s.setB k i b).rels = s.rels := rfl
@[simp] theorem State.setB_domains (k i : Nat) (b : Bool) : (s.setB k i b).domains = s.domains := rfl
@[simp] theorem State.setB_oldTags (k i : Nat) (b : Bool) : (s.setB k i b).oldTags = s.oldTags := rfl
@[simp] theorem State.setB_egr (k i : Nat) (b : Bool) : (s.setB k i b).egr = s.egr := rfl
@[simp] theorem State.setB_casc (k i : Nat) (b : Bool) : (s.setB k i b).casc = s.casc := rfl
@[simp] theorem State.setB_ev (k i : Nat) (b : Bool) : (s.setB k i b).ev = s.ev := rfl
@[simp] theorem State.setB_time (k i : Nat) (b : Bool) : (s.setB k i b).time = s.time := rfl
@[simp] theorem State.setB_ind (k i : Nat) (b : Bool) : (s.setB k i b).ind = s.ind := rfl
@[simp] theorem State.setB_tideAt (k i : Nat) (b : Bool) : (s.setB k i b).tideAt = s.tideAt := rfl
@[simp] theorem State.setB_pwr (k i : Nat) (b : Bool) : (s.setB k i b).pwr = s.pwr := rfl
@[simp] theorem State.setB_boot (k i : Nat) (b : Bool) : (s.setB k i b).boot = s.boot := rfl
@[simp] theorem State.setB_chan (k i : Nat) (b : Bool) (d : Ch) : (s.setB k i b).chan d = s.chan d := by simp [State.chan]

/-! ### count -/

@[simp] theorem State.count_now (k n : Nat) : (s.count k n).now = s.now := rfl
@[simp] theorem State.count_pending (k n : Nat) : (s.count k n).pending = s.pending := rfl
@[simp] theorem State.count_parity (k n : Nat) : (s.count k n).parity = s.parity := rfl
@[simp] theorem State.count_late (k n : Nat) : (s.count k n).late = s.late := rfl
@[simp] theorem State.count_regRanks (k n : Nat) : (s.count k n).regRanks = s.regRanks := rfl
@[simp] theorem State.count_freeCount (k n : Nat) : (s.count k n).freeCount = s.freeCount := rfl
@[simp] theorem State.count_ch (k n : Nat) : (s.count k n).ch = s.ch := rfl
@[simp] theorem State.count_host (k n : Nat) : (s.count k n).host = s.host := rfl
@[simp] theorem State.count_up (k n : Nat) : (s.count k n).up = s.up := rfl
@[simp] theorem State.count_dn (k n : Nat) : (s.count k n).dn = s.dn := rfl
@[simp] theorem State.count_vc0 (k n : Nat) : (s.count k n).vc0 = s.vc0 := rfl
@[simp] theorem State.count_vc2 (k n : Nat) : (s.count k n).vc2 = s.vc2 := rfl
@[simp] theorem State.count_rels (k n : Nat) : (s.count k n).rels = s.rels := rfl
@[simp] theorem State.count_domains (k n : Nat) : (s.count k n).domains = s.domains := rfl
@[simp] theorem State.count_oldTags (k n : Nat) : (s.count k n).oldTags = s.oldTags := rfl
@[simp] theorem State.count_egr (k n : Nat) : (s.count k n).egr = s.egr := rfl
@[simp] theorem State.count_casc (k n : Nat) : (s.count k n).casc = s.casc := rfl
@[simp] theorem State.count_ev (k n : Nat) : (s.count k n).ev = s.ev := rfl
@[simp] theorem State.count_time (k n : Nat) : (s.count k n).time = s.time := rfl
@[simp] theorem State.count_ind (k n : Nat) : (s.count k n).ind = s.ind := rfl
@[simp] theorem State.count_tideAt (k n : Nat) : (s.count k n).tideAt = s.tideAt := rfl
@[simp] theorem State.count_pwr (k n : Nat) : (s.count k n).pwr = s.pwr := rfl
@[simp] theorem State.count_boot (k n : Nat) : (s.count k n).boot = s.boot := rfl
@[simp] theorem State.count_chan (k n : Nat) (d : Ch) : (s.count k n).chan d = s.chan d := by simp [State.chan]

/-! ### countIf -/

@[simp] theorem State.countIf_now (p : Bool) (k : Nat) : (s.countIf p k).now = s.now := by unfold State.countIf; split <;> rfl
@[simp] theorem State.countIf_pending (p : Bool) (k : Nat) : (s.countIf p k).pending = s.pending := by unfold State.countIf; split <;> rfl
@[simp] theorem State.countIf_parity (p : Bool) (k : Nat) : (s.countIf p k).parity = s.parity := by unfold State.countIf; split <;> rfl
@[simp] theorem State.countIf_late (p : Bool) (k : Nat) : (s.countIf p k).late = s.late := by unfold State.countIf; split <;> rfl
@[simp] theorem State.countIf_regRanks (p : Bool) (k : Nat) : (s.countIf p k).regRanks = s.regRanks := by unfold State.countIf; split <;> rfl
@[simp] theorem State.countIf_freeCount (p : Bool) (k : Nat) : (s.countIf p k).freeCount = s.freeCount := by unfold State.countIf; split <;> rfl
@[simp] theorem State.countIf_ch (p : Bool) (k : Nat) : (s.countIf p k).ch = s.ch := by unfold State.countIf; split <;> rfl
@[simp] theorem State.countIf_host (p : Bool) (k : Nat) : (s.countIf p k).host = s.host := by unfold State.countIf; split <;> rfl
@[simp] theorem State.countIf_up (p : Bool) (k : Nat) : (s.countIf p k).up = s.up := by unfold State.countIf; split <;> rfl
@[simp] theorem State.countIf_dn (p : Bool) (k : Nat) : (s.countIf p k).dn = s.dn := by unfold State.countIf; split <;> rfl
@[simp] theorem State.countIf_vc0 (p : Bool) (k : Nat) : (s.countIf p k).vc0 = s.vc0 := by unfold State.countIf; split <;> rfl
@[simp] theorem State.countIf_vc2 (p : Bool) (k : Nat) : (s.countIf p k).vc2 = s.vc2 := by unfold State.countIf; split <;> rfl
@[simp] theorem State.countIf_rels (p : Bool) (k : Nat) : (s.countIf p k).rels = s.rels := by unfold State.countIf; split <;> rfl
@[simp] theorem State.countIf_domains (p : Bool) (k : Nat) : (s.countIf p k).domains = s.domains := by unfold State.countIf; split <;> rfl
@[simp] theorem State.countIf_oldTags (p : Bool) (k : Nat) : (s.countIf p k).oldTags = s.oldTags := by unfold State.countIf; split <;> rfl
@[simp] theorem State.countIf_egr (p : Bool) (k : Nat) : (s.countIf p k).egr = s.egr := by unfold State.countIf; split <;> rfl
@[simp] theorem State.countIf_casc (p : Bool) (k : Nat) : (s.countIf p k).casc = s.casc := by unfold State.countIf; split <;> rfl
@[simp] theorem State.countIf_ev (p : Bool) (k : Nat) : (s.countIf p k).ev = s.ev := by unfold State.countIf; split <;> rfl
@[simp] theorem State.countIf_time (p : Bool) (k : Nat) : (s.countIf p k).time = s.time := by unfold State.countIf; split <;> rfl
@[simp] theorem State.countIf_ind (p : Bool) (k : Nat) : (s.countIf p k).ind = s.ind := by unfold State.countIf; split <;> rfl
@[simp] theorem State.countIf_tideAt (p : Bool) (k : Nat) : (s.countIf p k).tideAt = s.tideAt := by unfold State.countIf; split <;> rfl
@[simp] theorem State.countIf_pwr (p : Bool) (k : Nat) : (s.countIf p k).pwr = s.pwr := by unfold State.countIf; split <;> rfl
@[simp] theorem State.countIf_boot (p : Bool) (k : Nat) : (s.countIf p k).boot = s.boot := by unfold State.countIf; split <;> rfl
@[simp] theorem State.countIf_chan (p : Bool) (k : Nat) (d : Ch) : (s.countIf p k).chan d = s.chan d := by simp [State.chan]

/-! ### capture -/

@[simp] theorem State.capture_now (k v : Nat) : (s.capture k v).now = s.now := by unfold State.capture; split <;> rfl
@[simp] theorem State.capture_pending (k v : Nat) : (s.capture k v).pending = s.pending := by unfold State.capture; split <;> rfl
@[simp] theorem State.capture_parity (k v : Nat) : (s.capture k v).parity = s.parity := by unfold State.capture; split <;> rfl
@[simp] theorem State.capture_late (k v : Nat) : (s.capture k v).late = s.late := by unfold State.capture; split <;> rfl
@[simp] theorem State.capture_regRanks (k v : Nat) : (s.capture k v).regRanks = s.regRanks := by unfold State.capture; split <;> rfl
@[simp] theorem State.capture_freeCount (k v : Nat) : (s.capture k v).freeCount = s.freeCount := by unfold State.capture; split <;> rfl
@[simp] theorem State.capture_ch (k v : Nat) : (s.capture k v).ch = s.ch := by unfold State.capture; split <;> rfl
@[simp] theorem State.capture_host (k v : Nat) : (s.capture k v).host = s.host := by unfold State.capture; split <;> rfl
@[simp] theorem State.capture_up (k v : Nat) : (s.capture k v).up = s.up := by unfold State.capture; split <;> rfl
@[simp] theorem State.capture_dn (k v : Nat) : (s.capture k v).dn = s.dn := by unfold State.capture; split <;> rfl
@[simp] theorem State.capture_vc0 (k v : Nat) : (s.capture k v).vc0 = s.vc0 := by unfold State.capture; split <;> rfl
@[simp] theorem State.capture_vc2 (k v : Nat) : (s.capture k v).vc2 = s.vc2 := by unfold State.capture; split <;> rfl
@[simp] theorem State.capture_rels (k v : Nat) : (s.capture k v).rels = s.rels := by unfold State.capture; split <;> rfl
@[simp] theorem State.capture_domains (k v : Nat) : (s.capture k v).domains = s.domains := by unfold State.capture; split <;> rfl
@[simp] theorem State.capture_oldTags (k v : Nat) : (s.capture k v).oldTags = s.oldTags := by unfold State.capture; split <;> rfl
@[simp] theorem State.capture_egr (k v : Nat) : (s.capture k v).egr = s.egr := by unfold State.capture; split <;> rfl
@[simp] theorem State.capture_casc (k v : Nat) : (s.capture k v).casc = s.casc := by unfold State.capture; split <;> rfl
@[simp] theorem State.capture_ev (k v : Nat) : (s.capture k v).ev = s.ev := by unfold State.capture; split <;> rfl
@[simp] theorem State.capture_time (k v : Nat) : (s.capture k v).time = s.time := by unfold State.capture; split <;> rfl
@[simp] theorem State.capture_ind (k v : Nat) : (s.capture k v).ind = s.ind := by unfold State.capture; split <;> rfl
@[simp] theorem State.capture_tideAt (k v : Nat) : (s.capture k v).tideAt = s.tideAt := by unfold State.capture; split <;> rfl
@[simp] theorem State.capture_pwr (k v : Nat) : (s.capture k v).pwr = s.pwr := by unfold State.capture; split <;> rfl
@[simp] theorem State.capture_boot (k v : Nat) : (s.capture k v).boot = s.boot := by unfold State.capture; split <;> rfl
@[simp] theorem State.capture_chan (k v : Nat) (d : Ch) : (s.capture k v).chan d = s.chan d := by simp [State.chan]

/-! ### atTime -/

@[simp] theorem State.atTime_pending (t : Nat) : (s.atTime t).pending = s.pending := rfl
@[simp] theorem State.atTime_regs (t : Nat) : (s.atTime t).regs = s.regs := rfl
@[simp] theorem State.atTime_parity (t : Nat) : (s.atTime t).parity = s.parity := rfl
@[simp] theorem State.atTime_late (t : Nat) : (s.atTime t).late = s.late := rfl
@[simp] theorem State.atTime_regRanks (t : Nat) : (s.atTime t).regRanks = s.regRanks := rfl
@[simp] theorem State.atTime_freeCount (t : Nat) : (s.atTime t).freeCount = s.freeCount := rfl
@[simp] theorem State.atTime_ch (t : Nat) : (s.atTime t).ch = s.ch := rfl
@[simp] theorem State.atTime_host (t : Nat) : (s.atTime t).host = s.host := rfl
@[simp] theorem State.atTime_up (t : Nat) : (s.atTime t).up = s.up := rfl
@[simp] theorem State.atTime_dn (t : Nat) : (s.atTime t).dn = s.dn := rfl
@[simp] theorem State.atTime_vc0 (t : Nat) : (s.atTime t).vc0 = s.vc0 := rfl
@[simp] theorem State.atTime_vc2 (t : Nat) : (s.atTime t).vc2 = s.vc2 := rfl
@[simp] theorem State.atTime_rels (t : Nat) : (s.atTime t).rels = s.rels := rfl
@[simp] theorem State.atTime_domains (t : Nat) : (s.atTime t).domains = s.domains := rfl
@[simp] theorem State.atTime_oldTags (t : Nat) : (s.atTime t).oldTags = s.oldTags := rfl
@[simp] theorem State.atTime_egr (t : Nat) : (s.atTime t).egr = s.egr := rfl
@[simp] theorem State.atTime_casc (t : Nat) : (s.atTime t).casc = s.casc := rfl
@[simp] theorem State.atTime_ev (t : Nat) : (s.atTime t).ev = s.ev := rfl
@[simp] theorem State.atTime_time (t : Nat) : (s.atTime t).time = s.time := rfl
@[simp] theorem State.atTime_ind (t : Nat) : (s.atTime t).ind = s.ind := rfl
@[simp] theorem State.atTime_tideAt (t : Nat) : (s.atTime t).tideAt = s.tideAt := rfl
@[simp] theorem State.atTime_pwr (t : Nat) : (s.atTime t).pwr = s.pwr := rfl
@[simp] theorem State.atTime_boot (t : Nat) : (s.atTime t).boot = s.boot := rfl
@[simp] theorem State.atTime_reg (t : Nat) (r : Nat) : (s.atTime t).reg r = s.reg r := rfl
@[simp] theorem State.atTime_chan (t : Nat) (d : Ch) : (s.atTime t).chan d = s.chan d := by simp [State.chan]

/-! ### setChan -/

@[simp] theorem State.setChan_now (c : Ch) (x : Chan) : (s.setChan c x).now = s.now := rfl
@[simp] theorem State.setChan_pending (c : Ch) (x : Chan) : (s.setChan c x).pending = s.pending := rfl
@[simp] theorem State.setChan_regs (c : Ch) (x : Chan) : (s.setChan c x).regs = s.regs := rfl
@[simp] theorem State.setChan_parity (c : Ch) (x : Chan) : (s.setChan c x).parity = s.parity := rfl
@[simp] theorem State.setChan_late (c : Ch) (x : Chan) : (s.setChan c x).late = s.late := rfl
@[simp] theorem State.setChan_regRanks (c : Ch) (x : Chan) : (s.setChan c x).regRanks = s.regRanks := rfl
@[simp] theorem State.setChan_freeCount (c : Ch) (x : Chan) : (s.setChan c x).freeCount = s.freeCount := rfl
@[simp] theorem State.setChan_host (c : Ch) (x : Chan) : (s.setChan c x).host = s.host := rfl
@[simp] theorem State.setChan_up (c : Ch) (x : Chan) : (s.setChan c x).up = s.up := rfl
@[simp] theorem State.setChan_dn (c : Ch) (x : Chan) : (s.setChan c x).dn = s.dn := rfl
@[simp] theorem State.setChan_vc0 (c : Ch) (x : Chan) : (s.setChan c x).vc0 = s.vc0 := rfl
@[simp] theorem State.setChan_vc2 (c : Ch) (x : Chan) : (s.setChan c x).vc2 = s.vc2 := rfl
@[simp] theorem State.setChan_rels (c : Ch) (x : Chan) : (s.setChan c x).rels = s.rels := rfl
@[simp] theorem State.setChan_domains (c : Ch) (x : Chan) : (s.setChan c x).domains = s.domains := rfl
@[simp] theorem State.setChan_oldTags (c : Ch) (x : Chan) : (s.setChan c x).oldTags = s.oldTags := rfl
@[simp] theorem State.setChan_egr (c : Ch) (x : Chan) : (s.setChan c x).egr = s.egr := rfl
@[simp] theorem State.setChan_casc (c : Ch) (x : Chan) : (s.setChan c x).casc = s.casc := rfl
@[simp] theorem State.setChan_ev (c : Ch) (x : Chan) : (s.setChan c x).ev = s.ev := rfl
@[simp] theorem State.setChan_time (c : Ch) (x : Chan) : (s.setChan c x).time = s.time := rfl
@[simp] theorem State.setChan_ind (c : Ch) (x : Chan) : (s.setChan c x).ind = s.ind := rfl
@[simp] theorem State.setChan_tideAt (c : Ch) (x : Chan) : (s.setChan c x).tideAt = s.tideAt := rfl
@[simp] theorem State.setChan_pwr (c : Ch) (x : Chan) : (s.setChan c x).pwr = s.pwr := rfl
@[simp] theorem State.setChan_boot (c : Ch) (x : Chan) : (s.setChan c x).boot = s.boot := rfl
@[simp] theorem State.setChan_reg (c : Ch) (x : Chan) (r : Nat) : (s.setChan c x).reg r = s.reg r := rfl

/-! ### modChan -/

@[simp] theorem State.modChan_now (c : Ch) (f : Chan → Chan) : (s.modChan c f).now = s.now := rfl
@[simp] theorem State.modChan_pending (c : Ch) (f : Chan → Chan) : (s.modChan c f).pending = s.pending := rfl
@[simp] theorem State.modChan_regs (c : Ch) (f : Chan → Chan) : (s.modChan c f).regs = s.regs := rfl
@[simp] theorem State.modChan_parity (c : Ch) (f : Chan → Chan) : (s.modChan c f).parity = s.parity := rfl
@[simp] theorem State.modChan_late (c : Ch) (f : Chan → Chan) : (s.modChan c f).late = s.late := rfl
@[simp] theorem State.modChan_regRanks (c : Ch) (f : Chan → Chan) : (s.modChan c f).regRanks = s.regRanks := rfl
@[simp] theorem State.modChan_freeCount (c : Ch) (f : Chan → Chan) : (s.modChan c f).freeCount = s.freeCount := rfl
@[simp] theorem State.modChan_host (c : Ch) (f : Chan → Chan) : (s.modChan c f).host = s.host := rfl
@[simp] theorem State.modChan_up (c : Ch) (f : Chan → Chan) : (s.modChan c f).up = s.up := rfl
@[simp] theorem State.modChan_dn (c : Ch) (f : Chan → Chan) : (s.modChan c f).dn = s.dn := rfl
@[simp] theorem State.modChan_vc0 (c : Ch) (f : Chan → Chan) : (s.modChan c f).vc0 = s.vc0 := rfl
@[simp] theorem State.modChan_vc2 (c : Ch) (f : Chan → Chan) : (s.modChan c f).vc2 = s.vc2 := rfl
@[simp] theorem State.modChan_rels (c : Ch) (f : Chan → Chan) : (s.modChan c f).rels = s.rels := rfl
@[simp] theorem State.modChan_domains (c : Ch) (f : Chan → Chan) : (s.modChan c f).domains = s.domains := rfl
@[simp] theorem State.modChan_oldTags (c : Ch) (f : Chan → Chan) : (s.modChan c f).oldTags = s.oldTags := rfl
@[simp] theorem State.modChan_egr (c : Ch) (f : Chan → Chan) : (s.modChan c f).egr = s.egr := rfl
@[simp] theorem State.modChan_casc (c : Ch) (f : Chan → Chan) : (s.modChan c f).casc = s.casc := rfl
@[simp] theorem State.modChan_ev (c : Ch) (f : Chan → Chan) : (s.modChan c f).ev = s.ev := rfl
@[simp] theorem State.modChan_time (c : Ch) (f : Chan → Chan) : (s.modChan c f).time = s.time := rfl
@[simp] theorem State.modChan_ind (c : Ch) (f : Chan → Chan) : (s.modChan c f).ind = s.ind := rfl
@[simp] theorem State.modChan_tideAt (c : Ch) (f : Chan → Chan) : (s.modChan c f).tideAt = s.tideAt := rfl
@[simp] theorem State.modChan_pwr (c : Ch) (f : Chan → Chan) : (s.modChan c f).pwr = s.pwr := rfl
@[simp] theorem State.modChan_boot (c : Ch) (f : Chan → Chan) : (s.modChan c f).boot = s.boot := rfl
@[simp] theorem State.modChan_reg (c : Ch) (f : Chan → Chan) (r : Nat) : (s.modChan c f).reg r = s.reg r := rfl

/-! ### modFlow -/

@[simp] theorem State.modFlow_now (c : Ch) (f : FlowEngine → FlowEngine) : (s.modFlow c f).now = s.now := rfl
@[simp] theorem State.modFlow_pending (c : Ch) (f : FlowEngine → FlowEngine) : (s.modFlow c f).pending = s.pending := rfl
@[simp] theorem State.modFlow_regs (c : Ch) (f : FlowEngine → FlowEngine) : (s.modFlow c f).regs = s.regs := rfl
@[simp] theorem State.modFlow_parity (c : Ch) (f : FlowEngine → FlowEngine) : (s.modFlow c f).parity = s.parity := rfl
@[simp] theorem State.modFlow_late (c : Ch) (f : FlowEngine → FlowEngine) : (s.modFlow c f).late = s.late := rfl
@[simp] theorem State.modFlow_regRanks (c : Ch) (f : FlowEngine → FlowEngine) : (s.modFlow c f).regRanks = s.regRanks := rfl
@[simp] theorem State.modFlow_freeCount (c : Ch) (f : FlowEngine → FlowEngine) : (s.modFlow c f).freeCount = s.freeCount := rfl
@[simp] theorem State.modFlow_host (c : Ch) (f : FlowEngine → FlowEngine) : (s.modFlow c f).host = s.host := rfl
@[simp] theorem State.modFlow_up (c : Ch) (f : FlowEngine → FlowEngine) : (s.modFlow c f).up = s.up := rfl
@[simp] theorem State.modFlow_dn (c : Ch) (f : FlowEngine → FlowEngine) : (s.modFlow c f).dn = s.dn := rfl
@[simp] theorem State.modFlow_vc0 (c : Ch) (f : FlowEngine → FlowEngine) : (s.modFlow c f).vc0 = s.vc0 := rfl
@[simp] theorem State.modFlow_vc2 (c : Ch) (f : FlowEngine → FlowEngine) : (s.modFlow c f).vc2 = s.vc2 := rfl
@[simp] theorem State.modFlow_rels (c : Ch) (f : FlowEngine → FlowEngine) : (s.modFlow c f).rels = s.rels := rfl
@[simp] theorem State.modFlow_domains (c : Ch) (f : FlowEngine → FlowEngine) : (s.modFlow c f).domains = s.domains := rfl
@[simp] theorem State.modFlow_oldTags (c : Ch) (f : FlowEngine → FlowEngine) : (s.modFlow c f).oldTags = s.oldTags := rfl
@[simp] theorem State.modFlow_egr (c : Ch) (f : FlowEngine → FlowEngine) : (s.modFlow c f).egr = s.egr := rfl
@[simp] theorem State.modFlow_casc (c : Ch) (f : FlowEngine → FlowEngine) : (s.modFlow c f).casc = s.casc := rfl
@[simp] theorem State.modFlow_ev (c : Ch) (f : FlowEngine → FlowEngine) : (s.modFlow c f).ev = s.ev := rfl
@[simp] theorem State.modFlow_time (c : Ch) (f : FlowEngine → FlowEngine) : (s.modFlow c f).time = s.time := rfl
@[simp] theorem State.modFlow_ind (c : Ch) (f : FlowEngine → FlowEngine) : (s.modFlow c f).ind = s.ind := rfl
@[simp] theorem State.modFlow_tideAt (c : Ch) (f : FlowEngine → FlowEngine) : (s.modFlow c f).tideAt = s.tideAt := rfl
@[simp] theorem State.modFlow_pwr (c : Ch) (f : FlowEngine → FlowEngine) : (s.modFlow c f).pwr = s.pwr := rfl
@[simp] theorem State.modFlow_boot (c : Ch) (f : FlowEngine → FlowEngine) : (s.modFlow c f).boot = s.boot := rfl
@[simp] theorem State.modFlow_reg (c : Ch) (f : FlowEngine → FlowEngine) (r : Nat) : (s.modFlow c f).reg r = s.reg r := rfl

/-! ### modCtx -/

@[simp] theorem State.modCtx_now (c : Ch) (n : Nat) (f : Ctx → Ctx) : (s.modCtx c n f).now = s.now := rfl
@[simp] theorem State.modCtx_pending (c : Ch) (n : Nat) (f : Ctx → Ctx) : (s.modCtx c n f).pending = s.pending := rfl
@[simp] theorem State.modCtx_regs (c : Ch) (n : Nat) (f : Ctx → Ctx) : (s.modCtx c n f).regs = s.regs := rfl
@[simp] theorem State.modCtx_parity (c : Ch) (n : Nat) (f : Ctx → Ctx) : (s.modCtx c n f).parity = s.parity := rfl
@[simp] theorem State.modCtx_late (c : Ch) (n : Nat) (f : Ctx → Ctx) : (s.modCtx c n f).late = s.late := rfl
@[simp] theorem State.modCtx_regRanks (c : Ch) (n : Nat) (f : Ctx → Ctx) : (s.modCtx c n f).regRanks = s.regRanks := rfl
@[simp] theorem State.modCtx_freeCount (c : Ch) (n : Nat) (f : Ctx → Ctx) : (s.modCtx c n f).freeCount = s.freeCount := rfl
@[simp] theorem State.modCtx_host (c : Ch) (n : Nat) (f : Ctx → Ctx) : (s.modCtx c n f).host = s.host := rfl
@[simp] theorem State.modCtx_up (c : Ch) (n : Nat) (f : Ctx → Ctx) : (s.modCtx c n f).up = s.up := rfl
@[simp] theorem State.modCtx_dn (c : Ch) (n : Nat) (f : Ctx → Ctx) : (s.modCtx c n f).dn = s.dn := rfl
@[simp] theorem State.modCtx_vc0 (c : Ch) (n : Nat) (f : Ctx → Ctx) : (s.modCtx c n f).vc0 = s.vc0 := rfl
@[simp] theorem State.modCtx_vc2 (c : Ch) (n : Nat) (f : Ctx → Ctx) : (s.modCtx c n f).vc2 = s.vc2 := rfl
@[simp] theorem State.modCtx_rels (c : Ch) (n : Nat) (f : Ctx → Ctx) : (s.modCtx c n f).rels = s.rels := rfl
@[simp] theorem State.modCtx_domains (c : Ch) (n : Nat) (f : Ctx → Ctx) : (s.modCtx c n f).domains = s.domains := rfl
@[simp] theorem State.modCtx_oldTags (c : Ch) (n : Nat) (f : Ctx → Ctx) : (s.modCtx c n f).oldTags = s.oldTags := rfl
@[simp] theorem State.modCtx_egr (c : Ch) (n : Nat) (f : Ctx → Ctx) : (s.modCtx c n f).egr = s.egr := rfl
@[simp] theorem State.modCtx_casc (c : Ch) (n : Nat) (f : Ctx → Ctx) : (s.modCtx c n f).casc = s.casc := rfl
@[simp] theorem State.modCtx_ev (c : Ch) (n : Nat) (f : Ctx → Ctx) : (s.modCtx c n f).ev = s.ev := rfl
@[simp] theorem State.modCtx_time (c : Ch) (n : Nat) (f : Ctx → Ctx) : (s.modCtx c n f).time = s.time := rfl
@[simp] theorem State.modCtx_ind (c : Ch) (n : Nat) (f : Ctx → Ctx) : (s.modCtx c n f).ind = s.ind := rfl
@[simp] theorem State.modCtx_tideAt (c : Ch) (n : Nat) (f : Ctx → Ctx) : (s.modCtx c n f).tideAt = s.tideAt := rfl
@[simp] theorem State.modCtx_pwr (c : Ch) (n : Nat) (f : Ctx → Ctx) : (s.modCtx c n f).pwr = s.pwr := rfl
@[simp] theorem State.modCtx_boot (c : Ch) (n : Nat) (f : Ctx → Ctx) : (s.modCtx c n f).boot = s.boot := rfl
@[simp] theorem State.modCtx_reg (c : Ch) (n : Nat) (f : Ctx → Ctx) (r : Nat) : (s.modCtx c n f).reg r = s.reg r := rfl

/-! ### modMgr -/

@[simp] theorem State.modMgr_now (c : Ch) (f : Mgr → Mgr) : (s.modMgr c f).now = s.now := rfl
@[simp] theorem State.modMgr_pending (c : Ch) (f : Mgr → Mgr) : (s.modMgr c f).pending = s.pending := rfl
@[simp] theorem State.modMgr_regs (c : Ch) (f : Mgr → Mgr) : (s.modMgr c f).regs = s.regs := rfl
@[simp] theorem State.modMgr_parity (c : Ch) (f : Mgr → Mgr) : (s.modMgr c f).parity = s.parity := rfl
@[simp] theorem State.modMgr_late (c : Ch) (f : Mgr → Mgr) : (s.modMgr c f).late = s.late := rfl
@[simp] theorem State.modMgr_regRanks (c : Ch) (f : Mgr → Mgr) : (s.modMgr c f).regRanks = s.regRanks := rfl
@[simp] theorem State.modMgr_freeCount (c : Ch) (f : Mgr → Mgr) : (s.modMgr c f).freeCount = s.freeCount := rfl
@[simp] theorem State.modMgr_host (c : Ch) (f : Mgr → Mgr) : (s.modMgr c f).host = s.host := rfl
@[simp] theorem State.modMgr_up (c : Ch) (f : Mgr → Mgr) : (s.modMgr c f).up = s.up := rfl
@[simp] theorem State.modMgr_dn (c : Ch) (f : Mgr → Mgr) : (s.modMgr c f).dn = s.dn := rfl
@[simp] theorem State.modMgr_vc0 (c : Ch) (f : Mgr → Mgr) : (s.modMgr c f).vc0 = s.vc0 := rfl
@[simp] theorem State.modMgr_vc2 (c : Ch) (f : Mgr → Mgr) : (s.modMgr c f).vc2 = s.vc2 := rfl
@[simp] theorem State.modMgr_rels (c : Ch) (f : Mgr → Mgr) : (s.modMgr c f).rels = s.rels := rfl
@[simp] theorem State.modMgr_domains (c : Ch) (f : Mgr → Mgr) : (s.modMgr c f).domains = s.domains := rfl
@[simp] theorem State.modMgr_oldTags (c : Ch) (f : Mgr → Mgr) : (s.modMgr c f).oldTags = s.oldTags := rfl
@[simp] theorem State.modMgr_egr (c : Ch) (f : Mgr → Mgr) : (s.modMgr c f).egr = s.egr := rfl
@[simp] theorem State.modMgr_casc (c : Ch) (f : Mgr → Mgr) : (s.modMgr c f).casc = s.casc := rfl
@[simp] theorem State.modMgr_ev (c : Ch) (f : Mgr → Mgr) : (s.modMgr c f).ev = s.ev := rfl
@[simp] theorem State.modMgr_time (c : Ch) (f : Mgr → Mgr) : (s.modMgr c f).time = s.time := rfl
@[simp] theorem State.modMgr_ind (c : Ch) (f : Mgr → Mgr) : (s.modMgr c f).ind = s.ind := rfl
@[simp] theorem State.modMgr_tideAt (c : Ch) (f : Mgr → Mgr) : (s.modMgr c f).tideAt = s.tideAt := rfl
@[simp] theorem State.modMgr_pwr (c : Ch) (f : Mgr → Mgr) : (s.modMgr c f).pwr = s.pwr := rfl
@[simp] theorem State.modMgr_boot (c : Ch) (f : Mgr → Mgr) : (s.modMgr c f).boot = s.boot := rfl
@[simp] theorem State.modMgr_reg (c : Ch) (f : Mgr → Mgr) (r : Nat) : (s.modMgr c f).reg r = s.reg r := rfl

/-! ### useSlot -/

@[simp] theorem State.useSlot_pending (c : Ch) (n : Nat) : (s.useSlot c n).pending = s.pending := rfl
@[simp] theorem State.useSlot_regs (c : Ch) (n : Nat) : (s.useSlot c n).regs = s.regs := rfl
@[simp] theorem State.useSlot_parity (c : Ch) (n : Nat) : (s.useSlot c n).parity = s.parity := rfl
@[simp] theorem State.useSlot_late (c : Ch) (n : Nat) : (s.useSlot c n).late = s.late := rfl
@[simp] theorem State.useSlot_regRanks (c : Ch) (n : Nat) : (s.useSlot c n).regRanks = s.regRanks := rfl
@[simp] theorem State.useSlot_freeCount (c : Ch) (n : Nat) : (s.useSlot c n).freeCount = s.freeCount := rfl
@[simp] theorem State.useSlot_host (c : Ch) (n : Nat) : (s.useSlot c n).host = s.host := rfl
@[simp] theorem State.useSlot_up (c : Ch) (n : Nat) : (s.useSlot c n).up = s.up := rfl
@[simp] theorem State.useSlot_dn (c : Ch) (n : Nat) : (s.useSlot c n).dn = s.dn := rfl
@[simp] theorem State.useSlot_vc0 (c : Ch) (n : Nat) : (s.useSlot c n).vc0 = s.vc0 := rfl
@[simp] theorem State.useSlot_vc2 (c : Ch) (n : Nat) : (s.useSlot c n).vc2 = s.vc2 := rfl
@[simp] theorem State.useSlot_rels (c : Ch) (n : Nat) : (s.useSlot c n).rels = s.rels := rfl
@[simp] theorem State.useSlot_domains (c : Ch) (n : Nat) : (s.useSlot c n).domains = s.domains := rfl
@[simp] theorem State.useSlot_oldTags (c : Ch) (n : Nat) : (s.useSlot c n).oldTags = s.oldTags := rfl
@[simp] theorem State.useSlot_egr (c : Ch) (n : Nat) : (s.useSlot c n).egr = s.egr := rfl
@[simp] theorem State.useSlot_casc (c : Ch) (n : Nat) : (s.useSlot c n).casc = s.casc := rfl
@[simp] theorem State.useSlot_ev (c : Ch) (n : Nat) : (s.useSlot c n).ev = s.ev := rfl
@[simp] theorem State.useSlot_time (c : Ch) (n : Nat) : (s.useSlot c n).time = s.time := rfl
@[simp] theorem State.useSlot_ind (c : Ch) (n : Nat) : (s.useSlot c n).ind = s.ind := rfl
@[simp] theorem State.useSlot_tideAt (c : Ch) (n : Nat) : (s.useSlot c n).tideAt = s.tideAt := rfl
@[simp] theorem State.useSlot_pwr (c : Ch) (n : Nat) : (s.useSlot c n).pwr = s.pwr := rfl
@[simp] theorem State.useSlot_boot (c : Ch) (n : Nat) : (s.useSlot c n).boot = s.boot := rfl
@[simp] theorem State.useSlot_reg (c : Ch) (n : Nat) (r : Nat) : (s.useSlot c n).reg r = s.reg r := rfl

/-! ### queueEvent -/

@[simp] theorem State.queueEvent_now (src info : Nat) : (s.queueEvent src info).now = s.now := by unfold State.queueEvent; split <;> (try rfl); dsimp only; split <;> rfl
@[simp] theorem State.queueEvent_pending (src info : Nat) : (s.queueEvent src info).pending = s.pending := by unfold State.queueEvent; split <;> (try rfl); dsimp only; split <;> rfl
@[simp] theorem State.queueEvent_parity (src info : Nat) : (s.queueEvent src info).parity = s.parity := by unfold State.queueEvent; split <;> (try rfl); dsimp only; split <;> rfl
@[simp] theorem State.queueEvent_late (src info : Nat) : (s.queueEvent src info).late = s.late := by unfold State.queueEvent; split <;> (try rfl); dsimp only; split <;> rfl
@[simp] theorem State.queueEvent_regRanks (src info : Nat) : (s.queueEvent src info).regRanks = s.regRanks := by unfold State.queueEvent; split <;> (try rfl); dsimp only; split <;> rfl
@[simp] theorem State.queueEvent_freeCount (src info : Nat) : (s.queueEvent src info).freeCount = s.freeCount := by unfold State.queueEvent; split <;> (try rfl); dsimp only; split <;> rfl
@[simp] theorem State.queueEvent_ch (src info : Nat) : (s.queueEvent src info).ch = s.ch := by unfold State.queueEvent; split <;> (try rfl); dsimp only; split <;> rfl
@[simp] theorem State.queueEvent_host (src info : Nat) : (s.queueEvent src info).host = s.host := by unfold State.queueEvent; split <;> (try rfl); dsimp only; split <;> rfl
@[simp] theorem State.queueEvent_up (src info : Nat) : (s.queueEvent src info).up = s.up := by unfold State.queueEvent; split <;> (try rfl); dsimp only; split <;> rfl
@[simp] theorem State.queueEvent_dn (src info : Nat) : (s.queueEvent src info).dn = s.dn := by unfold State.queueEvent; split <;> (try rfl); dsimp only; split <;> rfl
@[simp] theorem State.queueEvent_vc0 (src info : Nat) : (s.queueEvent src info).vc0 = s.vc0 := by unfold State.queueEvent; split <;> (try rfl); dsimp only; split <;> rfl
@[simp] theorem State.queueEvent_vc2 (src info : Nat) : (s.queueEvent src info).vc2 = s.vc2 := by unfold State.queueEvent; split <;> (try rfl); dsimp only; split <;> rfl
@[simp] theorem State.queueEvent_rels (src info : Nat) : (s.queueEvent src info).rels = s.rels := by unfold State.queueEvent; split <;> (try rfl); dsimp only; split <;> rfl
@[simp] theorem State.queueEvent_domains (src info : Nat) : (s.queueEvent src info).domains = s.domains := by unfold State.queueEvent; split <;> (try rfl); dsimp only; split <;> rfl
@[simp] theorem State.queueEvent_oldTags (src info : Nat) : (s.queueEvent src info).oldTags = s.oldTags := by unfold State.queueEvent; split <;> (try rfl); dsimp only; split <;> rfl
@[simp] theorem State.queueEvent_egr (src info : Nat) : (s.queueEvent src info).egr = s.egr := by unfold State.queueEvent; split <;> (try rfl); dsimp only; split <;> rfl
@[simp] theorem State.queueEvent_casc (src info : Nat) : (s.queueEvent src info).casc = s.casc := by unfold State.queueEvent; split <;> (try rfl); dsimp only; split <;> rfl
@[simp] theorem State.queueEvent_time (src info : Nat) : (s.queueEvent src info).time = s.time := by unfold State.queueEvent; split <;> (try rfl); dsimp only; split <;> rfl
@[simp] theorem State.queueEvent_ind (src info : Nat) : (s.queueEvent src info).ind = s.ind := by unfold State.queueEvent; split <;> (try rfl); dsimp only; split <;> rfl
@[simp] theorem State.queueEvent_tideAt (src info : Nat) : (s.queueEvent src info).tideAt = s.tideAt := by unfold State.queueEvent; split <;> (try rfl); dsimp only; split <;> rfl
@[simp] theorem State.queueEvent_pwr (src info : Nat) : (s.queueEvent src info).pwr = s.pwr := by unfold State.queueEvent; split <;> (try rfl); dsimp only; split <;> rfl
@[simp] theorem State.queueEvent_boot (src info : Nat) : (s.queueEvent src info).boot = s.boot := by unfold State.queueEvent; split <;> (try rfl); dsimp only; split <;> rfl
@[simp] theorem State.queueEvent_chan (src info : Nat) (d : Ch) : (s.queueEvent src info).chan d = s.chan d := by simp [State.chan]

/-! ### raiseNow -/

@[simp] theorem State.raiseNow_now (src info : Nat) : (s.raiseNow src info).now = s.now := by unfold State.raiseNow; dsimp only; split <;> simp
@[simp] theorem State.raiseNow_pending (src info : Nat) : (s.raiseNow src info).pending = s.pending := by unfold State.raiseNow; dsimp only; split <;> simp
@[simp] theorem State.raiseNow_parity (src info : Nat) : (s.raiseNow src info).parity = s.parity := by unfold State.raiseNow; dsimp only; split <;> simp
@[simp] theorem State.raiseNow_late (src info : Nat) : (s.raiseNow src info).late = s.late := by unfold State.raiseNow; dsimp only; split <;> simp
@[simp] theorem State.raiseNow_regRanks (src info : Nat) : (s.raiseNow src info).regRanks = s.regRanks := by unfold State.raiseNow; dsimp only; split <;> simp
@[simp] theorem State.raiseNow_freeCount (src info : Nat) : (s.raiseNow src info).freeCount = s.freeCount := by unfold State.raiseNow; dsimp only; split <;> simp
@[simp] theorem State.raiseNow_ch (src info : Nat) : (s.raiseNow src info).ch = s.ch := by unfold State.raiseNow; dsimp only; split <;> simp
@[simp] theorem State.raiseNow_host (src info : Nat) : (s.raiseNow src info).host = s.host := by unfold State.raiseNow; dsimp only; split <;> simp
@[simp] theorem State.raiseNow_up (src info : Nat) : (s.raiseNow src info).up = s.up := by unfold State.raiseNow; dsimp only; split <;> simp
@[simp] theorem State.raiseNow_dn (src info : Nat) : (s.raiseNow src info).dn = s.dn := by unfold State.raiseNow; dsimp only; split <;> simp
@[simp] theorem State.raiseNow_vc0 (src info : Nat) : (s.raiseNow src info).vc0 = s.vc0 := by unfold State.raiseNow; dsimp only; split <;> simp
@[simp] theorem State.raiseNow_vc2 (src info : Nat) : (s.raiseNow src info).vc2 = s.vc2 := by unfold State.raiseNow; dsimp only; split <;> simp
@[simp] theorem State.raiseNow_rels (src info : Nat) : (s.raiseNow src info).rels = s.rels := by unfold State.raiseNow; dsimp only; split <;> simp
@[simp] theorem State.raiseNow_domains (src info : Nat) : (s.raiseNow src info).domains = s.domains := by unfold State.raiseNow; dsimp only; split <;> simp
@[simp] theorem State.raiseNow_oldTags (src info : Nat) : (s.raiseNow src info).oldTags = s.oldTags := by unfold State.raiseNow; dsimp only; split <;> simp
@[simp] theorem State.raiseNow_egr (src info : Nat) : (s.raiseNow src info).egr = s.egr := by unfold State.raiseNow; dsimp only; split <;> simp
@[simp] theorem State.raiseNow_casc (src info : Nat) : (s.raiseNow src info).casc = s.casc := by unfold State.raiseNow; dsimp only; split <;> simp
@[simp] theorem State.raiseNow_time (src info : Nat) : (s.raiseNow src info).time = s.time := by unfold State.raiseNow; dsimp only; split <;> simp
@[simp] theorem State.raiseNow_ind (src info : Nat) : (s.raiseNow src info).ind = s.ind := by unfold State.raiseNow; dsimp only; split <;> simp
@[simp] theorem State.raiseNow_tideAt (src info : Nat) : (s.raiseNow src info).tideAt = s.tideAt := by unfold State.raiseNow; dsimp only; split <;> simp
@[simp] theorem State.raiseNow_pwr (src info : Nat) : (s.raiseNow src info).pwr = s.pwr := by unfold State.raiseNow; dsimp only; split <;> simp
@[simp] theorem State.raiseNow_boot (src info : Nat) : (s.raiseNow src info).boot = s.boot := by unfold State.raiseNow; dsimp only; split <;> simp
@[simp] theorem State.raiseNow_chan (src info : Nat) (d : Ch) : (s.raiseNow src info).chan d = s.chan d := by simp [State.chan]

/-! ### raise -/

@[simp] theorem State.raise_now (src info : Nat) : (s.raise src info).now = s.now := by (unfold State.raise; dsimp only; repeat' split) <;> simp
@[simp] theorem State.raise_pending (src info : Nat) : (s.raise src info).pending = s.pending := by (unfold State.raise; dsimp only; repeat' split) <;> simp
@[simp] theorem State.raise_parity (src info : Nat) : (s.raise src info).parity = s.parity := by (unfold State.raise; dsimp only; repeat' split) <;> simp
@[simp] theorem State.raise_late (src info : Nat) : (s.raise src info).late = s.late := by (unfold State.raise; dsimp only; repeat' split) <;> simp
@[simp] theorem State.raise_regRanks (src info : Nat) : (s.raise src info).regRanks = s.regRanks := by (unfold State.raise; dsimp only; repeat' split) <;> simp
@[simp] theorem State.raise_freeCount (src info : Nat) : (s.raise src info).freeCount = s.freeCount := by (unfold State.raise; dsimp only; repeat' split) <;> simp
@[simp] theorem State.raise_ch (src info : Nat) : (s.raise src info).ch = s.ch := by (unfold State.raise; dsimp only; repeat' split) <;> simp
@[simp] theorem State.raise_host (src info : Nat) : (s.raise src info).host = s.host := by (unfold State.raise; dsimp only; repeat' split) <;> simp
@[simp] theorem State.raise_up (src info : Nat) : (s.raise src info).up = s.up := by (unfold State.raise; dsimp only; repeat' split) <;> simp
@[simp] theorem State.raise_dn (src info : Nat) : (s.raise src info).dn = s.dn := by (unfold State.raise; dsimp only; repeat' split) <;> simp
@[simp] theorem State.raise_vc0 (src info : Nat) : (s.raise src info).vc0 = s.vc0 := by (unfold State.raise; dsimp only; repeat' split) <;> simp
@[simp] theorem State.raise_vc2 (src info : Nat) : (s.raise src info).vc2 = s.vc2 := by (unfold State.raise; dsimp only; repeat' split) <;> simp
@[simp] theorem State.raise_rels (src info : Nat) : (s.raise src info).rels = s.rels := by (unfold State.raise; dsimp only; repeat' split) <;> simp
@[simp] theorem State.raise_domains (src info : Nat) : (s.raise src info).domains = s.domains := by (unfold State.raise; dsimp only; repeat' split) <;> simp
@[simp] theorem State.raise_oldTags (src info : Nat) : (s.raise src info).oldTags = s.oldTags := by (unfold State.raise; dsimp only; repeat' split) <;> simp
@[simp] theorem State.raise_egr (src info : Nat) : (s.raise src info).egr = s.egr := by (unfold State.raise; dsimp only; repeat' split) <;> simp
@[simp] theorem State.raise_casc (src info : Nat) : (s.raise src info).casc = s.casc := by (unfold State.raise; dsimp only; repeat' split) <;> simp
@[simp] theorem State.raise_time (src info : Nat) : (s.raise src info).time = s.time := by (unfold State.raise; dsimp only; repeat' split) <;> simp
@[simp] theorem State.raise_ind (src info : Nat) : (s.raise src info).ind = s.ind := by (unfold State.raise; dsimp only; repeat' split) <;> simp
@[simp] theorem State.raise_tideAt (src info : Nat) : (s.raise src info).tideAt = s.tideAt := by (unfold State.raise; dsimp only; repeat' split) <;> simp
@[simp] theorem State.raise_pwr (src info : Nat) : (s.raise src info).pwr = s.pwr := by (unfold State.raise; dsimp only; repeat' split) <;> simp
@[simp] theorem State.raise_boot (src info : Nat) : (s.raise src info).boot = s.boot := by (unfold State.raise; dsimp only; repeat' split) <;> simp
@[simp] theorem State.raise_chan (src info : Nat) (d : Ch) : (s.raise src info).chan d = s.chan d := by simp [State.chan]

/-! ### evM -/

@[simp] theorem State.evM_now (src info : Nat) : (s.evM src info).now = s.now := by simp [State.evM]
@[simp] theorem State.evM_pending (src info : Nat) : (s.evM src info).pending = s.pending := by simp [State.evM]
@[simp] theorem State.evM_parity (src info : Nat) : (s.evM src info).parity = s.parity := by simp [State.evM]
@[simp] theorem State.evM_late (src info : Nat) : (s.evM src info).late = s.late := by simp [State.evM]
@[simp] theorem State.evM_regRanks (src info : Nat) : (s.evM src info).regRanks = s.regRanks := by simp [State.evM]
@[simp] theorem State.evM_freeCount (src info : Nat) : (s.evM src info).freeCount = s.freeCount := by simp [State.evM]
@[simp] theorem State.evM_ch (src info : Nat) : (s.evM src info).ch = s.ch := by simp [State.evM]
@[simp] theorem State.evM_host (src info : Nat) : (s.evM src info).host = s.host := by simp [State.evM]
@[simp] theorem State.evM_up (src info : Nat) : (s.evM src info).up = s.up := by simp [State.evM]
@[simp] theorem State.evM_dn (src info : Nat) : (s.evM src info).dn = s.dn := by simp [State.evM]
@[simp] theorem State.evM_vc0 (src info : Nat) : (s.evM src info).vc0 = s.vc0 := by simp [State.evM]
@[simp] theorem State.evM_vc2 (src info : Nat) : (s.evM src info).vc2 = s.vc2 := by simp [State.evM]
@[simp] theorem State.evM_rels (src info : Nat) : (s.evM src info).rels = s.rels := by simp [State.evM]
@[simp] theorem State.evM_domains (src info : Nat) : (s.evM src info).domains = s.domains := by simp [State.evM]
@[simp] theorem State.evM_oldTags (src info : Nat) : (s.evM src info).oldTags = s.oldTags := by simp [State.evM]
@[simp] theorem State.evM_egr (src info : Nat) : (s.evM src info).egr = s.egr := by simp [State.evM]
@[simp] theorem State.evM_casc (src info : Nat) : (s.evM src info).casc = s.casc := by simp [State.evM]
@[simp] theorem State.evM_time (src info : Nat) : (s.evM src info).time = s.time := by simp [State.evM]
@[simp] theorem State.evM_ind (src info : Nat) : (s.evM src info).ind = s.ind := by simp [State.evM]
@[simp] theorem State.evM_tideAt (src info : Nat) : (s.evM src info).tideAt = s.tideAt := by simp [State.evM]
@[simp] theorem State.evM_pwr (src info : Nat) : (s.evM src info).pwr = s.pwr := by simp [State.evM]
@[simp] theorem State.evM_boot (src info : Nat) : (s.evM src info).boot = s.boot := by simp [State.evM]
@[simp] theorem State.evM_chan (src info : Nat) (d : Ch) : (s.evM src info).chan d = s.chan d := by simp [State.chan]

/-! ### evC -/

@[simp] theorem State.evC_now (c : Ch) (o info : Nat) : (s.evC c o info).now = s.now := by unfold State.evC; split <;> simp
@[simp] theorem State.evC_pending (c : Ch) (o info : Nat) : (s.evC c o info).pending = s.pending := by unfold State.evC; split <;> simp
@[simp] theorem State.evC_parity (c : Ch) (o info : Nat) : (s.evC c o info).parity = s.parity := by unfold State.evC; split <;> simp
@[simp] theorem State.evC_late (c : Ch) (o info : Nat) : (s.evC c o info).late = s.late := by unfold State.evC; split <;> simp
@[simp] theorem State.evC_regRanks (c : Ch) (o info : Nat) : (s.evC c o info).regRanks = s.regRanks := by unfold State.evC; split <;> simp
@[simp] theorem State.evC_freeCount (c : Ch) (o info : Nat) : (s.evC c o info).freeCount = s.freeCount := by unfold State.evC; split <;> simp
@[simp] theorem State.evC_ch (c : Ch) (o info : Nat) : (s.evC c o info).ch = s.ch := by unfold State.evC; split <;> simp
@[simp] theorem State.evC_host (c : Ch) (o info : Nat) : (s.evC c o info).host = s.host := by unfold State.evC; split <;> simp
@[simp] theorem State.evC_up (c : Ch) (o info : Nat) : (s.evC c o info).up = s.up := by unfold State.evC; split <;> simp
@[simp] theorem State.evC_dn (c : Ch) (o info : Nat) : (s.evC c o info).dn = s.dn := by unfold State.evC; split <;> simp
@[simp] theorem State.evC_vc0 (c : Ch) (o info : Nat) : (s.evC c o info).vc0 = s.vc0 := by unfold State.evC; split <;> simp
@[simp] theorem State.evC_vc2 (c : Ch) (o info : Nat) : (s.evC c o info).vc2 = s.vc2 := by unfold State.evC; split <;> simp
@[simp] theorem State.evC_rels (c : Ch) (o info : Nat) : (s.evC c o info).rels = s.rels := by unfold State.evC; split <;> simp
@[simp] theorem State.evC_domains (c : Ch) (o info : Nat) : (s.evC c o info).domains = s.domains := by unfold State.evC; split <;> simp
@[simp] theorem State.evC_oldTags (c : Ch) (o info : Nat) : (s.evC c o info).oldTags = s.oldTags := by unfold State.evC; split <;> simp
@[simp] theorem State.evC_egr (c : Ch) (o info : Nat) : (s.evC c o info).egr = s.egr := by unfold State.evC; split <;> simp
@[simp] theorem State.evC_casc (c : Ch) (o info : Nat) : (s.evC c o info).casc = s.casc := by unfold State.evC; split <;> simp
@[simp] theorem State.evC_time (c : Ch) (o info : Nat) : (s.evC c o info).time = s.time := by unfold State.evC; split <;> simp
@[simp] theorem State.evC_ind (c : Ch) (o info : Nat) : (s.evC c o info).ind = s.ind := by unfold State.evC; split <;> simp
@[simp] theorem State.evC_tideAt (c : Ch) (o info : Nat) : (s.evC c o info).tideAt = s.tideAt := by unfold State.evC; split <;> simp
@[simp] theorem State.evC_pwr (c : Ch) (o info : Nat) : (s.evC c o info).pwr = s.pwr := by unfold State.evC; split <;> simp
@[simp] theorem State.evC_boot (c : Ch) (o info : Nat) : (s.evC c o info).boot = s.boot := by unfold State.evC; split <;> simp
@[simp] theorem State.evC_chan (c : Ch) (o info : Nat) (d : Ch) : (s.evC c o info).chan d = s.chan d := by simp [State.chan]

/-! ### evCIf -/

@[simp] theorem State.evCIf_now (p : Bool) (c : Ch) (o info : Nat) : (s.evCIf p c o info).now = s.now := by unfold State.evCIf; split <;> simp
@[simp] theorem State.evCIf_pending (p : Bool) (c : Ch) (o info : Nat) : (s.evCIf p c o info).pending = s.pending := by unfold State.evCIf; split <;> simp
@[simp] theorem State.evCIf_parity (p : Bool) (c : Ch) (o info : Nat) : (s.evCIf p c o info).parity = s.parity := by unfold State.evCIf; split <;> simp
@[simp] theorem State.evCIf_late (p : Bool) (c : Ch) (o info : Nat) : (s.evCIf p c o info).late = s.late := by unfold State.evCIf; split <;> simp
@[simp] theorem State.evCIf_regRanks (p : Bool) (c : Ch) (o info : Nat) : (s.evCIf p c o info).regRanks = s.regRanks := by unfold State.evCIf; split <;> simp
@[simp] theorem State.evCIf_freeCount (p : Bool) (c : Ch) (o info : Nat) : (s.evCIf p c o info).freeCount = s.freeCount := by unfold State.evCIf; split <;> simp
@[simp] theorem State.evCIf_ch (p : Bool) (c : Ch) (o info : Nat) : (s.evCIf p c o info).ch = s.ch := by unfold State.evCIf; split <;> simp
@[simp] theorem State.evCIf_host (p : Bool) (c : Ch) (o info : Nat) : (s.evCIf p c o info).host = s.host := by unfold State.evCIf; split <;> simp
@[simp] theorem State.evCIf_up (p : Bool) (c : Ch) (o info : Nat) : (s.evCIf p c o info).up = s.up := by unfold State.evCIf; split <;> simp
@[simp] theorem State.evCIf_dn (p : Bool) (c : Ch) (o info : Nat) : (s.evCIf p c o info).dn = s.dn := by unfold State.evCIf; split <;> simp
@[simp] theorem State.evCIf_vc0 (p : Bool) (c : Ch) (o info : Nat) : (s.evCIf p c o info).vc0 = s.vc0 := by unfold State.evCIf; split <;> simp
@[simp] theorem State.evCIf_vc2 (p : Bool) (c : Ch) (o info : Nat) : (s.evCIf p c o info).vc2 = s.vc2 := by unfold State.evCIf; split <;> simp
@[simp] theorem State.evCIf_rels (p : Bool) (c : Ch) (o info : Nat) : (s.evCIf p c o info).rels = s.rels := by unfold State.evCIf; split <;> simp
@[simp] theorem State.evCIf_domains (p : Bool) (c : Ch) (o info : Nat) : (s.evCIf p c o info).domains = s.domains := by unfold State.evCIf; split <;> simp
@[simp] theorem State.evCIf_oldTags (p : Bool) (c : Ch) (o info : Nat) : (s.evCIf p c o info).oldTags = s.oldTags := by unfold State.evCIf; split <;> simp
@[simp] theorem State.evCIf_egr (p : Bool) (c : Ch) (o info : Nat) : (s.evCIf p c o info).egr = s.egr := by unfold State.evCIf; split <;> simp
@[simp] theorem State.evCIf_casc (p : Bool) (c : Ch) (o info : Nat) : (s.evCIf p c o info).casc = s.casc := by unfold State.evCIf; split <;> simp
@[simp] theorem State.evCIf_time (p : Bool) (c : Ch) (o info : Nat) : (s.evCIf p c o info).time = s.time := by unfold State.evCIf; split <;> simp
@[simp] theorem State.evCIf_ind (p : Bool) (c : Ch) (o info : Nat) : (s.evCIf p c o info).ind = s.ind := by unfold State.evCIf; split <;> simp
@[simp] theorem State.evCIf_tideAt (p : Bool) (c : Ch) (o info : Nat) : (s.evCIf p c o info).tideAt = s.tideAt := by unfold State.evCIf; split <;> simp
@[simp] theorem State.evCIf_pwr (p : Bool) (c : Ch) (o info : Nat) : (s.evCIf p c o info).pwr = s.pwr := by unfold State.evCIf; split <;> simp
@[simp] theorem State.evCIf_boot (p : Bool) (c : Ch) (o info : Nat) : (s.evCIf p c o info).boot = s.boot := by unfold State.evCIf; split <;> simp
@[simp] theorem State.evCIf_chan (p : Bool) (c : Ch) (o info : Nat) (d : Ch) : (s.evCIf p c o info).chan d = s.chan d := by simp [State.chan]

/-! ### evMIf -/

@[simp] theorem State.evMIf_now (p : Bool) (src info : Nat) : (s.evMIf p src info).now = s.now := by unfold State.evMIf; split <;> simp
@[simp] theorem State.evMIf_pending (p : Bool) (src info : Nat) : (s.evMIf p src info).pending = s.pending := by unfold State.evMIf; split <;> simp
@[simp] theorem State.evMIf_parity (p : Bool) (src info : Nat) : (s.evMIf p src info).parity = s.parity := by unfold State.evMIf; split <;> simp
@[simp] theorem State.evMIf_late (p : Bool) (src info : Nat) : (s.evMIf p src info).late = s.late := by unfold State.evMIf; split <;> simp
@[simp] theorem State.evMIf_regRanks (p : Bool) (src info : Nat) : (s.evMIf p src info).regRanks = s.regRanks := by unfold State.evMIf; split <;> simp
@[simp] theorem State.evMIf_freeCount (p : Bool) (src info : Nat) : (s.evMIf p src info).freeCount = s.freeCount := by unfold State.evMIf; split <;> simp
@[simp] theorem State.evMIf_ch (p : Bool) (src info : Nat) : (s.evMIf p src info).ch = s.ch := by unfold State.evMIf; split <;> simp
@[simp] theorem State.evMIf_host (p : Bool) (src info : Nat) : (s.evMIf p src info).host = s.host := by unfold State.evMIf; split <;> simp
@[simp] theorem State.evMIf_up (p : Bool) (src info : Nat) : (s.evMIf p src info).up = s.up := by unfold State.evMIf; split <;> simp
@[simp] theorem State.evMIf_dn (p : Bool) (src info : Nat) : (s.evMIf p src info).dn = s.dn := by unfold State.evMIf; split <;> simp
@[simp] theorem State.evMIf_vc0 (p : Bool) (src info : Nat) : (s.evMIf p src info).vc0 = s.vc0 := by unfold State.evMIf; split <;> simp
@[simp] theorem State.evMIf_vc2 (p : Bool) (src info : Nat) : (s.evMIf p src info).vc2 = s.vc2 := by unfold State.evMIf; split <;> simp
@[simp] theorem State.evMIf_rels (p : Bool) (src info : Nat) : (s.evMIf p src info).rels = s.rels := by unfold State.evMIf; split <;> simp
@[simp] theorem State.evMIf_domains (p : Bool) (src info : Nat) : (s.evMIf p src info).domains = s.domains := by unfold State.evMIf; split <;> simp
@[simp] theorem State.evMIf_oldTags (p : Bool) (src info : Nat) : (s.evMIf p src info).oldTags = s.oldTags := by unfold State.evMIf; split <;> simp
@[simp] theorem State.evMIf_egr (p : Bool) (src info : Nat) : (s.evMIf p src info).egr = s.egr := by unfold State.evMIf; split <;> simp
@[simp] theorem State.evMIf_casc (p : Bool) (src info : Nat) : (s.evMIf p src info).casc = s.casc := by unfold State.evMIf; split <;> simp
@[simp] theorem State.evMIf_time (p : Bool) (src info : Nat) : (s.evMIf p src info).time = s.time := by unfold State.evMIf; split <;> simp
@[simp] theorem State.evMIf_ind (p : Bool) (src info : Nat) : (s.evMIf p src info).ind = s.ind := by unfold State.evMIf; split <;> simp
@[simp] theorem State.evMIf_tideAt (p : Bool) (src info : Nat) : (s.evMIf p src info).tideAt = s.tideAt := by unfold State.evMIf; split <;> simp
@[simp] theorem State.evMIf_pwr (p : Bool) (src info : Nat) : (s.evMIf p src info).pwr = s.pwr := by unfold State.evMIf; split <;> simp
@[simp] theorem State.evMIf_boot (p : Bool) (src info : Nat) : (s.evMIf p src info).boot = s.boot := by unfold State.evMIf; split <;> simp
@[simp] theorem State.evMIf_chan (p : Bool) (src info : Nat) (d : Ch) : (s.evMIf p src info).chan d = s.chan d := by simp [State.chan]

/-! ### A channel after a change of a channel -/

theorem Quad.get_set {α : Type} (x : Quad α) (c d : Ch) (v : α) : (x.set c v).get d = if d = c then v else x.get d := by
  fin_cases c <;> fin_cases d <;> rfl

@[simp] theorem Quad.get_set_same {α : Type} (x : Quad α) (c : Ch) (v : α) : (x.set c v).get c = v := by
  simp [Quad.get_set]

theorem Quad.get_set_other {α : Type} (x : Quad α) {c d : Ch} (h : d ≠ c) (v : α) : (x.set c v).get d = x.get d := by
  simp [Quad.get_set, h]

@[simp] theorem State.setChan_chan (c : Ch) (x : Chan) : (s.setChan c x).chan c = x := by
  simp [State.chan, State.setChan]

theorem State.setChan_chan_other {c d : Ch} (h : d ≠ c) (x : Chan) : (s.setChan c x).chan d = s.chan d := by
  simp [State.chan, State.setChan, Quad.get_set_other _ h]

@[simp] theorem State.modChan_chan (c : Ch) (f : Chan → Chan) : (s.modChan c f).chan c = f (s.chan c) := by
  simp [State.modChan]

theorem State.modChan_chan_other {c d : Ch} (h : d ≠ c) (f : Chan → Chan) : (s.modChan c f).chan d = s.chan d := by
  simp [State.modChan, State.setChan_chan_other s h]

/-! ### A register after a write -/

/-- A register read after a register write, in a state whose register store is canonical. -/
theorem State.setReg_reg (h : swf regReset s.regs = true) (k r : Nat) (v : Word) :
    (s.setReg k v).reg r = if r = k then v else s.reg r := by
  simp only [State.reg, State.setReg]
  exact sget_sset h

end Sys2Proof.Machine
end

