-- ==== Sys2Proof/Laws/Frames.lean ====
section
/-! SUPPORT. Register frames: what taking a frame and queueing a completion leave alone, the checks that a served write
passes (R401), and what a write of a register whose fields are all write pulses leaves stored (R413, R420). -/

namespace Sys2Proof.Machine

variable (s : State)

/-- Writing the word that a key holds leaves a canonical store as it was. -/
theorem sset_same {α : Type} [DecidableEq α] {d : Nat → α} {k : Nat} :
    ∀ {lo : Option Nat} {l : List (Nat × α)}, swfFrom d lo l = true → sset d l k (sget d l k) = l
  | lo, [], _ => by simp [sset, sget]
  | lo, (i, w) :: t, h => by
    simp only [swfFrom, Bool.and_eq_true, decide_eq_true_eq] at h
    obtain ⟨⟨_, hw⟩, ht⟩ := h
    rcases Nat.lt_trichotomy k i with hki | hki | hki
    · simp [sset, sget, hki, Nat.ne_of_gt hki]
    · subst hki
      simp [sset, sget, hw]
    · have h1 : ¬ k < i := by omega
      have h2 : k ≠ i := by omega
      simp [sset, sget, h1, h2, Ne.symm h2, sset_same ht]

/-- A register written with the word that it holds. -/
theorem State.setReg_same (h : swf regReset s.regs = true) (k : Nat) : s.setReg k (s.reg k) = s := by
  have : sset regReset s.regs k (sget regReset s.regs k) = s.regs := sset_same h
  simp [State.setReg, State.reg, this]

/-- Taking a frame from the host port changes the port alone. -/
theorem State.takeFrame_eq (vc : Nat) (head : List Byte) :
    (s.takeFrame vc head).1 = { s with host := (s.host.take false vc head).1 } := rfl

theorem LinkPort.take_state (p : LinkPort) (casc : Bool) (vc : Nat) (head : List Byte) : (p.take casc vc head).1.state = p.state := by
  unfold LinkPort.take
  split
  · rfl
  · split <;> rfl

theorem LinkPort.take_isUp (p : LinkPort) (casc : Bool) (vc : Nat) (head : List Byte) :
    (p.take casc vc head).1.isUp = p.isUp := by
  simp [LinkPort.isUp, LinkPort.take_state]

/-- A COMPLETION without an error joins the queue while the link is up (R402). -/
theorem State.complete_ok (h : s.host.isUp = true) (hf : Hf) (target : Nat) (rtag : BitVec 16) (opc : Nat)
    (data : List Byte) (bell : Option (Nat × Nat)) :
    s.complete hf target 0 rtag opc data bell = { s with
      egr := { s.egr with completions := s.egr.completions ++ [⟨hf, target, completionBytes hf 0 rtag opc data, bell⟩] } } := by
  simp [State.complete, State.countIf, h]

/-- Region and area of a direct register's address. -/
theorem areaOf_regAddr {region off : Nat} (hr : region < 5) (ho : off < 0x10000) (h4 : off % 4 = 0)
    (hb : blockExists region off = true) :
    areaOf (regAddr region off) = .ctl off ∧ regionOf (regAddr region off) = region ∧ (regAddr region off).toNat % 4 = 0 := by
  have e : (regAddr region off).toNat = region * 2 ^ 24 + off := by
    simp only [regAddr, BitVec.toNat_ofNat]; omega
  have h1 : regionOf (regAddr region off) = region := by
    simp only [regionOf, e]; omega
  have h2 : (region * 2 ^ 24 + off) % 2 ^ 24 = off := by omega
  refine ⟨?_, h1, by rw [e]; omega⟩
  simp only [areaOf, h1, e, h2]
  have h3 : ¬ 5 ≤ region := by omega
  have h5 : off / 4 * 4 = off := by omega
  simp [h3, ho, hb, h5]

/-- A served write frame passes its checks (R401). -/
theorem State.frameCheck_served {s t : State} {a : RegAcc} {region off : Nat} (h : Served s a region off)
    (hr : region < 5) (ho : off < 0x10000) (h4 : off % 4 = 0) (hb : blockExists region off = true)
    (h2 : off ≠ indBase region + 4) (e1 : t.regs = s.regs) (e2 : t.parity = s.parity) (e3 : t.ch = s.ch) :
    t.frameCheck a true (regAddr region off) = 0 := by
  obtain ⟨ha, hg, hm⟩ := areaOf_regAddr hr ho h4 hb
  have may : t.mayReg a.hf region (off / 0x1000) true = true := by
    have := h.right
    simpa only [State.mayReg, State.hfat, State.reg, e1, e2] using this
  have hl : ((decide (1 ≤ region) && ((t.chan (Fin.ofNat 4 (region - 1))).power == .off
      || (t.chan (Fin.ofNat 4 (region - 1))).power == .wake)) && !baseBlock off) = false := by
    have : t.chan (Fin.ofNat 4 (region - 1)) = s.chan (Fin.ofNat 4 (region - 1)) := by simp only [State.chan, e3]
    rw [this]
    rcases h.live with e | e | e | e <;> simp [e, -Fin.ofNat_eq_cast]
  unfold State.frameCheck
  rw [hg, ha]
  have m1 : t.mayAccess a.hf region (.ctl off) true = true := by
    unfold State.mayAccess
    simp only [may, Bool.true_and]
    simp [h2]
  extract_lets r area c down
  have hd : (down && !baseBlock off) = false := hl
  simp [r, area, m1, hd, hm, h.lanes]

/-- With no frame waiting, a frame of VC2 that need not wait acts at once (R403). -/
theorem State.vc2Frame_first {s : State} (h : s.vc2 = []) {f : Vc2} (hw : s.vc2Waits f = false) :
    s.vc2Frame f = s.runVc2 f := by
  simp [State.vc2Frame, State.serveVc2, h, State.drainVc2, hw]

/-- A frame that no other requester meets at the register port acts as it stands (R414). -/
theorem State.regServe_alone (s : State) {a : RegAcc} (h : a.rivals = []) (write : Bool) (addr : BitVec 32) (data : Word)
    (others : List (List SpadReq)) : s.regServe a write addr data others = s.regAct a write addr data others := by
  unfold State.regServe
  split <;> simp [h, State.portRounds]

/-- A register frame that need not wait, and that nothing meets: what it does (R401, R403, R414). -/
theorem State.regFrame_alone {s : State} (h : s.vc2 = []) {a : RegAcc} (ha : a.rivals = []) (write : Bool) (addr : BitVec 32)
    (data : Word) (others : List (List SpadReq)) (room : s.completionRoom = true)
    (wait : s.indWaits a.hf (regionOf addr) (areaOf addr) = false) :
    s.regFrame a write addr data others = s.regAct a write addr data others := by
  rw [State.regFrame, State.vc2Frame_first h (by simp [State.vc2Waits, room, wait])]
  exact State.regServe_alone s ha write addr data others

/-- A served write frame: it lands, acts, and is acknowledged. -/
theorem State.regFrame_served {s : State} {a : RegAcc} {region off : Nat} (h : Served s a region off) (v : Word)
    (hr : region < 5) (ho : off < 0x10000) (h4 : off % 4 = 0) (hb : blockExists region off = true)
    (h1 : off ≠ indBase region) (h2 : off ≠ indBase region + 4) :
    s.regFrame a true (regAddr region off) v =
      ((s.takeFrame 2 (regFrameBytes a true (regAddr region off) v)).1.land (.host a.hf) region false off v (~~~0) a.hw).complete
        a.hf region 0 a.rtag 0x21 [] (bellOf region (.ctl off) v) := by
  obtain ⟨ha, hg, hm⟩ := areaOf_regAddr hr ho h4 hb
  have room : s.completionRoom = true := by simp [State.completionRoom, h.room]
  have wait : s.indWaits a.hf region (.ctl off) = false := by simp [State.indWaits, h1, h2]
  have check := State.frameCheck_served (t := (s.takeFrame 2 (regFrameBytes a true (regAddr region off) v)).1) h hr ho h4 hb h2 rfl rfl rfl
  rw [State.regFrame_alone h.first h.alone true _ v [] room (by rw [hg, ha]; exact wait)]
  unfold State.regAct
  rw [hg, ha]
  extract_lets r ar s2 opc st
  have hst : st = 0 := check
  rw [if_neg (by simp [hst]), if_pos rfl]
  show ((if off = indBase region + 4 then _ else _ : State)).complete _ _ _ _ _ _ _ = _
  rw [if_neg h2]
  rfl

end Sys2Proof.Machine
end

