-- ==== Sys2Proof/Laws/Sound.lean ====
section
/-! SUPPORT. What every operation keeps: `Sound q τ s` says that the queue of state `s` is `q`, that its clock has
reached `τ`, and that the invariant holds. Each operation has one lemma: from a sound state it gives a sound state. -/

namespace Sys2Proof.Machine

/-- The queue, a bound that the clock has reached, and the invariant. -/
def Sound (q : List Instr) (τ : Nat) (s : State) : Prop := s.pending = q ∧ τ ≤ s.now ∧ s.Inv

variable {q : List Instr} {τ : Nat} {s : State}

theorem Sound.pending_eq (h : Sound q τ s) : s.pending = q := h.1
theorem Sound.now_le (h : Sound q τ s) : τ ≤ s.now := h.2.1
theorem Sound.inv (h : Sound q τ s) : s.Inv := h.2.2
theorem Sound.regs_wf (h : Sound q τ s) : swf regReset s.regs = true := h.2.2.1
theorem Sound.queue_le (h : Sound q τ s) : s.ev.queue.length ≤ 1024 := h.2.2.2.1
theorem Sound.chan_wf (h : Sound q τ s) (c : Ch) : (s.chan c).wf := h.2.2.2.2 c

/-- A state is sound beside itself. -/
theorem State.Inv.sound (h : s.Inv) : Sound s.pending s.now s := ⟨rfl, Nat.le_refl _, h⟩

/-- A state put together from sound states, field by field; the fields that the invariant does not read may take any
value. -/
@[simp] theorem sound_mk {a b c d e : State} (ha : Sound q τ a) (hb : Sound q τ b) (hc : Sound q τ c)
    (hd : Sound q τ d) (he : Sound q τ e)
    (parity : List Nat) (late : List (Nat × Nat × Word)) (regRanks : List Nat) (freeCount : Nat) (host : LinkPort) (up : LinkPort) (dn : LinkPort) (vc0 : List Vc0) (vc2 : List Vc2) (rels : List RelRec) (domains : Store DomainRec) (oldTags : List Nat) (egr : EgressUnit) (casc : Cascade) (time : ModTime) (ind : List IndPair) (tideAt : Nat) (pwr : Supply) (boot : Boot) :
    Sound q τ (State.mk a.now b.pending c.regs parity late regRanks freeCount d.ch host up dn vc0 vc2 rels domains oldTags egr casc e.ev time ind tideAt pwr boot) :=
  ⟨hb.1, ha.2.1, hc.2.2.1, he.2.2.2.1, hd.2.2.2.2⟩

/-- The same with another queue of event records. -/
theorem sound_mk_ev {a b c d : State} (ha : Sound q τ a) (hb : Sound q τ b) (hc : Sound q τ c)
    (hd : Sound q τ d)
    (parity : List Nat) (late : List (Nat × Nat × Word)) (regRanks : List Nat) (freeCount : Nat) (host : LinkPort) (up : LinkPort) (dn : LinkPort) (vc0 : List Vc0) (vc2 : List Vc2) (rels : List RelRec) (domains : Store DomainRec) (oldTags : List Nat) (egr : EgressUnit) (casc : Cascade) (time : ModTime) (ind : List IndPair) (tideAt : Nat) (pwr : Supply) (boot : Boot) (ev : Events) (he : ev.queue.length ≤ 1024) :
    Sound q τ (State.mk a.now b.pending c.regs parity late regRanks freeCount d.ch host up dn vc0 vc2 rels domains oldTags egr casc ev time ind tideAt pwr boot) :=
  ⟨hb.1, ha.2.1, hc.2.2.1, he, hd.2.2.2.2⟩

/-- The same with the queue of a sound state. -/
@[simp] theorem sound_mk_queue {a b c d e : State} (ha : Sound q τ a) (hb : Sound q τ b) (hc : Sound q τ c)
    (hd : Sound q τ d) (he : Sound q τ e)
    (parity : List Nat) (late : List (Nat × Nat × Word)) (regRanks : List Nat) (freeCount : Nat) (host : LinkPort) (up : LinkPort) (dn : LinkPort) (vc0 : List Vc0) (vc2 : List Vc2) (rels : List RelRec) (domains : Store DomainRec) (oldTags : List Nat) (egr : EgressUnit) (casc : Cascade) (time : ModTime) (ind : List IndPair) (tideAt : Nat) (pwr : Supply) (boot : Boot)
    (eseq : Nat) (ovf : Bool) (dropped : Nat) (seen : Store (Nat × Nat)) :
    Sound q τ (State.mk a.now b.pending c.regs parity late regRanks freeCount d.ch host up dn vc0 vc2 rels domains oldTags egr casc ⟨e.ev.queue, eseq, ovf, dropped, seen⟩ time ind tideAt pwr boot) :=
  ⟨hb.1, ha.2.1, hc.2.2.1, he.2.2.2.1, hd.2.2.2.2⟩

/-- The same with some registers gone. -/
@[simp] theorem sound_mk_filter {a b c d e : State} (ha : Sound q τ a) (hb : Sound q τ b) (hc : Sound q τ c)
    (hd : Sound q τ d) (he : Sound q τ e)
    (parity : List Nat) (late : List (Nat × Nat × Word)) (regRanks : List Nat) (freeCount : Nat) (host : LinkPort) (up : LinkPort) (dn : LinkPort) (vc0 : List Vc0) (vc2 : List Vc2) (rels : List RelRec) (domains : Store DomainRec) (oldTags : List Nat) (egr : EgressUnit) (casc : Cascade) (time : ModTime) (ind : List IndPair) (tideAt : Nat) (pwr : Supply) (boot : Boot)
    (p : Nat × Word → Bool) :
    Sound q τ (State.mk a.now b.pending (c.regs.filter p) parity late regRanks freeCount d.ch host up dn vc0 vc2 rels domains oldTags egr casc e.ev time ind tideAt pwr boot) :=
  ⟨hb.1, ha.2.1, filter_swf p hc.2.2.1, he.2.2.2.1, hd.2.2.2.2⟩

/-- The same with every register at its reset value. -/
@[simp] theorem sound_mk_noregs {a b d e : State} (ha : Sound q τ a) (hb : Sound q τ b)
    (hd : Sound q τ d) (he : Sound q τ e)
    (parity : List Nat) (late : List (Nat × Nat × Word)) (regRanks : List Nat) (freeCount : Nat) (host : LinkPort) (up : LinkPort) (dn : LinkPort) (vc0 : List Vc0) (vc2 : List Vc2) (rels : List RelRec) (domains : Store DomainRec) (oldTags : List Nat) (egr : EgressUnit) (casc : Cascade) (time : ModTime) (ind : List IndPair) (tideAt : Nat) (pwr : Supply) (boot : Boot) :
    Sound q τ (State.mk a.now b.pending [] parity late regRanks freeCount d.ch host up dn vc0 vc2 rels domains oldTags egr casc e.ev time ind tideAt pwr boot) :=
  ⟨hb.1, ha.2.1, rfl, he.2.2.2.1, hd.2.2.2.2⟩

/-- The same with an empty queue. -/
@[simp] theorem sound_mk_empty {a b c d : State} (ha : Sound q τ a) (hb : Sound q τ b) (hc : Sound q τ c)
    (hd : Sound q τ d)
    (parity : List Nat) (late : List (Nat × Nat × Word)) (regRanks : List Nat) (freeCount : Nat) (host : LinkPort) (up : LinkPort) (dn : LinkPort) (vc0 : List Vc0) (vc2 : List Vc2) (rels : List RelRec) (domains : Store DomainRec) (oldTags : List Nat) (egr : EgressUnit) (casc : Cascade) (time : ModTime) (ind : List IndPair) (tideAt : Nat) (pwr : Supply) (boot : Boot)
    (eseq : Nat) (ovf : Bool) (dropped : Nat) (seen : Store (Nat × Nat)) :
    Sound q τ (State.mk a.now b.pending c.regs parity late regRanks freeCount d.ch host up dn vc0 vc2 rels domains oldTags egr casc ⟨[], eseq, ovf, dropped, seen⟩ time ind tideAt pwr boot) :=
  ⟨hb.1, ha.2.1, hc.2.2.1, Nat.zero_le _, hd.2.2.2.2⟩

/-- What the invariant asks of a channel put together field by field. -/
@[simp] theorem chan_wf_mk (power : ChPower) (req : Option StateReq) (reqAt : Nat) (ready : Bool) (causes : BitVec 6) (arr : ArrayMem) (hbm : Store HbmSlot) (ingress : List (Ingress × Nat)) (egress : List Egress) (freed : List (Nat × Bool × Nat)) (ctxs : List Ctx) (launch : Option Launch) (launchFree : Nat) (lastSlot : Option Nat) (flow : FlowEngine) (ep : Epochs) (calStart : Nat) (tideStart : Nat) (direct : List DirectItem) (dwrFrames : Nat) (encFrame : Nat) (maint : Maint) (mgr : Mgr) (spad : Store SpadCell) (march : Option March) (spadRanks : Store (List Nat)) (regRanks : List Nat) (arb : Arbiter) (charges : List Charge) (slotOut : Nat) (grpOut : Nat) (dwrOut : Nat) (slotCr : Nat) (dwrCr : Nat) (grpCr : Nat) (lastCredit : Option Nat) (creditRanks : List Nat) (winSlot : Nat) (winBlk : Nat) (winFlow : Nat) (winExt : Nat) (profs : Store BaseProfile) (xseq : Nat) (offRegs : Store Word) :
    Chan.wf (Chan.mk power req reqAt ready causes arr hbm ingress egress freed ctxs launch launchFree lastSlot flow ep calStart tideStart direct dwrFrames encFrame maint mgr spad march spadRanks regRanks arb charges slotOut grpOut dwrOut slotCr dwrCr grpCr lastCredit creditRanks winSlot winBlk winFlow winExt profs xseq offRegs) ↔
      arr.wf = true ∧ hbmWf hbm = true ∧ spadWf spad = true ∧ mgr.boxes.length = 16 := Iff.rfl

@[simp] theorem chan_wf_ite {p : Prop} [Decidable p] {a b : Chan} :
    (if p then a else b).wf ↔ (p → a.wf) ∧ (¬ p → b.wf) := by
  split <;> simp [*]

@[simp] theorem sound_ite {p : Prop} [Decidable p] {a b : State} :
    Sound q τ (if p then a else b) ↔ (p → Sound q τ a) ∧ (¬ p → Sound q τ b) := by
  split <;> simp [*]

@[simp] theorem sound_max (t : Nat) (h : Sound q τ s) : Sound q τ { s with now := max s.now t } :=
  ⟨h.1, Nat.le_trans h.2.1 (Nat.le_max_left _ _), h.2.2⟩

/-- A fold of sound operations is sound. -/
theorem sound_foldl {α : Type} {f : State → α → State} (hf : ∀ s a, Sound q τ s → Sound q τ (f s a)) :
    ∀ (l : List α) {s : State}, Sound q τ s → Sound q τ (l.foldl f s)
  | [], _, h => h
  | a :: t, s, h => sound_foldl hf t (hf s a h)

/-- A fold whose operation is sound; the operation's own lemma discharges the premise. -/
@[simp] theorem sound_foldl' {α : Type} {f : State → α → State} {l : List α} (h : Sound q τ s)
    (hf : ∀ s a, Sound q τ s → Sound q τ (f s a)) : Sound q τ (l.foldl f s) := sound_foldl hf l h


/-- A fold that carries a state beside other data. -/
theorem sound_foldl_fst {α β : Type} {f : State × β → α → State × β}
    (hf : ∀ s a, Sound q τ s.1 → Sound q τ (f s a).1) :
    ∀ (l : List α) {s : State × β}, Sound q τ s.1 → Sound q τ (l.foldl f s).1
  | [], _, h => h
  | a :: t, s, h => sound_foldl_fst hf t (hf s a h)
theorem sound_foldl_snd {α β : Type} {f : β × State → α → β × State}
    (hf : ∀ s a, Sound q τ s.2 → Sound q τ (f s a).2) :
    ∀ (l : List α) {s : β × State}, Sound q τ s.2 → Sound q τ (l.foldl f s).2
  | [], _, h => h
  | a :: t, s, h => sound_foldl_snd hf t (hf s a h)

/-- The same of a channel. -/
theorem chan_wf_fold {α : Type} {f : Chan → α → Chan} (hf : ∀ x a, x.wf → (f x a).wf) :
    ∀ (l : List α) {x : Chan}, x.wf → (l.foldl f x).wf
  | [], _, h => h
  | a :: t, x, h => chan_wf_fold hf t (hf x a h)
@[simp] theorem chan_wf_foldl {α : Type} {f : Chan → α → Chan} {l : List α} {x : Chan} (h : x.wf)
    (hf : ∀ x a, x.wf → (f x a).wf) : (l.foldl f x).wf := chan_wf_fold hf l h

/-- The same of an array. -/
theorem arr_wf_fold {α : Type} {f : ArrayMem → α → ArrayMem} (hf : ∀ x a, x.wf = true → (f x a).wf = true) :
    ∀ (l : List α) {x : ArrayMem}, x.wf = true → (l.foldl f x).wf = true
  | [], _, h => h
  | a :: t, x, h => arr_wf_fold hf t (hf x a h)
@[simp] theorem arr_wf_foldl {α : Type} {f : ArrayMem → α → ArrayMem} {l : List α} {x : ArrayMem} (h : x.wf = true)
    (hf : ∀ x a, x.wf = true → (f x a).wf = true) : (l.foldl f x).wf = true := arr_wf_fold hf l h
@[simp] theorem arr_wf_ite {p : Prop} [Decidable p] {a b : ArrayMem} :
    (if p then a else b).wf = true ↔ (p → a.wf = true) ∧ (¬ p → b.wf = true) := by
  split <;> simp [*]

/-- A fold over the manager's data that keeps the number of mailboxes. -/
theorem boxes_fold {α : Type} {f : Mgr → α → Mgr} (hf : ∀ m a, (f m a).boxes.length = m.boxes.length) :
    ∀ (l : List α) (m : Mgr), (l.foldl f m).boxes.length = m.boxes.length
  | [], _ => rfl
  | a :: t, m => (boxes_fold hf t (f m a)).trans (hf m a)
@[simp] theorem boxes_foldl {α : Type} {f : Mgr → α → Mgr} {l : List α} {m : Mgr}
    (hf : ∀ m a, (f m a).boxes.length = m.boxes.length) : (l.foldl f m).boxes.length = m.boxes.length := boxes_fold hf l m

/-! ## Definitions in steps -/

/-- A command answers a sound next state. -/
def SoundOut (q : List Instr) (τ : Nat) (o : Host.Outcome State Fault Refusal) : Prop := ∃ t, o = .next t ∧ Sound q τ t

@[simp] theorem soundOut_next : SoundOut q τ (.next s) ↔ Sound q τ s :=
  ⟨fun ⟨_, h, hs⟩ => by cases h; exact hs, fun h => ⟨s, rfl, h⟩⟩

@[simp] theorem soundOut_ite {p : Prop} [Decidable p] {a b : Host.Outcome State Fault Refusal} :
    SoundOut q τ (if p then a else b) ↔ (p → SoundOut q τ a) ∧ (¬ p → SoundOut q τ b) := by
  split <;> simp [*]

/-- An operation that may not take place gives a sound state if it does. -/
def SoundOpt (q : List Instr) (τ : Nat) (o : Option State) : Prop := ∀ t, o = some t → Sound q τ t

@[simp] theorem soundOpt_none : SoundOpt q τ none := fun _ h => by cases h
@[simp] theorem soundOpt_some : SoundOpt q τ (some s) ↔ Sound q τ s :=
  ⟨fun h => h s rfl, fun h t e => by cases e; exact h⟩
@[simp] theorem soundOpt_ite {p : Prop} [Decidable p] {a b : Option State} :
    SoundOpt q τ (if p then a else b) ↔ (p → SoundOpt q τ a) ∧ (¬ p → SoundOpt q τ b) := by
  split <;> simp [*]

/-! ## The primitive operations -/

@[simp] theorem State.atTime_sound (h : Sound q τ s) (t : Nat) : Sound q τ (s.atTime t) := sound_max t h

@[simp] theorem State.setReg_sound (h : Sound q τ s) (k : Nat) (v : Word) : Sound q τ (s.setReg k v) :=
  ⟨h.1, h.2.1, sset_swf h.2.2.1, h.2.2.2.1, h.2.2.2.2⟩

@[simp] theorem State.setChan_sound (h : Sound q τ s) (c : Ch) {x : Chan} (hx : x.wf) : Sound q τ (s.setChan c x) := by
  refine ⟨h.1, h.2.1, h.2.2.1, h.2.2.2.1, fun d => ?_⟩
  simp only [State.chan, State.setChan, Quad.get_set]
  split
  · exact hx
  · exact h.chan_wf d

@[simp] theorem State.modChan_sound (h : Sound q τ s) (c : Ch) {f : Chan → Chan} (hf : ∀ x : Chan, x.wf → (f x).wf) :
    Sound q τ (s.modChan c f) :=
  State.setChan_sound h c (hf _ (h.chan_wf c))

@[simp] theorem ArrayMem.setWord_wf {a : ArrayMem} (h : a.wf = true) (k : Nat) (w : WordCell) : (a.setWord k w).wf = true := by
  simp only [ArrayMem.wf, Bool.and_eq_true, ArrayMem.setWord] at h ⊢
  exact ⟨⟨⟨sset_swf h.1.1.1, h.1.1.2⟩, h.1.2⟩, h.2⟩

@[simp] theorem ArrayMem.setUnit3_wf {a : ArrayMem} (h : a.wf = true) (k : Nat) (w : UnitCell) : (a.setUnit3 k w).wf = true := by
  simp only [ArrayMem.wf, Bool.and_eq_true, ArrayMem.setUnit3] at h ⊢
  exact ⟨⟨⟨h.1.1.1, sset_swf h.1.1.2⟩, h.1.2⟩, h.2⟩

@[simp] theorem ArrayMem.setAdPair_wf {a : ArrayMem} (h : a.wf = true) (k : Nat) (w : AdCell) : (a.setAdPair k w).wf = true := by
  simp only [ArrayMem.wf, Bool.and_eq_true, ArrayMem.setAdPair] at h ⊢
  exact ⟨⟨⟨h.1.1.1, h.1.1.2⟩, sset_swf h.1.2⟩, h.2⟩

@[simp] theorem Chan.setHbm_wf {x : Chan} (h : x.wf) (i : Nat) (v : HbmSlot) : (x.setHbm i v).wf :=
  ⟨h.1, sset_swf h.2.1, h.2.2⟩

@[simp] theorem Chan.setSpad_wf {x : Chan} (h : x.wf) (i : Nat) (v : SpadCell) : (x.setSpad i v).wf :=
  ⟨h.1, h.2.1, sset_swf h.2.2.1, h.2.2.2⟩

@[simp] theorem Chan.wf.arr_wf {x : Chan} (h : x.wf) : x.arr.wf = true := h.1
@[simp] theorem Chan.wf.hbm_wf {x : Chan} (h : x.wf) : hbmWf x.hbm = true := h.2.1
@[simp] theorem Chan.wf.spad_wf {x : Chan} (h : x.wf) : spadWf x.spad = true := h.2.2.1
@[simp] theorem Chan.wf.boxes {x : Chan} (h : x.wf) : x.mgr.boxes.length = 16 := h.2.2.2

@[simp] theorem arr_wf_buoys {x : Chan} (h : x.wf) (k : Nat) (b : BuoyCell) :
    (ArrayMem.mk x.arr.words x.arr.units x.arr.ads (sset (fun _ => ⟨0, 0, 0, 0⟩) x.arr.buoys k b)).wf = true := by
  have ha := h.1
  simp only [ArrayMem.wf, Bool.and_eq_true] at ha ⊢
  exact ⟨ha.1, sset_swf ha.2⟩
@[simp] theorem spadWf_filter {l : Store SpadCell} (p : Nat × SpadCell → Bool) (h : spadWf l = true) :
    spadWf (l.filter p) = true := filter_swf p h
@[simp] theorem hbmWf_filter {l : Store HbmSlot} (p : Nat × HbmSlot → Bool) (h : hbmWf l = true) :
    hbmWf (l.filter p) = true := filter_swf p h

@[simp] theorem Chan.reset_arr_wf : Chan.reset.arr.wf = true := rfl
@[simp] theorem Chan.reset_hbm_wf : hbmWf Chan.reset.hbm = true := rfl
@[simp] theorem Chan.reset_spad_wf : spadWf Chan.reset.spad = true := rfl
@[simp] theorem Chan.reset_boxes : Chan.reset.mgr.boxes.length = 16 := rfl
@[simp] theorem Mgr.reset_boxes : Mgr.reset.boxes.length = 16 := rfl

end Sys2Proof.Machine
end

