-- ==== Sys2Proof/Laws/SoundOps.lean ====
section
/-! SUPPORT. The operations of Machine/Ops.lean keep a state sound. -/

namespace Sys2Proof.Machine

variable {Q : List Instr} {τ : Nat}

@[simp] theorem State.setField_sound (s : State) (k lo n v : Nat) (hS : Sound Q τ s) :
    Sound Q τ (State.setField s k lo n v) := by
  simp +contextual (maxDischargeDepth := 40) [State.setField, hS]

@[simp] theorem State.setB_sound (s : State) (k i : Nat) (b : Bool) (hS : Sound Q τ s) :
    Sound Q τ (State.setB s k i b) := by
  simp +contextual (maxDischargeDepth := 40) [State.setB, hS]

@[simp] theorem State.keepOld_sound (s : State) (k : Nat) (hS : Sound Q τ s) :
    Sound Q τ (State.keepOld s k) := by
  simp +contextual (maxDischargeDepth := 40) [State.keepOld, hS]

@[simp] theorem State.count_sound (s : State) (k n : Nat) (hS : Sound Q τ s) :
    Sound Q τ (State.count s k n) := by
  simp +contextual (maxDischargeDepth := 40) [State.count, hS]

@[simp] theorem State.countIf_sound (s : State) (p : Bool) (k : Nat) (hS : Sound Q τ s) :
    Sound Q τ (State.countIf s p k) := by
  simp +contextual (maxDischargeDepth := 40) [State.countIf, hS]

@[simp] theorem State.capture_sound (s : State) (k v : Nat) (hS : Sound Q τ s) :
    Sound Q τ (State.capture s k v) := by
  simp +contextual (maxDischargeDepth := 40) [State.capture, hS]

@[simp] theorem State.modFlow_sound (s : State) (c : Ch) (f : FlowEngine → FlowEngine) (hS : Sound Q τ s) :
    Sound Q τ (State.modFlow s c f) := by
  simp +contextual (maxDischargeDepth := 40) [State.modFlow, hS]

@[simp] theorem State.modCtx_sound (s : State) (c : Ch) (n : Nat) (f : Ctx → Ctx) (hS : Sound Q τ s) :
    Sound Q τ (State.modCtx s c n f) := by
  simp +contextual (maxDischargeDepth := 40) [State.modCtx, hS]

@[simp] theorem State.free_sound (s : State) (hS : Sound Q τ s) :
    Sound Q τ (State.free s).2 := by
  simp +contextual (maxDischargeDepth := 40) [State.free, hS]

@[simp] theorem State.useSlot_sound (s : State) (c : Ch) (n : Nat) (hS : Sound Q τ s) :
    Sound Q τ (State.useSlot s c n) := by
  simp +contextual (maxDischargeDepth := 40) [State.useSlot, hS]

end Sys2Proof.Machine
end

