-- ==== Sys2Proof/Laws/SoundFlags.lean ====
section
/-! SUPPORT. The operations of Machine/Flags.lean keep a state sound. -/

namespace Sys2Proof.Machine

variable {Q : List Instr} {τ : Nat}

/-- A record enters the queue (R461). -/
@[simp] theorem enqueue_length (l : List EventRec) (r : EventRec) : (enqueue l r).length = l.length + 1 := by
  unfold enqueue
  dsimp only
  split
  · simp
  · next e t ht =>
    have h1 : ((l.reverse.takeWhile fun e => e.at_ == r.at_ && decide (r.source < e.source) && e.source != 196).reverse).length
        ≤ l.length := by
      rw [List.length_reverse]
      exact (List.takeWhile_sublist _).length_le.trans (by simp)
    simp only [List.length_append, List.length_cons, List.length_map, List.length_take]
    rw [ht] at h1 ⊢
    simp only [List.length_cons] at h1 ⊢
    omega

@[simp] theorem State.queueEvent_sound (s : State) (src info : Nat) (hS : Sound Q τ s) :
    Sound Q τ (State.queueEvent s src info) := by
  unfold State.queueEvent
  dsimp only
  have hq := hS.queue_le
  split
  · simp +contextual (maxDischargeDepth := 40) [hS]
  split
  · exact sound_mk_ev (by simp +contextual (maxDischargeDepth := 40) [hS]) (by simp +contextual (maxDischargeDepth := 40) [hS]) (by simp +contextual (maxDischargeDepth := 40) [hS]) (by simp +contextual (maxDischargeDepth := 40) [hS]) (he := by simp; omega) ..
  · exact sound_mk_ev (by simp +contextual (maxDischargeDepth := 40) [hS]) (by simp +contextual (maxDischargeDepth := 40) [hS]) (by simp +contextual (maxDischargeDepth := 40) [hS]) (by simp +contextual (maxDischargeDepth := 40) [hS]) (he := by simp; omega) ..

@[simp] theorem State.overflowRecord_sound (s : State) (hS : Sound Q τ s) :
    Sound Q τ (State.overflowRecord s) := by
  unfold State.overflowRecord
  dsimp only
  split
  · next hp => exact sound_mk_ev (by simp +contextual (maxDischargeDepth := 40) [hS]) (by simp +contextual (maxDischargeDepth := 40) [hS]) (by simp +contextual (maxDischargeDepth := 40) [hS]) (by simp +contextual (maxDischargeDepth := 40) [hS]) (he := by split <;> simp <;> omega) ..
  · exact hS

@[simp] theorem State.raiseNow_sound (s : State) (src info : Nat) (hS : Sound Q τ s) :
    Sound Q τ (State.raiseNow s src info) := by
  simp +contextual (maxDischargeDepth := 40) [State.raiseNow, hS]

@[simp] theorem State.raise_sound (s : State) (src info : Nat) (hS : Sound Q τ s) :
    Sound Q τ (State.raise s src info) := by
  simp +contextual (maxDischargeDepth := 40) [State.raise, hS]

@[simp] theorem State.evM_sound (s : State) (src : Nat) (info : Nat) (hS : Sound Q τ s) :
    Sound Q τ (State.evM s src info) := by
  simp +contextual (maxDischargeDepth := 40) [State.evM, hS]

@[simp] theorem State.evC_sound (s : State) (c : Ch) (o : Nat) (info : Nat) (hS : Sound Q τ s) :
    Sound Q τ (State.evC s c o info) := by
  unfold State.evC
  (repeat' split) <;> simp +contextual (maxDischargeDepth := 40) [hS]

@[simp] theorem State.evCIf_sound (s : State) (p : Bool) (c : Ch) (o : Nat) (info : Nat) (hS : Sound Q τ s) :
    Sound Q τ (State.evCIf s p c o info) := by
  simp +contextual (maxDischargeDepth := 40) [State.evCIf, hS]

@[simp] theorem State.evMIf_sound (s : State) (p : Bool) (src : Nat) (info : Nat) (hS : Sound Q τ s) :
    Sound Q τ (State.evMIf s p src info) := by
  simp +contextual (maxDischargeDepth := 40) [State.evMIf, hS]

@[simp] theorem State.newPeriod_sound (s : State) (mine : Nat → Bool) (hS : Sound Q τ s) :
    Sound Q τ (State.newPeriod s mine) := by
  simp +contextual (maxDischargeDepth := 40) [State.newPeriod, hS]

end Sys2Proof.Machine
end

