-- ==== Sys2Proof/Laws/SoundArray.lean ====
section
/-! SUPPORT. The operations of Machine/Array.lean keep a state sound. -/

namespace Sys2Proof.Machine

variable {Q : List Instr} {τ : Nat}

@[simp] theorem State.blockEvents_sound (old s : State) (c : Ch) (hS : Sound Q τ s) :
    Sound Q τ (State.blockEvents old s c) := by
  simp +contextual (maxDischargeDepth := 40) [State.blockEvents, hS]

end Sys2Proof.Machine
end

