-- ==== Sys2Proof/Laws/SoundBase.lean ====
section
/-! SUPPORT. The operations of Machine/Base.lean keep a state sound. -/

namespace Sys2Proof.Machine

variable {Q : List Instr} {τ : Nat}

@[simp] theorem State.mirrorEvents_sound (old s : State) (hS : Sound Q τ s) :
    Sound Q τ (State.mirrorEvents old s) := by
  simp +contextual (maxDischargeDepth := 40) [State.mirrorEvents, hS]

@[simp] theorem State.noteRoute_sound (s : State) (c run : Ch) (hS : Sound Q τ s) :
    Sound Q τ (State.noteRoute s c run) := by
  simp +contextual (maxDischargeDepth := 40) [State.noteRoute, hS]

@[simp] theorem Chan.modCharge_wf (x : Chan) (gsn : Nat) (fwd : Bool) (f : Charge → Charge) (hX : Chan.wf x) :
    Chan.wf (Chan.modCharge x gsn fwd f) := by
  unfold Chan.modCharge
  try dsimp only
  (repeat' split) <;> simp +contextual (maxDischargeDepth := 40) [*]

@[simp] theorem State.takeFrame_sound (s : State) (vc : Nat) (head : List Byte) (hS : Sound Q τ s) :
    Sound Q τ (State.takeFrame s vc head).1 := by
  simp +contextual (maxDischargeDepth := 40) [State.takeFrame, hS]

@[simp] theorem State.complete_sound (s : State) (hf : Hf) (target fstat : Nat) (rtag : BitVec 16) (fopc : Nat) (data : List Byte) (bell : Option (Nat × Nat)) (hS : Sound Q τ s) :
    Sound Q τ (State.complete s hf target fstat rtag fopc data bell) := by
  simp +contextual (maxDischargeDepth := 40) [State.complete, hS]

@[simp] theorem State.reserveCompletion_sound (s : State) (hf : Hf) (target : Nat) (hS : Sound Q τ s) :
    Sound Q τ (State.reserveCompletion s hf target) := by
  simp +contextual (maxDischargeDepth := 40) [State.reserveCompletion, hS]

@[simp] theorem State.answerCompletion_sound (s : State) (hf : Hf) (target : Nat) (bytes : List Byte) (hS : Sound Q τ s) :
    Sound Q τ (State.answerCompletion s hf target bytes) := by
  simp +contextual (maxDischargeDepth := 40) [State.answerCompletion, hS]

@[simp] theorem State.queueResult_sound (s : State) (dom : Nat) (bytes : List Byte) (hS : Sound Q τ s) :
    Sound Q τ (State.queueResult s dom bytes) := by
  simp +contextual (maxDischargeDepth := 40) [State.queueResult, hS]

@[simp] theorem State.sendUp_sound (s : State) (b : List Byte) (hS : Sound Q τ s) :
    Sound Q τ (State.sendUp s b) := by
  simp +contextual (maxDischargeDepth := 40) [State.sendUp, hS]

@[simp] theorem State.sendDn_sound (s : State) (t : Nat) (b : List Byte) (hS : Sound Q τ s) :
    Sound Q τ (State.sendDn s t b) := by
  simp +contextual (maxDischargeDepth := 40) [State.sendDn, hS]

@[simp] theorem State.openPart_sound (s : State) (p : CascPart) (hS : Sound Q τ s) :
    Sound Q τ (State.openPart s p) := by
  simp +contextual (maxDischargeDepth := 40) [State.openPart, hS]

@[simp] theorem State.modPart_sound (s : State) (gsn : Nat) (f : CascPart → CascPart) (hS : Sound Q τ s) :
    Sound Q τ (State.modPart s gsn f) := by
  simp +contextual (maxDischargeDepth := 40) [State.modPart, hS]

@[simp] theorem State.substitute_sound (s : State) (p : CascPart) (hS : Sound Q τ s) :
    Sound Q τ (State.substitute s p) := by
  simp +contextual (maxDischargeDepth := 40) [State.substitute, hS]

end Sys2Proof.Machine
end

