-- ==== Sys2Proof/Laws/SoundSearch.lean ====
section
/-! SUPPORT. The operations of Machine/Search.lean keep a state sound. -/

namespace Sys2Proof.Machine

variable {Q : List Instr} {τ : Nat}

theorem execSearch_sound (f : SearchFrame) (s : State) (hS : Sound Q τ s) :
    SoundOut Q τ (execSearch f s) := by
  simp +contextual (maxDischargeDepth := 40) [execSearch, hS]

@[simp] theorem State.setDomain_sound (s : State) (k : Nat) (d : DomainRec) (hS : Sound Q τ s) :
    Sound Q τ (State.setDomain s k d) := by
  simp +contextual (maxDischargeDepth := 40) [State.setDomain, hS]

@[simp] theorem State.openRecord_sound (s : State) (f : SearchFrame) (c : Ch) (early : Bool) (lNs : Nat) (group : Bool) (res : Option Result) (hS : Sound Q τ s) :
    Sound Q τ (State.openRecord s f c early lNs group res) := by
  simp +contextual (maxDischargeDepth := 40) [State.openRecord, hS]

@[simp] theorem State.useCredits_sound (s : State) (f : SearchFrame) (n : Nat) (hS : Sound Q τ s) :
    Sound Q τ (State.useCredits s f n) := by
  simp +contextual (maxDischargeDepth := 40) [State.useCredits, hS]

@[simp] theorem State.passKey_sound (s : State) (t : Nat) (h : CascHdr) (f : SearchFrame) (p : CascPart) (hS : Sound Q τ s) :
    Sound Q τ (State.passKey s t h f p) := by
  simp +contextual (maxDischargeDepth := 40) [State.passKey, hS]

@[simp] theorem State.ownEmpty_sound (s : State) (gsn : Nat) (degraded : Bool) (hS : Sound Q τ s) :
    Sound Q τ (State.ownEmpty s gsn degraded) := by
  simp +contextual (maxDischargeDepth := 40) [State.ownEmpty, hS]

@[simp] theorem State.bypassPart_sound (s : State) (gsn : Nat) (hS : Sound Q τ s) :
    Sound Q τ (State.bypassPart s gsn) := by
  simp +contextual (maxDischargeDepth := 40) [State.bypassPart, hS]

@[simp] theorem State.forwardGroup_sound (s : State) (a : Accept) (f : SearchFrame) (gsn : Nat) (hS : Sound Q τ s) :
    Sound Q τ (State.forwardGroup s a f gsn) := by
  simp +contextual (maxDischargeDepth := 40) [State.forwardGroup, hS]

@[simp] theorem State.accept_sound (s : State) (f : SearchFrame) (credits : Nat) (a : Accept) (hS : Sound Q τ s) :
    Sound Q τ (State.accept s f credits a) := by
  unfold State.accept
  (repeat' split) <;> simp +contextual (maxDischargeDepth := 40) [hS]

@[simp] theorem State.passCancel_sound (s : State) (h : CascHdr) (hS : Sound Q τ s) :
    Sound Q τ (State.passCancel s h) := by
  simp +contextual (maxDischargeDepth := 40) [State.passCancel, hS]

@[simp] theorem Chan.pushCancel_wf (x : Chan) (gsn : Nat) (fwd : Bool) (now : Nat) (hX : Chan.wf x) :
    Chan.wf (Chan.pushCancel x gsn fwd now) := by
  unfold Chan.pushCancel
  try dsimp only
  (repeat' split) <;> simp +contextual (maxDischargeDepth := 40) [*]

@[simp] theorem State.cancelMiss_sound (s : State) (known : Bool) (hS : Sound Q τ s) :
    Sound Q τ (State.cancelMiss s known) := by
  simp +contextual (maxDischargeDepth := 40) [State.cancelMiss, hS]

@[simp] theorem State.applyCancel_sound (s : State) (hf : Hf) (tag : BitVec 16) (hS : Sound Q τ s) :
    Sound Q τ (State.applyCancel s hf tag) := by
  unfold State.applyCancel
  (repeat' split) <;> simp +contextual (maxDischargeDepth := 40) [hS]

theorem execCancel_sound (hf : Hf) (tag : BitVec 16) (s : State) (hS : Sound Q τ s) :
    SoundOut Q τ (execCancel hf tag s) := by
  simp +contextual (maxDischargeDepth := 40) [execCancel, hS]

theorem execAcceptance_sound (s : State) (hS : Sound Q τ s) :
    SoundOut Q τ (execAcceptance s) := by
  unfold execAcceptance
  (repeat' split) <;> simp +contextual (maxDischargeDepth := 40) [hS]

@[simp] theorem State.countIngress_sound (s : State) (c : Ch) (f : SearchFrame) (k : Ctx) (hS : Sound Q τ s) :
    Sound Q τ (State.countIngress s c f k) := by
  unfold State.countIngress
  repeat' first
    | (extract_lets +onlyGivenNames s; first
        | (refine (fun (hS : Sound Q τ s) => ?_) ?_; clear_value s; have hW := hS.chan_wf; rotate_left; dsimp -zeta only [s]; clear s)
        | (have hE : (s : _ → _) = s := rfl; clear hE; dsimp -zeta only [s]; clear s)
        | clear_value s)
    | split
  all_goals simp +contextual (maxDischargeDepth := 40) [*]

@[simp] theorem State.fixedRelease_sound (s : State) (gsn : Nat) (hS : Sound Q τ s) :
    Sound Q τ (State.fixedRelease s gsn) := by
  simp +contextual (maxDischargeDepth := 40) [State.fixedRelease, hS]

theorem execChannelIngress_sound (c : Ch) (s : State) (hS : Sound Q τ s) :
    SoundOut Q τ (execChannelIngress c s) := by
  unfold execChannelIngress
  (repeat' split) <;> simp +contextual (maxDischargeDepth := 40) [hS]

@[simp] theorem State.fillLaunch_sound (s : State) (c : Ch) (t : Nat) (hS : Sound Q τ s) :
    Sound Q τ (State.fillLaunch s c t) := by
  have hW := hS.chan_wf
  unfold State.fillLaunch
  repeat' first
    | (extract_lets +onlyGivenNames s; first
        | (refine (fun (hS : Sound Q τ s) => ?_) ?_; clear_value s; have hW := hS.chan_wf; rotate_left; dsimp -zeta only [s]; clear s)
        | (refine (fun (hS : Sound Q τ s.1) => ?_) ?_; clear_value s; have hW := hS.chan_wf; rotate_left; dsimp -zeta only [s]; clear s)
        | (refine (fun (hS : Sound Q τ s.2) => ?_) ?_; clear_value s; have hW := hS.chan_wf; rotate_left; dsimp -zeta only [s]; clear s)
        | (refine (fun (hS : Sound Q τ s.2.2) => ?_) ?_; clear_value s; have hW := hS.chan_wf; rotate_left; dsimp -zeta only [s]; clear s)
        | (refine (fun (hX : Chan.wf s) => ?_) ?_; clear_value s; rotate_left; dsimp -zeta only [s]; clear s)
        | (have hE : (s : _ → _) = s := rfl; clear hE; dsimp -zeta only [s]; clear s)
        | (have hE : (s : Events) = s := rfl; clear hE; dsimp -zeta only [s]; clear s)
        | clear_value s)
    | with_reducible refine soundOut_next.mpr ?_
    | (with_reducible refine sound_foldl' ?_ ?_; rotate_left; intro s a hS; have hW := hS.chan_wf; try beta_reduce)
    | (with_reducible refine sound_foldl_fst ?_ _ ?_; intro s a hS; have hW := hS.chan_wf; try beta_reduce)
    | (with_reducible refine sound_foldl_snd ?_ _ ?_; intro s a hS; have hW := hS.chan_wf; try beta_reduce)
    | split
  all_goals first
    | contradiction
    | simp +contextual (maxDischargeDepth := 40) [*]

@[simp] theorem State.dropLaunch_sound (s : State) (c : Ch) (hS : Sound Q τ s) :
    Sound Q τ (State.dropLaunch s c) := by
  have hW := hS.chan_wf
  unfold State.dropLaunch
  repeat' first
    | (extract_lets +onlyGivenNames s; first
        | (refine (fun (hS : Sound Q τ s) => ?_) ?_; clear_value s; have hW := hS.chan_wf; rotate_left; dsimp -zeta only [s]; clear s)
        | (refine (fun (hS : Sound Q τ s.1) => ?_) ?_; clear_value s; have hW := hS.chan_wf; rotate_left; dsimp -zeta only [s]; clear s)
        | (refine (fun (hS : Sound Q τ s.2) => ?_) ?_; clear_value s; have hW := hS.chan_wf; rotate_left; dsimp -zeta only [s]; clear s)
        | (refine (fun (hS : Sound Q τ s.2.2) => ?_) ?_; clear_value s; have hW := hS.chan_wf; rotate_left; dsimp -zeta only [s]; clear s)
        | (refine (fun (hX : Chan.wf s) => ?_) ?_; clear_value s; rotate_left; dsimp -zeta only [s]; clear s)
        | (have hE : (s : _ → _) = s := rfl; clear hE; dsimp -zeta only [s]; clear s)
        | (have hE : (s : Events) = s := rfl; clear hE; dsimp -zeta only [s]; clear s)
        | clear_value s)
    | with_reducible refine soundOut_next.mpr ?_
    | (with_reducible refine sound_foldl' ?_ ?_; rotate_left; intro s a hS; have hW := hS.chan_wf; try beta_reduce)
    | (with_reducible refine sound_foldl_fst ?_ _ ?_; intro s a hS; have hW := hS.chan_wf; try beta_reduce)
    | (with_reducible refine sound_foldl_snd ?_ _ ?_; intro s a hS; have hW := hS.chan_wf; try beta_reduce)
    | split
  all_goals first
    | contradiction
    | simp +contextual (maxDischargeDepth := 40) [*]

@[simp] theorem State.startLookup_sound (s : State) (c : Ch) (n : Nat) (q : Launch) (i : Nat) (hS : Sound Q τ s) :
    Sound Q τ (State.startLookup s c n q i) := by
  unfold State.startLookup
  (repeat' split) <;> simp +contextual (maxDischargeDepth := 40) [hS]

@[simp] theorem State.readGroups_sound (s : State) (c : Ch) (n : Nat) (hS : Sound Q τ s) :
    Sound Q τ (State.readGroups s c n) := by
  simp +contextual (maxDischargeDepth := 40) [State.readGroups, hS]

@[simp] theorem State.dropTicket_sound (s : State) (c : Ch) (id : Nat) (hS : Sound Q τ s) :
    Sound Q τ (State.dropTicket s c id) := by
  simp +contextual (maxDischargeDepth := 40) [State.dropTicket, hS]

@[simp] theorem State.dropCtxFlow_sound (s : State) (c : Ch) (k : Ctx) (hS : Sound Q τ s) :
    Sound Q τ (State.dropCtxFlow s c k) := by
  unfold State.dropCtxFlow
  (repeat' split) <;> simp +contextual (maxDischargeDepth := 40) [hS]

@[simp] theorem State.endFlow_sound (s : State) (c : Ch) (k : Ctx) (part : FlowPart) (hS : Sound Q τ s) :
    Sound Q τ (State.endFlow s c k part) := by
  simp +contextual (maxDischargeDepth := 40) [State.endFlow, hS]

@[simp] theorem State.flowCondition_sound (s : State) (c : Ch) (n : Nat) (hS : Sound Q τ s) :
    Sound Q τ (State.flowCondition s c n) := by
  unfold State.flowCondition
  (repeat' split) <;> simp +contextual (maxDischargeDepth := 40) [hS]

theorem execSearchSlot_sound (c : Ch) (s : State) (hS : Sound Q τ s) :
    SoundOut Q τ (execSearchSlot c s) := by
  unfold execSearchSlot
  repeat' first
    | (extract_lets +onlyGivenNames s; first
        | (refine (fun (hS : Sound Q τ s) => ?_) ?_; clear_value s; have hW := hS.chan_wf; rotate_left; dsimp -zeta only [s]; clear s)
        | clear_value s)
    | split
  all_goals simp +contextual (maxDischargeDepth := 40) [*]

@[simp] theorem Chan.queuePass_wf (x : Chan) (bank block : Nat) (hX : Chan.wf x) :
    Chan.wf (Chan.queuePass x bank block) := by
  unfold Chan.queuePass
  try dsimp only
  (repeat' split) <;> simp +contextual (maxDischargeDepth := 40) [*]

@[simp] theorem State.buoyFail_sound (s : State) (c : Ch) (q : BlockSense) (near : Bool) (hS : Sound Q τ s) :
    Sound Q τ (State.buoyFail s c q near) := by
  simp +contextual (maxDischargeDepth := 40) [State.buoyFail, hS]

@[simp] theorem State.takeSample_sound (s : State) (c : Ch) (k : Ctx) (l : Look) (hS : Sound Q τ s) :
    Sound Q τ (State.takeSample s c k l) := by
  simp +contextual (maxDischargeDepth := 40) [State.takeSample, hS]

@[simp] theorem State.finishLookup_sound (s : State) (c : Ch) (n i : Nat) (sense : List BlockSense) (hS : Sound Q τ s) :
    Sound Q τ (State.finishLookup s c n i sense) := by
  unfold State.finishLookup
  repeat' first
    | (extract_lets +onlyGivenNames s; first
        | (refine (fun (hS : Sound Q τ s) => ?_) ?_; clear_value s; have hW := hS.chan_wf; rotate_left; dsimp -zeta only [s]; clear s)
        | (have hE : (s : _ → _) = s := rfl; clear hE; dsimp -zeta only [s]; clear s)
        | clear_value s)
    | split
  all_goals simp +contextual (maxDischargeDepth := 40) [*]

theorem execLookupDone_sound (c : Ch) (ctx : Fin 2048) (sense : List BlockSense) (s : State) (hS : Sound Q τ s) :
    SoundOut Q τ (execLookupDone c ctx sense s) := by
  unfold execLookupDone
  (repeat' split) <;> simp +contextual (maxDischargeDepth := 40) [hS]

@[simp] theorem State.placeExt_sound (s : State) (c : Ch) (k : Ctx) (lookup at_ : Nat) (hS : Sound Q τ s) :
    Sound Q τ (State.placeExt s c k lookup at_) := by
  have hW := hS.chan_wf
  unfold State.placeExt
  repeat' first
    | (extract_lets +onlyGivenNames s; first
        | (refine (fun (hS : Sound Q τ s) => ?_) ?_; clear_value s; have hW := hS.chan_wf; rotate_left; dsimp -zeta only [s]; clear s)
        | (refine (fun (hS : Sound Q τ s.1) => ?_) ?_; clear_value s; have hW := hS.chan_wf; rotate_left; dsimp -zeta only [s]; clear s)
        | (refine (fun (hS : Sound Q τ s.2) => ?_) ?_; clear_value s; have hW := hS.chan_wf; rotate_left; dsimp -zeta only [s]; clear s)
        | (refine (fun (hS : Sound Q τ s.2.2) => ?_) ?_; clear_value s; have hW := hS.chan_wf; rotate_left; dsimp -zeta only [s]; clear s)
        | (refine (fun (hX : Chan.wf s) => ?_) ?_; clear_value s; rotate_left; dsimp -zeta only [s]; clear s)
        | (have hE : (s : _ → _) = s := rfl; clear hE; dsimp -zeta only [s]; clear s)
        | (have hE : (s : Events) = s := rfl; clear hE; dsimp -zeta only [s]; clear s)
        | clear_value s)
    | with_reducible refine soundOut_next.mpr ?_
    | (with_reducible refine sound_foldl' ?_ ?_; rotate_left; intro s a hS; have hW := hS.chan_wf; try beta_reduce)
    | (with_reducible refine sound_foldl_fst ?_ _ ?_; intro s a hS; have hW := hS.chan_wf; try beta_reduce)
    | (with_reducible refine sound_foldl_snd ?_ _ ?_; intro s a hS; have hW := hS.chan_wf; try beta_reduce)
    | split
  all_goals first
    | contradiction
    | simp +contextual (maxDischargeDepth := 40) [*]

theorem execExtAdReadDone_sound (c : Ch) (ctx : Fin 2048) (lookup : Fin 4) (s : State) (hS : Sound Q τ s) :
    SoundOut Q τ (execExtAdReadDone c ctx lookup s) := by
  unfold execExtAdReadDone
  repeat' first
    | (extract_lets +onlyGivenNames s; first
        | (refine (fun (hS : Sound Q τ s) => ?_) ?_; clear_value s; have hW := hS.chan_wf; rotate_left; dsimp -zeta only [s]; clear s)
        | (have hE : (s : _ → _) = s := rfl; clear hE; dsimp -zeta only [s]; clear s)
        | clear_value s)
    | split
  all_goals simp +contextual (maxDischargeDepth := 40) [*]

@[simp] theorem State.egressCtx_sound (s : State) (c : Ch) (k : Ctx) (r : Result) (hS : Sound Q τ s) :
    Sound Q τ (State.egressCtx s c k r) := by
  simp +contextual (maxDischargeDepth := 40) [State.egressCtx, hS]

theorem execResultAssemblyDone_sound (c : Ch) (ctx : Fin 2048) (s : State) (hS : Sound Q τ s) :
    SoundOut Q τ (execResultAssemblyDone c ctx s) := by
  unfold execResultAssemblyDone
  (repeat' split) <;> simp +contextual (maxDischargeDepth := 40) [hS]

end Sys2Proof.Machine
end

