-- ==== Sys2Proof/Laws/SoundRelease.lean ====
section
/-! SUPPORT. The operations of Machine/Release.lean keep a state sound. -/

namespace Sys2Proof.Machine

variable {Q : List Instr} {τ : Nat}

theorem execCancelAtChannel_sound (c : Ch) (s : State) (hS : Sound Q τ s) :
    SoundOut Q τ (execCancelAtChannel c s) := by
  unfold execCancelAtChannel
  repeat' first
    | (extract_lets +onlyGivenNames s; (refine (fun (hS : Sound Q τ s) => ?_) ?_; clear_value s; have hW := hS.chan_wf; rotate_left; dsimp -zeta only [s]; clear s))
    | split
  all_goals simp +contextual (maxDischargeDepth := 40) [*]

theorem execCancelledContextFreed_sound (c : Ch) (ctx : Fin 2048) (s : State) (hS : Sound Q τ s) :
    SoundOut Q τ (execCancelledContextFreed c ctx s) := by
  unfold execCancelledContextFreed
  (repeat' split) <;> simp +contextual (maxDischargeDepth := 40) [hS]

theorem execContextFreeCrossed_sound (c : Ch) (s : State) (hS : Sound Q τ s) :
    SoundOut Q τ (execContextFreeCrossed c s) := by
  unfold execContextFreeCrossed
  (repeat' split) <;> simp +contextual (maxDischargeDepth := 40) [hS]

@[simp] theorem State.completeRecord_sound (s : State) (gsn : Nat) (r : Result) (hS : Sound Q τ s) :
    Sound Q τ (State.completeRecord s gsn r) := by
  unfold State.completeRecord
  (repeat' split) <;> simp +contextual (maxDischargeDepth := 40) [hS]

@[simp] theorem State.ownPart_sound (s : State) (gsn : Nat) (r : Result) (hS : Sound Q τ s) :
    Sound Q τ (State.ownPart s gsn r) := by
  simp +contextual (maxDischargeDepth := 40) [State.ownPart, hS]

theorem execResultAtReleaseUnit_sound (c : Ch) (s : State) (hS : Sound Q τ s) :
    SoundOut Q τ (execResultAtReleaseUnit c s) := by
  unfold execResultAtReleaseUnit
  (repeat' split) <;> simp +contextual (maxDischargeDepth := 40) [hS]

theorem execRelease_sound (domain : Fin 512) (s : State) (hS : Sound Q τ s) :
    SoundOut Q τ (execRelease domain s) := by
  unfold execRelease
  (repeat' split) <;> simp +contextual (maxDischargeDepth := 40) [hS]

@[simp] theorem State.govern_sound (s : State) (hS : Sound Q τ s) :
    Sound Q τ (State.govern s) := by
  simp +contextual (maxDischargeDepth := 40) [State.govern, hS]

@[simp] theorem State.chargeCredit_sound (s : State) (c : Ch) (hS : Sound Q τ s) :
    Sound Q τ (State.chargeCredit s c) := by
  simp +contextual (maxDischargeDepth := 40) [State.chargeCredit, hS]

theorem execSlotCreditIssue_sound (c : Ch) (s : State) (hS : Sound Q τ s) :
    SoundOut Q τ (execSlotCreditIssue c s) := by
  unfold execSlotCreditIssue
  repeat' first
    | (extract_lets +onlyGivenNames s; first
        | (refine (fun (hS : Sound Q τ s) => ?_) ?_; clear_value s; have hW := hS.chan_wf; rotate_left; dsimp -zeta only [s]; clear s)
        | clear_value s)
    | split
  all_goals simp +contextual (maxDischargeDepth := 40) [*]

theorem execGroupCreditIssue_sound (c : Ch) (s : State) (hS : Sound Q τ s) :
    SoundOut Q τ (execGroupCreditIssue c s) := by
  simp +contextual (maxDischargeDepth := 40) [execGroupCreditIssue, hS]

end Sys2Proof.Machine
end

