-- ==== Sys2Proof/Laws/SoundFlowOps.lean ====
section
/-! SUPPORT. The operations of Machine/FlowOps.lean keep a state sound. -/

namespace Sys2Proof.Machine

variable {Q : List Instr} {τ : Nat}

@[simp] theorem Chan.writeSlot_wf (x : Chan) (now i : Nat) (v : HbmSlot) (hX : Chan.wf x) :
    Chan.wf (Chan.writeSlot x now i v) := by
  unfold Chan.writeSlot
  try dsimp only
  (repeat' split) <;> simp +contextual (maxDischargeDepth := 40) [*]

@[simp] theorem Chan.setPen_wf (x : Chan) (e : Nat) (v : PenEntry) (hX : Chan.wf x) :
    Chan.wf (Chan.setPen x e v) := by
  unfold Chan.setPen
  try dsimp only
  (repeat' split) <;> simp +contextual (maxDischargeDepth := 40) [*]

@[simp] theorem State.countFixed_sound (s : State) (c : Ch) (n : Nat) (hS : Sound Q τ s) :
    Sound Q τ (State.countFixed s c n) := by
  simp +contextual (maxDischargeDepth := 40) [State.countFixed, hS]

@[simp] theorem State.fixSlot_sound (s : State) (c : Ch) (i : Nat) (hS : Sound Q τ s) :
    Sound Q τ (State.fixSlot s c i) := by
  simp +contextual (maxDischargeDepth := 40) [State.fixSlot, hS]

@[simp] theorem State.fixBucket_sound (s : State) (c : Ch) (i0 : Nat) (hS : Sound Q τ s) :
    Sound Q τ (State.fixBucket s c i0) := by
  simp +contextual (maxDischargeDepth := 40) [State.fixBucket, hS]

@[simp] theorem State.fixPen_sound (s : State) (c : Ch) (e : Nat) (hS : Sound Q τ s) :
    Sound Q τ (State.fixPen s c e) := by
  simp +contextual (maxDischargeDepth := 40) [State.fixPen, hS]

@[simp] theorem State.countBad_sound (s : State) (c : Ch) (p : FPlace) (hS : Sound Q τ s) :
    Sound Q τ (State.countBad s c p) := by
  simp +contextual (maxDischargeDepth := 40) [State.countBad, hS]

@[simp] theorem State.readPlaces_sound (s : State) (c : Ch) (q : FlowKey) (hS : Sound Q τ s) :
    Sound Q τ (State.readPlaces s c q) := by
  unfold State.readPlaces
  repeat' first
    | (extract_lets +onlyGivenNames s; (refine (fun (hS : Sound Q τ s) => ?_) ?_; clear_value s; have hW := hS.chan_wf; rotate_left; dsimp -zeta only [s]; clear s))
    | (with_reducible refine sound_foldl' ?_ ?_; rotate_left; intro s a hS; have hW := hS.chan_wf; try beta_reduce)
    | split
  all_goals simp +contextual (maxDischargeDepth := 40) [*]

@[simp] theorem Chan.putFlow_wf (x : Chan) (now : Nat) (q : FlowKey) (p : FPlace) (data : BitVec 512) (age : Nat) (st : Bool) (hX : Chan.wf x) :
    Chan.wf (Chan.putFlow x now q p data age st) := by
  unfold Chan.putFlow
  try dsimp only
  (repeat' split) <;> simp +contextual (maxDischargeDepth := 40) [*]

@[simp] theorem Chan.dropFlow_wf (x : Chan) (now : Nat) (double : Bool) (p : FPlace) (hX : Chan.wf x) :
    Chan.wf (Chan.dropFlow x now double p) := by
  unfold Chan.dropFlow
  try dsimp only
  (repeat' split) <;> simp +contextual (maxDischargeDepth := 40) [*]

@[simp] theorem State.addFlows_sound (s : State) (c : Ch) (t : Nat) (up : Bool) (hS : Sound Q τ s) :
    Sound Q τ (State.addFlows s c t up) := by
  simp +contextual (maxDischargeDepth := 40) [State.addFlows, hS]

@[simp] theorem State.penEvents_sound (old s : State) (c : Ch) (hS : Sound Q τ s) :
    Sound Q τ (State.penEvents old s c) := by
  simp +contextual (maxDischargeDepth := 40) [State.penEvents, hS]

@[simp] theorem State.noteCommit_sound (s : State) (c : Ch) (slots : List Nat) (create : Bool) (hS : Sound Q τ s) :
    Sound Q τ (State.noteCommit s c slots create) := by
  simp +contextual (maxDischargeDepth := 40) [State.noteCommit, hS]

@[simp] theorem State.addTicket_sound (s : State) (c : Ch) (tk : Ticket) (hS : Sound Q τ s) :
    Sound Q τ (State.addTicket s c tk) := by
  simp +contextual (maxDischargeDepth := 40) [State.addTicket, hS]

@[simp] theorem State.openTicket_sound (s : State) (c : Ch) (owner : FlowOwner) (t : Nat) (key : Nat) (joined : Bool) (hS : Sound Q τ s) :
    Sound Q τ (State.openTicket s c owner t key joined) := by
  simp +contextual (maxDischargeDepth := 40) [State.openTicket, hS]

@[simp] theorem State.openStep_sound (s : State) (c : Ch) (owner : FlowOwner) (t b1 b2 : Nat) (lines : Bool) (hS : Sound Q τ s) :
    Sound Q τ (State.openStep s c owner t b1 b2 lines) := by
  simp +contextual (maxDischargeDepth := 40) [State.openStep, hS]

end Sys2Proof.Machine
end

