-- ==== Sys2Proof/Laws/SoundFlow.lean ====
section
/-! SUPPORT. The operations of Machine/Flow.lean keep a state sound. -/

namespace Sys2Proof.Machine

variable {Q : List Instr} {τ : Nat}

theorem execFlowBucketArrival_sound (c : Ch) (s : State) (hS : Sound Q τ s) :
    SoundOut Q τ (execFlowBucketArrival c s) := by
  unfold execFlowBucketArrival
  repeat' first
    | (extract_lets +onlyGivenNames s; first
        | (refine (fun (hS : Sound Q τ s) => ?_) ?_; clear_value s; have hW := hS.chan_wf; rotate_left; dsimp -zeta only [s]; clear s)
        | clear_value s)
    | split
  all_goals simp +contextual (maxDischargeDepth := 40) [*]

@[simp] theorem Chan.flushLine_wf (x : Chan) (l : CacheLine) (hX : Chan.wf x) :
    Chan.wf (Chan.flushLine x l) := by
  unfold Chan.flushLine
  try dsimp only
  (repeat' split) <;> simp +contextual (maxDischargeDepth := 40) [*]

@[simp] theorem State.fillLine_sound (s : State) (c : Ch) (slot : Nat) (hS : Sound Q τ s) :
    Sound Q τ (State.fillLine s c slot) := by
  have hW := hS.chan_wf
  unfold State.fillLine
  repeat' first
    | (extract_lets +onlyGivenNames s; first
        | (refine (fun (hX : Chan.wf s) => ?_) ?_; clear_value s; rotate_left; dsimp -zeta only [s]; clear s)
        | clear_value s)
    | split
  all_goals simp +contextual (maxDischargeDepth := 40) [*]

@[simp] theorem State.noteLines_sound (s : State) (c : Ch) (t : Nat) (hS : Sound Q τ s) :
    Sound Q τ (State.noteLines s c t) := by
  simp +contextual (maxDischargeDepth := 40) [State.noteLines, hS]

@[simp] theorem State.arriveLine_sound (s : State) (c : Ch) (slot at_ : Nat) (hS : Sound Q τ s) :
    Sound Q τ (State.arriveLine s c slot at_) := by
  simp +contextual (maxDischargeDepth := 40) [State.arriveLine, hS]

@[simp] theorem State.writeLine_sound (s : State) (c : Ch) (slot : Nat) (hS : Sound Q τ s) :
    Sound Q τ (State.writeLine s c slot) := by
  unfold State.writeLine
  (repeat' split) <;> simp +contextual (maxDischargeDepth := 40) [hS]

@[simp] theorem State.flowDue_sound (s : State) (c : Ch) (hS : Sound Q τ s) :
    Sound Q τ (State.flowDue s c) := by
  simp +contextual (maxDischargeDepth := 40) [State.flowDue, hS]

theorem execLineGroupGrant_sound (c : Ch) (s : State) (hS : Sound Q τ s) :
    SoundOut Q τ (execLineGroupGrant c s) := by
  have hW := hS.chan_wf
  unfold execLineGroupGrant
  repeat' first
    | (extract_lets +onlyGivenNames s; first
        | (refine (fun (hS : Sound Q τ s) => ?_) ?_; clear_value s; have hW := hS.chan_wf; rotate_left; dsimp -zeta only [s]; clear s)
        | (refine (fun (hS : Sound Q τ s.1) => ?_) ?_; clear_value s; have hW := hS.chan_wf; rotate_left; dsimp -zeta only [s]; clear s)
        | (refine (fun (hS : Sound Q τ s.2) => ?_) ?_; clear_value s; have hW := hS.chan_wf; rotate_left; dsimp -zeta only [s]; clear s)
        | (refine (fun (hS : Sound Q τ s.2.2) => ?_) ?_; clear_value s; have hW := hS.chan_wf; rotate_left; dsimp -zeta only [s]; clear s)
        | (refine (fun (hX : Chan.wf s) => ?_) ?_; clear_value s; rotate_left; dsimp -zeta only [s]; clear s)
        | (have hE : (s : _ → _) = s := rfl; clear hE; dsimp -zeta only [s]; clear s)
        | (have hE : (s : Events) = s := rfl; clear hE; dsimp -zeta only [s]; clear s)
        | clear_value s)
    | with_reducible refine soundOut_next.mpr ?_
    | (with_reducible refine sound_foldl' ?_ ?_; rotate_left; intro s a hS; have hW := hS.chan_wf; try beta_reduce)
    | (with_reducible refine sound_foldl_fst ?_ _ ?_; intro s a hS; have hW := hS.chan_wf; try beta_reduce)
    | (with_reducible refine sound_foldl_snd ?_ _ ?_; intro s a hS; have hW := hS.chan_wf; try beta_reduce)
    | split
  all_goals first
    | contradiction
    | simp +contextual (maxDischargeDepth := 40) [*]

theorem execLineArrival_sound (c : Ch) (slot : Nat) (s : State) (hS : Sound Q τ s) (hslot : ¬ flowSlots ≤ slot) :
    SoundOut Q τ (execLineArrival c slot s) := by
  unfold execLineArrival
  repeat' first
    | (extract_lets +onlyGivenNames s; (refine (fun (hS : Sound Q τ s) => ?_) ?_; clear_value s; have hW := hS.chan_wf; rotate_left; dsimp -zeta only [s]; clear s))
    | split
  all_goals first
    | contradiction
    | simp +contextual (maxDischargeDepth := 40) [*]

theorem execCacheWriteback_sound (c : Ch) (slot : Nat) (s : State) (hS : Sound Q τ s) (hslot : ¬ flowSlots ≤ slot) :
    SoundOut Q τ (execCacheWriteback c slot s) := by
  unfold execCacheWriteback
  repeat' split
  all_goals first
    | contradiction
    | simp +contextual (maxDischargeDepth := 40) [*]

@[simp] theorem State.flowOp_sound (s : State) (c : Ch) (k : Ctx) (q : FlowKey) (found : Found) (hS : Sound Q τ s) :
    Sound Q τ (State.flowOp s c k q found).2.2 := by
  have hW := hS.chan_wf
  unfold State.flowOp
  repeat' first
    | (extract_lets +onlyGivenNames s; first
        | (refine (fun (hS : Sound Q τ s) => ?_) ?_; clear_value s; have hW := hS.chan_wf; rotate_left; dsimp -zeta only [s]; clear s)
        | (refine (fun (hX : Chan.wf s) => ?_) ?_; clear_value s; rotate_left; dsimp -zeta only [s]; clear s))
    | split
  all_goals simp +contextual (maxDischargeDepth := 40) [*]

theorem execFlowCommit_sound (c : Ch) (ticket : Nat) (s : State) (hS : Sound Q τ s) :
    SoundOut Q τ (execFlowCommit c ticket s) := by
  have hW := hS.chan_wf
  unfold execFlowCommit
  repeat' first
    | (extract_lets +onlyGivenNames s; first
        | (refine (fun (hS : Sound Q τ s) => ?_) ?_; clear_value s; have hW := hS.chan_wf; rotate_left; dsimp -zeta only [s]; clear s)
        | (refine (fun (hS : Sound Q τ s.1) => ?_) ?_; clear_value s; have hW := hS.chan_wf; rotate_left; dsimp -zeta only [s]; clear s)
        | (refine (fun (hS : Sound Q τ s.2) => ?_) ?_; clear_value s; have hW := hS.chan_wf; rotate_left; dsimp -zeta only [s]; clear s)
        | (refine (fun (hS : Sound Q τ s.2.2) => ?_) ?_; clear_value s; have hW := hS.chan_wf; rotate_left; dsimp -zeta only [s]; clear s)
        | (refine (fun (hX : Chan.wf s) => ?_) ?_; clear_value s; rotate_left; dsimp -zeta only [s]; clear s)
        | (have hE : (s : _ → _) = s := rfl; clear hE; dsimp -zeta only [s]; clear s)
        | (have hE : (s : Events) = s := rfl; clear hE; dsimp -zeta only [s]; clear s)
        | clear_value s)
    | with_reducible refine soundOut_next.mpr ?_
    | (with_reducible refine sound_foldl' ?_ ?_; rotate_left; intro s a hS; have hW := hS.chan_wf; try beta_reduce)
    | (with_reducible refine sound_foldl_fst ?_ _ ?_; intro s a hS; have hW := hS.chan_wf; try beta_reduce)
    | (with_reducible refine sound_foldl_snd ?_ _ ?_; intro s a hS; have hW := hS.chan_wf; try beta_reduce)
    | split
  all_goals first
    | contradiction
    | simp +contextual (maxDischargeDepth := 40) [*]

@[simp] theorem State.extDue_sound (s : State) (c : Ch) (k : Ctx) (hS : Sound Q τ s) :
    Sound Q τ (State.extDue s c k) := by
  simp +contextual (maxDischargeDepth := 40) [State.extDue, hS]

theorem execFlowSlotDeadline_sound (c : Ch) (ctx : Fin 2048) (s : State) (hS : Sound Q τ s) :
    SoundOut Q τ (execFlowSlotDeadline c ctx s) := by
  have hW := hS.chan_wf
  unfold execFlowSlotDeadline
  repeat' first
    | (extract_lets +onlyGivenNames s; first
        | (refine (fun (hS : Sound Q τ s) => ?_) ?_; clear_value s; have hW := hS.chan_wf; rotate_left; dsimp -zeta only [s]; clear s)
        | (refine (fun (hS : Sound Q τ s.1) => ?_) ?_; clear_value s; have hW := hS.chan_wf; rotate_left; dsimp -zeta only [s]; clear s)
        | (refine (fun (hS : Sound Q τ s.2) => ?_) ?_; clear_value s; have hW := hS.chan_wf; rotate_left; dsimp -zeta only [s]; clear s)
        | (refine (fun (hS : Sound Q τ s.2.2) => ?_) ?_; clear_value s; have hW := hS.chan_wf; rotate_left; dsimp -zeta only [s]; clear s)
        | (refine (fun (hX : Chan.wf s) => ?_) ?_; clear_value s; rotate_left; dsimp -zeta only [s]; clear s)
        | (have hE : (s : _ → _) = s := rfl; clear hE; dsimp -zeta only [s]; clear s)
        | (have hE : (s : Events) = s := rfl; clear hE; dsimp -zeta only [s]; clear s)
        | clear_value s)
    | with_reducible refine soundOut_next.mpr ?_
    | (with_reducible refine sound_foldl' ?_ ?_; rotate_left; intro s a hS; have hW := hS.chan_wf; try beta_reduce)
    | (with_reducible refine sound_foldl_fst ?_ _ ?_; intro s a hS; have hW := hS.chan_wf; try beta_reduce)
    | (with_reducible refine sound_foldl_snd ?_ _ ?_; intro s a hS; have hW := hS.chan_wf; try beta_reduce)
    | split
  all_goals first
    | contradiction
    | simp +contextual (maxDischargeDepth := 40) [*]

@[simp] theorem Chan.dropEngine_wf (x : Chan) (p : FlowOwner → Bool) (hX : Chan.wf x) :
    Chan.wf (Chan.dropEngine x p) := by
  unfold Chan.dropEngine
  try dsimp only
  (repeat' split) <;> simp +contextual (maxDischargeDepth := 40) [*]

@[simp] theorem State.fixPenRecord_sound (s : State) (c : Ch) (p : FPlace) (hS : Sound Q τ s) :
    Sound Q τ (State.fixPenRecord s c p) := by
  unfold State.fixPenRecord
  (repeat' split) <;> simp +contextual (maxDischargeDepth := 40) [hS]

@[simp] theorem Chan.applyMove_wf (x : Chan) (now : Nat) (m : Move) (hX : Chan.wf x) :
    Chan.wf (Chan.applyMove x now m) := by
  unfold Chan.applyMove
  try dsimp only
  (repeat' split) <;> simp +contextual (maxDischargeDepth := 40) [*]

@[simp] theorem Chan.relocate_wf (x : Chan) (now : Nat) (double : Bool) (pen : FPlace) (plan : FPlace × List Move) (hX : Chan.wf x) :
    Chan.wf (Chan.relocate x now double pen plan) := by
  unfold Chan.relocate
  try dsimp only
  (repeat' split) <;> simp +contextual (maxDischargeDepth := 40) [*]

@[simp] theorem State.widenTicket_sound (s : State) (c : Ch) (id : Nat) (bs : List Nat) (hS : Sound Q τ s) :
    Sound Q τ (State.widenTicket s c id bs) := by
  simp +contextual (maxDischargeDepth := 40) [State.widenTicket, hS]

@[simp] theorem State.relocCommit_sound (s : State) (c : Ch) (tk : Ticket) (e : Nat) (hS : Sound Q τ s) :
    Sound Q τ (State.relocCommit s c tk e) := by
  have hW := hS.chan_wf
  unfold State.relocCommit
  repeat' first
    | (extract_lets +onlyGivenNames s; first
        | (refine (fun (hS : Sound Q τ s) => ?_) ?_; clear_value s; have hW := hS.chan_wf; rotate_left; dsimp -zeta only [s]; clear s)
        | (refine (fun (hS : Sound Q τ s.1) => ?_) ?_; clear_value s; have hW := hS.chan_wf; rotate_left; dsimp -zeta only [s]; clear s)
        | (refine (fun (hS : Sound Q τ s.2) => ?_) ?_; clear_value s; have hW := hS.chan_wf; rotate_left; dsimp -zeta only [s]; clear s)
        | (refine (fun (hS : Sound Q τ s.2.2) => ?_) ?_; clear_value s; have hW := hS.chan_wf; rotate_left; dsimp -zeta only [s]; clear s)
        | (refine (fun (hX : Chan.wf s) => ?_) ?_; clear_value s; rotate_left; dsimp -zeta only [s]; clear s)
        | (have hE : (s : _ → _) = s := rfl; clear hE; dsimp -zeta only [s]; clear s)
        | (have hE : (s : Events) = s := rfl; clear hE; dsimp -zeta only [s]; clear s)
        | clear_value s)
    | with_reducible refine soundOut_next.mpr ?_
    | (with_reducible refine sound_foldl' ?_ ?_; rotate_left; intro s a hS; have hW := hS.chan_wf; try beta_reduce)
    | (with_reducible refine sound_foldl_fst ?_ _ ?_; intro s a hS; have hW := hS.chan_wf; try beta_reduce)
    | (with_reducible refine sound_foldl_snd ?_ _ ?_; intro s a hS; have hW := hS.chan_wf; try beta_reduce)
    | split
  all_goals first
    | contradiction
    | simp +contextual (maxDischargeDepth := 40) [*]

theorem execRelocationTurn_sound (c : Ch) (s : State) (hS : Sound Q τ s) :
    SoundOut Q τ (execRelocationTurn c s) := by
  unfold execRelocationTurn
  repeat' first
    | (extract_lets +onlyGivenNames s; first
        | (refine (fun (hS : Sound Q τ s) => ?_) ?_; clear_value s; have hW := hS.chan_wf; rotate_left; dsimp -zeta only [s]; clear s)
        | clear_value s)
    | split
  all_goals simp +contextual (maxDischargeDepth := 40) [*]

@[simp] theorem State.ageOff_sound (s : State) (c : Ch) (hS : Sound Q τ s) :
    Sound Q τ (State.ageOff s c) := by
  simp +contextual (maxDischargeDepth := 40) [State.ageOff, hS]

@[simp] theorem State.export_sound (s : State) (c : Ch) (t : Nat) (recs : List (BitVec 512)) (hS : Sound Q τ s) :
    Sound Q τ (State.export s c t recs) := by
  have hW := hS.chan_wf
  unfold State.export
  (repeat' split) <;> simp +contextual (maxDischargeDepth := 40) [*]

@[simp] theorem State.freeRecord_sound (s : State) (c : Ch) (t : Nat) (r : FPlace × Bool) (exported : Bool) (hS : Sound Q τ s) :
    Sound Q τ (State.freeRecord s c t r exported) := by
  unfold State.freeRecord
  repeat' first
    | (extract_lets +onlyGivenNames s; first
        | (refine (fun (hS : Sound Q τ s) => ?_) ?_; clear_value s; have hW := hS.chan_wf; rotate_left; dsimp -zeta only [s]; clear s)
        | clear_value s)
    | split
  all_goals simp +contextual (maxDischargeDepth := 40) [*]

@[simp] theorem State.ageRecords_sound (s : State) (c : Ch) (t : Nat) (rs : List (FPlace × Bool)) (hS : Sound Q τ s) :
    Sound Q τ (State.ageRecords s c t rs).1 := by
  unfold State.ageRecords
  repeat' first
    | (extract_lets +onlyGivenNames s; first
        | (refine (fun (hS : Sound Q τ s) => ?_) ?_; clear_value s; have hW := hS.chan_wf; rotate_left; dsimp -zeta only [s]; clear s)
        | clear_value s)
    | split
  all_goals simp +contextual (maxDischargeDepth := 40) [*]

@[simp] theorem State.ageStop_sound (s : State) (c : Ch) (hS : Sound Q τ s) :
    Sound Q τ (State.ageStop s c) := by
  simp +contextual (maxDischargeDepth := 40) [State.ageStop, hS]

@[simp] theorem State.ageCommit_sound (s : State) (c : Ch) (tk : Ticket) (hS : Sound Q τ s) :
    Sound Q τ (State.ageCommit s c tk) := by
  simp +contextual (maxDischargeDepth := 40) [State.ageCommit, hS]

theorem execAgingSweepBucket_sound (c : Ch) (s : State) (hS : Sound Q τ s) :
    SoundOut Q τ (execAgingSweepBucket c s) := by
  unfold execAgingSweepBucket
  repeat' first
    | (extract_lets +onlyGivenNames s; first
        | (refine (fun (hS : Sound Q τ s) => ?_) ?_; clear_value s; have hW := hS.chan_wf; rotate_left; dsimp -zeta only [s]; clear s)
        | (refine (fun (hS : Sound Q τ s.1) => ?_) ?_; clear_value s; have hW := hS.chan_wf; rotate_left; dsimp -zeta only [s]; clear s)
        | clear_value s)
    | split
  all_goals simp +contextual (maxDischargeDepth := 40) [*]

@[simp] theorem State.penCommit_sound (s : State) (c : Ch) (tk : Ticket) (e : Nat) (hS : Sound Q τ s) :
    Sound Q τ (State.penCommit s c tk e) := by
  simp +contextual (maxDischargeDepth := 40) [State.penCommit, hS]

theorem execAgingPenExamine_sound (c : Ch) (s : State) (hS : Sound Q τ s) :
    SoundOut Q τ (execAgingPenExamine c s) := by
  have hW := hS.chan_wf
  unfold execAgingPenExamine
  repeat' first
    | (extract_lets +onlyGivenNames s; first
        | (refine (fun (hS : Sound Q τ s) => ?_) ?_; clear_value s; have hW := hS.chan_wf; rotate_left; dsimp -zeta only [s]; clear s)
        | (refine (fun (hS : Sound Q τ s.1) => ?_) ?_; clear_value s; have hW := hS.chan_wf; rotate_left; dsimp -zeta only [s]; clear s)
        | (refine (fun (hS : Sound Q τ s.2) => ?_) ?_; clear_value s; have hW := hS.chan_wf; rotate_left; dsimp -zeta only [s]; clear s)
        | (refine (fun (hS : Sound Q τ s.2.2) => ?_) ?_; clear_value s; have hW := hS.chan_wf; rotate_left; dsimp -zeta only [s]; clear s)
        | (refine (fun (hX : Chan.wf s) => ?_) ?_; clear_value s; rotate_left; dsimp -zeta only [s]; clear s)
        | (have hE : (s : _ → _) = s := rfl; clear hE; dsimp -zeta only [s]; clear s)
        | (have hE : (s : Events) = s := rfl; clear hE; dsimp -zeta only [s]; clear s)
        | clear_value s)
    | with_reducible refine soundOut_next.mpr ?_
    | (with_reducible refine sound_foldl' ?_ ?_; rotate_left; intro s a hS; have hW := hS.chan_wf; try beta_reduce)
    | (with_reducible refine sound_foldl_fst ?_ _ ?_; intro s a hS; have hW := hS.chan_wf; try beta_reduce)
    | (with_reducible refine sound_foldl_snd ?_ _ ?_; intro s a hS; have hW := hS.chan_wf; try beta_reduce)
    | split
  all_goals first
    | contradiction
    | simp +contextual (maxDischargeDepth := 40) [*]

end Sys2Proof.Machine
end

