-- ==== Sys2Proof/Laws/SoundCascade.lean ====
section
/-! SUPPORT. The operations of Machine/Cascade.lean keep a state sound. -/

namespace Sys2Proof.Machine

variable {Q : List Instr} {τ : Nat}

@[simp] theorem State.setPort_sound (s : State) (p : Port) (l : LinkPort) (hS : Sound Q τ s) :
    Sound Q τ (State.setPort s p l) := by
  unfold State.setPort
  (repeat' split) <;> simp +contextual (maxDischargeDepth := 40) [hS]

@[simp] theorem State.setReach_sound (s : State) (r : Nat) (hS : Sound Q τ s) :
    Sound Q τ (State.setReach s r) := by
  simp +contextual (maxDischargeDepth := 40) [State.setReach, hS]

@[simp] theorem State.cascDown_sound (s : State) (p : Port) (hS : Sound Q τ s) :
    Sound Q τ (State.cascDown s p) := by
  unfold State.cascDown
  (repeat' split) <;> simp +contextual (maxDischargeDepth := 40) [hS]

theorem execCascPortDown_sound (p : Port) (s : State) (hS : Sound Q τ s) :
    SoundOut Q τ (execCascPortDown p s) := by
  unfold execCascPortDown
  (repeat' split) <;> simp +contextual (maxDischargeDepth := 40) [hS]

theorem execCascPortUp_sound (p : Port) (neighbourPos : BitVec 3) (lanes : BitVec 8) (s : State) (hS : Sound Q τ s) :
    SoundOut Q τ (execCascPortUp p neighbourPos lanes s) := by
  unfold execCascPortUp
  (repeat' split) <;> simp +contextual (maxDischargeDepth := 40) [hS]

theorem execCascKeyFrame_sound (h : CascHdr) (f : SearchFrame) (s : State) (hS : Sound Q τ s) :
    SoundOut Q τ (execCascKeyFrame h f s) := by
  simp +contextual (maxDischargeDepth := 40) [execCascKeyFrame, hS]

theorem execCascCancelFrame_sound (h : CascHdr) (s : State) (hS : Sound Q τ s) :
    SoundOut Q τ (execCascCancelFrame h s) := by
  unfold execCascCancelFrame
  repeat' first
    | (extract_lets +onlyGivenNames s; (refine (fun (hS : Sound Q τ s) => ?_) ?_; clear_value s; have hW := hS.chan_wf; rotate_left; dsimp -zeta only [s]; clear s))
    | split
  all_goals simp +contextual (maxDischargeDepth := 40) [*]

theorem execCascWashFrame_sound (h : CascHdr) (r : Result) (s : State) (hS : Sound Q τ s) :
    SoundOut Q τ (execCascWashFrame h r s) := by
  simp +contextual (maxDischargeDepth := 40) [execCascWashFrame, hS]

theorem execBackwashMerge_sound (gsn : BitVec 14) (s : State) (hS : Sound Q τ s) :
    SoundOut Q τ (execBackwashMerge gsn s) := by
  unfold execBackwashMerge
  repeat' first
    | (extract_lets +onlyGivenNames s; first
        | (refine (fun (hS : Sound Q τ s) => ?_) ?_; clear_value s; have hW := hS.chan_wf; rotate_left; dsimp -zeta only [s]; clear s)
        | clear_value s)
    | split
  all_goals simp +contextual (maxDischargeDepth := 40) [*]

theorem execCascadeMergeGrant_sound (s : State) (hS : Sound Q τ s) :
    SoundOut Q τ (execCascadeMergeGrant s) := by
  unfold execCascadeMergeGrant
  repeat' first
    | (extract_lets +onlyGivenNames s; first
        | (refine (fun (hS : Sound Q τ s) => ?_) ?_; clear_value s; have hW := hS.chan_wf; rotate_left; dsimp -zeta only [s]; clear s)
        | clear_value s)
    | split
  all_goals simp +contextual (maxDischargeDepth := 40) [*]

end Sys2Proof.Machine
end

