-- ==== Sys2Proof/Laws/SoundEgress.lean ====
section
/-! SUPPORT. The operations of Machine/Egress.lean keep a state sound. -/

namespace Sys2Proof.Machine

variable {Q : List Instr} {τ : Nat}

@[simp] theorem State.grant1_sound (s : State) (off : Nat) (hS : Sound Q τ s) :
    SoundOpt Q τ (State.grant1 s off) := by
  unfold State.grant1
  (repeat' split) <;> simp +contextual (maxDischargeDepth := 40) [hS]

@[simp] theorem State.grant3_sound (s : State) (hS : Sound Q τ s) :
    SoundOpt Q τ (State.grant3 s) := by
  unfold State.grant3
  repeat' first
    | (extract_lets +onlyGivenNames s; clear_value s)
    | split
  all_goals simp +contextual (maxDischargeDepth := 40) [*]

@[simp] theorem State.grant4_sound (s : State) (hS : Sound Q τ s) :
    SoundOpt Q τ (State.grant4 s) := by
  unfold State.grant4
  split
  · simp
  · split
    · split
      · simp
      · next r t hq =>
        have hl := hS.queue_le
        rw [hq] at hl
        simp only [soundOpt_some]
        apply State.overflowRecord_sound
        exact sound_mk_ev hS hS hS hS (he := by simp at hl ⊢; omega) ..
    · dsimp only
      split
      · simp
      · simp +contextual (maxDischargeDepth := 40) [hS]

@[simp] theorem State.grantVc_sound (s : State) (vc off : Nat) (hS : Sound Q τ s) :
    SoundOpt Q τ (State.grantVc s vc off) := by
  simp +contextual (maxDischargeDepth := 40) [State.grantVc, hS]

@[simp] theorem State.endFrame_sound (s : State) (vc : Nat) (k : Sending) (hS : Sound Q τ s) :
    Sound Q τ (State.endFrame s vc k) := by
  simp +contextual (maxDischargeDepth := 40) [State.endFrame, hS]

@[simp] theorem State.fillFlit_sound : ∀ (n : Nat) (s : State) (vc : Nat) (acc : List (Byte × Bool)),
    Sound Q τ s → Sound Q τ (State.fillFlit n s vc acc).1
  | 0, _, _, _, hS => hS
  | n + 1, s, vc, acc, hS => by
    unfold State.fillFlit
    split
    · exact hS
    · split
      · split
        · exact hS
        · next s' hs => exact State.fillFlit_sound n s' vc acc (State.grantVc_sound s vc _ hS s' hs)
      · dsimp only
        split
        · exact State.fillFlit_sound n _ vc _ (by simp +contextual (maxDischargeDepth := 40) [hS])
        · simp +contextual (maxDischargeDepth := 40) [hS]

@[simp] theorem State.sendFlit_sound (s : State) (vc : Nat) (hS : Sound Q τ s) :
    SoundOpt Q τ (State.sendFlit s vc) := by
  simp +contextual (maxDischargeDepth := 40) [State.sendFlit, hS]

@[simp] theorem State.sendOther_sound (s : State) (hS : Sound Q τ s) :
    SoundOpt Q τ (State.sendOther s) := by
  unfold State.sendOther
  split
  · split
    · next s' hs => have h' := State.sendFlit_sound _ _ hS s' hs; simp +contextual (maxDischargeDepth := 40) [h']
    · split
      · next s' hs => have h' := State.sendFlit_sound _ _ hS s' hs; simp +contextual (maxDischargeDepth := 40) [h']
      · simp
  · simp

theorem State.getD_sound {s : State} (hS : Sound Q τ s) {o : Option State} (ho : SoundOpt Q τ o) :
    Sound Q τ (o.getD s) := by
  cases o with
  | none => exact hS
  | some t => exact ho t rfl

@[simp] theorem State.fillPositions_sound : ∀ (n : Nat) (s : State) (other : Bool),
    Sound Q τ s → Sound Q τ (State.fillPositions n s other)
  | 0, _, _, hS => hS
  | n + 1, s, other, hS => by
    unfold State.fillPositions
    split
    · split
      · next s' hs => exact State.sendOther_sound s hS s' hs
      · exact State.getD_sound hS (State.sendFlit_sound s 1 hS)
    · split
      · next s' hs => exact State.fillPositions_sound n s' other (State.sendFlit_sound s 1 hS s' hs)
      · split
        · next s' hs => exact State.fillPositions_sound n s' other (State.sendOther_sound s hS s' hs)
        · exact hS

@[simp] theorem State.sendCtrl_sound (s : State) (p : Port) (t : Nat) (payload : List Byte) (hS : Sound Q τ s) :
    Sound Q τ (State.sendCtrl s p t payload) := by
  simp +contextual (maxDischargeDepth := 40) [State.sendCtrl, hS]

@[simp] theorem State.ctrlDue_sound (s : State) (p : Port) (hS : Sound Q τ s) :
    Sound Q τ (State.ctrlDue s p) := by
  simp +contextual (maxDischargeDepth := 40) [State.ctrlDue, hS]

@[simp] theorem State.egressCycle_sound (s : State) (hS : Sound Q τ s) :
    Sound Q τ (State.egressCycle s) := by
  simp +contextual (maxDischargeDepth := 40) [State.egressCycle, hS]

end Sys2Proof.Machine
end

