-- ==== Sys2Proof/Laws/SoundLink.lean ====
section
/-! SUPPORT. The operations of Machine/Link.lean keep a state sound. -/

namespace Sys2Proof.Machine

variable {Q : List Instr} {τ : Nat}

@[simp] theorem State.emptyMailbox_sound (s : State) (c : Ch) (mbx : Nat) (hS : Sound Q τ s) :
    Sound Q τ (State.emptyMailbox s c mbx) := by
  simp +contextual (maxDischargeDepth := 40) [State.emptyMailbox, hS]

@[simp] theorem State.discardFrames_sound (s : State) (hS : Sound Q τ s) :
    Sound Q τ (State.discardFrames s) := by
  simp +contextual (maxDischargeDepth := 40) [State.discardFrames, hS]

@[simp] theorem State.hostDown_sound (s : State) (hS : Sound Q τ s) :
    Sound Q τ (State.hostDown s) := by
  unfold State.hostDown
  (repeat' split) <;> simp +contextual (maxDischargeDepth := 40) [hS]

@[simp] theorem State.portDown_sound (s : State) (p : Port) (hS : Sound Q τ s) :
    Sound Q τ (State.portDown s p) := by
  unfold State.portDown
  (repeat' split) <;> simp +contextual (maxDischargeDepth := 40) [hS]

@[simp] theorem State.baseWord_sound (s : State) (mem : Fec) (hS : Sound Q τ s) :
    Sound Q τ (State.baseWord s mem) := by
  unfold State.baseWord
  (repeat' split) <;> simp +contextual (maxDischargeDepth := 40) [hS]

@[simp] theorem State.hostCycle_sound (s : State) (mem : Fec) (hS : Sound Q τ s) :
    Sound Q τ (State.hostCycle s mem) := by
  simp +contextual (maxDischargeDepth := 40) [State.hostCycle, hS]

@[simp] theorem State.startTraining_sound (s : State) (hS : Sound Q τ s) :
    Sound Q τ (State.startTraining s) := by
  simp +contextual (maxDischargeDepth := 40) [State.startTraining, hS]

@[simp] theorem State.setMode_sound (s : State) (p : Port) (m : Nat) (hS : Sound Q τ s) :
    Sound Q τ (State.setMode s p m) := by
  unfold State.setMode
  (repeat' split) <;> simp +contextual (maxDischargeDepth := 40) [hS]

@[simp] theorem State.recover_sound (s : State) (p : Port) (hS : Sound Q τ s) :
    Sound Q τ (State.recover s p) := by
  unfold State.recover
  (repeat' split) <;> simp +contextual (maxDischargeDepth := 40) [hS]

@[simp] theorem State.startNak_sound (s : State) (p : Port) (left : Nat) (hS : Sound Q τ s) :
    Sound Q τ (State.startNak s p left) := by
  unfold State.startNak
  (repeat' split) <;> simp +contextual (maxDischargeDepth := 40) [hS]

@[simp] theorem State.acceptFlit_sound (s : State) (p : Port) (vc : Nat) (payload : List Byte) (hS : Sound Q τ s) :
    Sound Q τ (State.acceptFlit s p vc payload) := by
  simp +contextual (maxDischargeDepth := 40) [State.acceptFlit, hS]

@[simp] theorem State.lineTime_sound (s : State) (p : Port) (hS : Sound Q τ s) :
    Sound Q τ (State.lineTime s p) := by
  simp +contextual (maxDischargeDepth := 40) [State.lineTime, hS]

theorem execFlitReceived_sound (p : Port) (flit : BitVec 512) (fec mem : Fec) (s : State) (hS : Sound Q τ s) :
    SoundOut Q τ (execFlitReceived p flit fec mem s) := by
  simp +contextual (maxDischargeDepth := 40) [execFlitReceived, hS]

@[simp] theorem State.pumpPort_sound (s : State) (p : Port) (hS : Sound Q τ s) :
    Sound Q τ (State.pumpPort s p) := by
  unfold State.pumpPort
  (repeat' split) <;> simp +contextual (maxDischargeDepth := 40) [hS]

theorem execCtrlStatusFlit_sound (p : Port) (payload : BitVec 480) (s : State) (hS : Sound Q τ s) :
    SoundOut Q τ (execCtrlStatusFlit p payload s) := by
  simp +contextual (maxDischargeDepth := 40) [execCtrlStatusFlit, hS]

theorem execNakReceived_sound (p : Port) (payload : BitVec 480) (s : State) (hS : Sound Q τ s) :
    SoundOut Q τ (execNakReceived p payload s) := by
  simp +contextual (maxDischargeDepth := 40) [execNakReceived, hS]

theorem execCtrlFlitSend_sound (p : Port) (s : State) (hS : Sound Q τ s) :
    SoundOut Q τ (execCtrlFlitSend p s) := by
  have hW := hS.chan_wf
  unfold execCtrlFlitSend
  repeat' first
    | (extract_lets +onlyGivenNames s; first
        | (refine (fun (hS : Sound Q τ s) => ?_) ?_; clear_value s; have hW := hS.chan_wf; rotate_left; dsimp -zeta only [s]; clear s)
        | (refine (fun (hS : Sound Q τ s.1) => ?_) ?_; clear_value s; have hW := hS.chan_wf; rotate_left; dsimp -zeta only [s]; clear s)
        | (refine (fun (hS : Sound Q τ s.2) => ?_) ?_; clear_value s; have hW := hS.chan_wf; rotate_left; dsimp -zeta only [s]; clear s)
        | (refine (fun (hS : Sound Q τ s.2.2) => ?_) ?_; clear_value s; have hW := hS.chan_wf; rotate_left; dsimp -zeta only [s]; clear s)
        | (refine (fun (hX : Chan.wf s) => ?_) ?_; clear_value s; rotate_left; dsimp -zeta only [s]; clear s)
        | (have hE : (s : _ → _) = s := rfl; clear hE; dsimp -zeta only [s]; clear s)
        | (have hE : (s : Events) = s := rfl; clear hE; dsimp -zeta only [s]; clear s)
        | clear_value s)
    | with_reducible refine soundOut_next.mpr ?_
    | (with_reducible refine sound_foldl' ?_ ?_; rotate_left; intro s a hS; have hW := hS.chan_wf; try beta_reduce)
    | (with_reducible refine sound_foldl_fst ?_ _ ?_; intro s a hS; have hW := hS.chan_wf; try beta_reduce)
    | (with_reducible refine sound_foldl_snd ?_ _ ?_; intro s a hS; have hW := hS.chan_wf; try beta_reduce)
    | split
  all_goals first
    | contradiction
    | simp +contextual (maxDischargeDepth := 40) [*]

theorem execAckTimeout_sound (p : Port) (s : State) (hS : Sound Q τ s) :
    SoundOut Q τ (execAckTimeout p s) := by
  unfold execAckTimeout
  (repeat' split) <;> simp +contextual (maxDischargeDepth := 40) [hS]

theorem execLaneLossOfLock_sound (p : Port) (lane : Fin 16) (s : State) (hS : Sound Q τ s) :
    SoundOut Q τ (execLaneLossOfLock p lane s) := by
  unfold execLaneLossOfLock
  (repeat' split) <;> simp +contextual (maxDischargeDepth := 40) [hS]

@[simp] theorem State.markLanes_sound (s : State) (p : Port) (trained : BitVec 16) (hS : Sound Q τ s) :
    Sound Q τ (State.markLanes s p trained) := by
  simp +contextual (maxDischargeDepth := 40) [State.markLanes, hS]

theorem execRecoveryComplete_sound (p : Port) (lanes : BitVec 16) (s : State) (hS : Sound Q τ s) :
    SoundOut Q τ (execRecoveryComplete p lanes s) := by
  have hW := hS.chan_wf
  unfold execRecoveryComplete
  repeat' first
    | (extract_lets +onlyGivenNames s; first
        | (refine (fun (hS : Sound Q τ s) => ?_) ?_; clear_value s; have hW := hS.chan_wf; rotate_left; dsimp -zeta only [s]; clear s)
        | (refine (fun (hS : Sound Q τ s.1) => ?_) ?_; clear_value s; have hW := hS.chan_wf; rotate_left; dsimp -zeta only [s]; clear s)
        | (refine (fun (hS : Sound Q τ s.2) => ?_) ?_; clear_value s; have hW := hS.chan_wf; rotate_left; dsimp -zeta only [s]; clear s)
        | (refine (fun (hS : Sound Q τ s.2.2) => ?_) ?_; clear_value s; have hW := hS.chan_wf; rotate_left; dsimp -zeta only [s]; clear s)
        | (refine (fun (hX : Chan.wf s) => ?_) ?_; clear_value s; rotate_left; dsimp -zeta only [s]; clear s)
        | (have hE : (s : _ → _) = s := rfl; clear hE; dsimp -zeta only [s]; clear s)
        | (have hE : (s : Events) = s := rfl; clear hE; dsimp -zeta only [s]; clear s)
        | clear_value s)
    | with_reducible refine soundOut_next.mpr ?_
    | (with_reducible refine sound_foldl' ?_ ?_; rotate_left; intro s a hS; have hW := hS.chan_wf; try beta_reduce)
    | (with_reducible refine sound_foldl_fst ?_ _ ?_; intro s a hS; have hW := hS.chan_wf; try beta_reduce)
    | (with_reducible refine sound_foldl_snd ?_ _ ?_; intro s a hS; have hW := hS.chan_wf; try beta_reduce)
    | split
  all_goals first
    | contradiction
    | simp +contextual (maxDischargeDepth := 40) [*]

theorem execRecoveryTimeout_sound (p : Port) (s : State) (hS : Sound Q τ s) :
    SoundOut Q τ (execRecoveryTimeout p s) := by
  simp +contextual (maxDischargeDepth := 40) [execRecoveryTimeout, hS]

@[simp] theorem Chan.linkUp_wf (x : Chan) (hX : Chan.wf x) :
    Chan.wf (Chan.linkUp x) := by
  unfold Chan.linkUp
  try dsimp only
  (repeat' split) <;> simp +contextual (maxDischargeDepth := 40) [*]

@[simp] theorem State.hostUp_sound (s : State) (credits : List Nat) (hS : Sound Q τ s) :
    Sound Q τ (State.hostUp s credits) := by
  unfold State.hostUp
  repeat' first
    | (extract_lets +onlyGivenNames s; (refine (fun (hS : Sound Q τ s) => ?_) ?_; clear_value s; have hW := hS.chan_wf; rotate_left; dsimp -zeta only [s]; clear s))
    | split
  all_goals simp +contextual (maxDischargeDepth := 40) [*]

@[simp] theorem State.nextStep_sound (s : State) (p : Port) (hS : Sound Q τ s) :
    Sound Q τ (State.nextStep s p) := by
  simp +contextual (maxDischargeDepth := 40) [State.nextStep, hS]

@[simp] theorem State.takeTrain_sound (s : State) (p : Port) (payload : BitVec 480) (hS : Sound Q τ s) :
    Sound Q τ (State.takeTrain s p payload) := by
  simp +contextual (maxDischargeDepth := 40) [State.takeTrain, hS]

theorem execTrainingStepComplete_sound (p : Port) (lanes : BitVec 16) (reversed : Bool) (payload : BitVec 480) (s : State) (hS : Sound Q τ s) :
    SoundOut Q τ (execTrainingStepComplete p lanes reversed payload s) := by
  unfold execTrainingStepComplete
  repeat' first
    | (extract_lets +onlyGivenNames s; first
        | (refine (fun (hS : Sound Q τ s) => ?_) ?_; clear_value s; have hW := hS.chan_wf; rotate_left; dsimp -zeta only [s]; clear s)
        | clear_value s)
    | split
  all_goals simp +contextual (maxDischargeDepth := 40) [*]

theorem execTrainingTimeout_sound (p : Port) (s : State) (hS : Sound Q τ s) :
    SoundOut Q τ (execTrainingTimeout p s) := by
  simp +contextual (maxDischargeDepth := 40) [execTrainingTimeout, hS]

@[simp] theorem State.linkEnChange_sound (old s : State) (hS : Sound Q τ s) :
    Sound Q τ (State.linkEnChange old s) := by
  simp +contextual (maxDischargeDepth := 40) [State.linkEnChange, hS]

@[simp] theorem State.retrain_sound (s : State) (hS : Sound Q τ s) :
    Sound Q τ (State.retrain s) := by
  unfold State.retrain
  (repeat' split) <;> simp +contextual (maxDischargeDepth := 40) [hS]

end Sys2Proof.Machine
end

