-- ==== Sys2Proof/Laws/SoundWrites.lean ====
section
/-! SUPPORT. The operations of Machine/Writes.lean keep a state sound. -/

namespace Sys2Proof.Machine

variable {Q : List Instr} {τ : Nat}

@[simp] theorem State.clearRefs_sound (s : State) (c : Ch) (bank block : Nat) (hS : Sound Q τ s) :
    Sound Q τ (State.clearRefs s c bank block) := by
  simp +contextual (maxDischargeDepth := 40) [State.clearRefs, hS]

@[simp] theorem Chan.setScrub_wf (x : Chan) (bank : Nat) (v : BankScrub) (hX : Chan.wf x) :
    Chan.wf (Chan.setScrub x bank v) := by
  unfold Chan.setScrub
  try dsimp only
  (repeat' split) <;> simp +contextual (maxDischargeDepth := 40) [*]

@[simp] theorem Chan.cancelWb_wf (x : Chan) (bank kind key : Nat) (hX : Chan.wf x) :
    Chan.wf (Chan.cancelWb x bank kind key) := by
  unfold Chan.cancelWb
  try dsimp only
  (repeat' split) <;> simp +contextual (maxDischargeDepth := 40) [*]

@[simp] theorem State.putWord_sound (s : State) (c : Ch) (bank block word : Nat) (w : WordCell) (hS : Sound Q τ s) :
    Sound Q τ (State.putWord s c bank block word w) := by
  simp +contextual (maxDischargeDepth := 40) [State.putWord, hS]

@[simp] theorem State.putUnits_sound (s : State) (c : Ch) (bank block word : Nat) (u v : RangeUnit) (hS : Sound Q τ s) :
    Sound Q τ (State.putUnits s c bank block word u v) := by
  simp +contextual (maxDischargeDepth := 40) [State.putUnits, hS]

@[simp] theorem State.putAd_sound (s : State) (c : Ch) (bank block word : Nat) (ad : BitVec 64) (hS : Sound Q τ s) :
    Sound Q τ (State.putAd s c bank block word ad) := by
  simp +contextual (maxDischargeDepth := 40) [State.putAd, hS]

@[simp] theorem Chan.encTell_wf (x : Chan) (by_ : ItemSource) (hX : Chan.wf x) :
    Chan.wf (Chan.encTell x by_) := by
  unfold Chan.encTell
  try dsimp only
  (repeat' split) <;> simp +contextual (maxDischargeDepth := 40) [*]

@[simp] theorem State.writeWord_sound (s : State) (c : Ch) (by_ : ItemSource) (bank block word : Nat) (data mask : BitVec 80) (ecf : BitVec 24) (hS : Sound Q τ s) :
    Sound Q τ (State.writeWord s c by_ bank block word data mask ecf) := by
  have hW := hS.chan_wf
  unfold State.writeWord
  repeat' first
    | (extract_lets +onlyGivenNames s; first
        | (refine (fun (hS : Sound Q τ s) => ?_) ?_; clear_value s; have hW := hS.chan_wf; rotate_left; dsimp -zeta only [s]; clear s)
        | (refine (fun (hS : Sound Q τ s.1) => ?_) ?_; clear_value s; have hW := hS.chan_wf; rotate_left; dsimp -zeta only [s]; clear s)
        | (refine (fun (hS : Sound Q τ s.2) => ?_) ?_; clear_value s; have hW := hS.chan_wf; rotate_left; dsimp -zeta only [s]; clear s)
        | (refine (fun (hS : Sound Q τ s.2.2) => ?_) ?_; clear_value s; have hW := hS.chan_wf; rotate_left; dsimp -zeta only [s]; clear s)
        | (refine (fun (hX : Chan.wf s) => ?_) ?_; clear_value s; rotate_left; dsimp -zeta only [s]; clear s)
        | (have hE : (s : _ → _) = s := rfl; clear hE; dsimp -zeta only [s]; clear s)
        | (have hE : (s : Events) = s := rfl; clear hE; dsimp -zeta only [s]; clear s)
        | clear_value s)
    | with_reducible refine soundOut_next.mpr ?_
    | (with_reducible refine sound_foldl' ?_ ?_; rotate_left; intro s a hS; have hW := hS.chan_wf; try beta_reduce)
    | (with_reducible refine sound_foldl_fst ?_ _ ?_; intro s a hS; have hW := hS.chan_wf; try beta_reduce)
    | (with_reducible refine sound_foldl_snd ?_ _ ?_; intro s a hS; have hW := hS.chan_wf; try beta_reduce)
    | split
  all_goals first
    | contradiction
    | simp +contextual (maxDischargeDepth := 40) [*]

@[simp] theorem State.writeEcf_sound (s : State) (c : Ch) (bank block word : Nat) (ecf : BitVec 24) (hS : Sound Q τ s) :
    Sound Q τ (State.writeEcf s c bank block word ecf) := by
  simp +contextual (maxDischargeDepth := 40) [State.writeEcf, hS]

@[simp] theorem State.writeUnits_sound (s : State) (c : Ch) (bank block word : Nat) (u v : RangeUnit) (hS : Sound Q τ s) :
    Sound Q τ (State.writeUnits s c bank block word u v) := by
  simp +contextual (maxDischargeDepth := 40) [State.writeUnits, hS]

@[simp] theorem State.writeAd_sound (s : State) (c : Ch) (bank block word : Nat) (ad : BitVec 64) (hS : Sound Q τ s) :
    Sound Q τ (State.writeAd s c bank block word ad) := by
  simp +contextual (maxDischargeDepth := 40) [State.writeAd, hS]

@[simp] theorem State.applyItem_sound (s : State) (c : Ch) (by_ : ItemSource) (it : BitVec 256) (hS : Sound Q τ s) :
    Sound Q τ (State.applyItem s c by_ it) := by
  have hW := hS.chan_wf
  unfold State.applyItem
  repeat' first
    | (extract_lets +onlyGivenNames s; first
        | (refine (fun (hS : Sound Q τ s) => ?_) ?_; clear_value s; have hW := hS.chan_wf; rotate_left; dsimp -zeta only [s]; clear s)
        | (refine (fun (hS : Sound Q τ s.1) => ?_) ?_; clear_value s; have hW := hS.chan_wf; rotate_left; dsimp -zeta only [s]; clear s)
        | (refine (fun (hS : Sound Q τ s.2) => ?_) ?_; clear_value s; have hW := hS.chan_wf; rotate_left; dsimp -zeta only [s]; clear s)
        | (refine (fun (hS : Sound Q τ s.2.2) => ?_) ?_; clear_value s; have hW := hS.chan_wf; rotate_left; dsimp -zeta only [s]; clear s)
        | (refine (fun (hX : Chan.wf s) => ?_) ?_; clear_value s; rotate_left; dsimp -zeta only [s]; clear s)
        | (have hE : (s : _ → _) = s := rfl; clear hE; dsimp -zeta only [s]; clear s)
        | (have hE : (s : Events) = s := rfl; clear hE; dsimp -zeta only [s]; clear s)
        | clear_value s)
    | with_reducible refine soundOut_next.mpr ?_
    | (with_reducible refine sound_foldl' ?_ ?_; rotate_left; intro s a hS; have hW := hS.chan_wf; try beta_reduce)
    | (with_reducible refine sound_foldl_fst ?_ _ ?_; intro s a hS; have hW := hS.chan_wf; try beta_reduce)
    | (with_reducible refine sound_foldl_snd ?_ _ ?_; intro s a hS; have hW := hS.chan_wf; try beta_reduce)
    | split
  all_goals first
    | contradiction
    | simp +contextual (maxDischargeDepth := 40) [*]

@[simp] theorem Chan.restore_wf (x : Chan) (kind key : Nat) (hX : Chan.wf x) :
    Chan.wf (Chan.restore x kind key) := by
  unfold Chan.restore
  try dsimp only
  (repeat' split) <;> simp +contextual (maxDischargeDepth := 40) [*]

end Sys2Proof.Machine
end

