-- ==== Sys2Proof/Laws/SoundManager.lean ====
section
/-! SUPPORT. The operations of Machine/Manager.lean keep a state sound. -/

namespace Sys2Proof.Machine

variable {Q : List Instr} {τ : Nat}

@[simp] theorem State.modMgr_sound (s : State) (c : Ch) (f : Mgr → Mgr) (hS : Sound Q τ s) (hf : ∀ m : Mgr, m.boxes.length = 16 → (f m).boxes.length = 16) :
    Sound Q τ (State.modMgr s c f) := by
  have hW := hS.chan_wf
  unfold State.modMgr
  (repeat' split) <;> simp +contextual (maxDischargeDepth := 40) [*]

@[simp] theorem State.setBox_sound (s : State) (c : Ch) (n : Nat) (st : MbxState) (hS : Sound Q τ s) :
    Sound Q τ (State.setBox s c n st) := by
  simp +contextual (maxDischargeDepth := 40) [State.setBox, hS]

@[simp] theorem State.setExec_sound (s : State) (c : Ch) (x : Nat) (e : Exec) (hS : Sound Q τ s) :
    Sound Q τ (State.setExec s c x e) := by
  simp +contextual (maxDischargeDepth := 40) [State.setExec, hS]

@[simp] theorem State.freeExec_sound (s : State) (c : Ch) (x : Nat) (hS : Sound Q τ s) :
    Sound Q τ (State.freeExec s c x) := by
  simp +contextual (maxDischargeDepth := 40) [State.freeExec, hS]

@[simp] theorem State.pushResponse_sound (s : State) (c : Ch) (mbx : Nat) (final : Bool) (resp : List Byte) (hS : Sound Q τ s) :
    Sound Q τ (State.pushResponse s c mbx final resp) := by
  simp +contextual (maxDischargeDepth := 40) [State.pushResponse, hS]

@[simp] theorem State.sendFinal_sound (s : State) (c : Ch) (mbx : Nat) (resp : List Byte) (hS : Sound Q τ s) :
    Sound Q τ (State.sendFinal s c mbx resp) := by
  simp +contextual (maxDischargeDepth := 40) [State.sendFinal, hS]

@[simp] theorem State.hwRespond_sound (s : State) (c : Ch) (status mbx : Nat) (hS : Sound Q τ s) :
    Sound Q τ (State.hwRespond s c status mbx) := by
  simp +contextual (maxDischargeDepth := 40) [State.hwRespond, hS]

@[simp] theorem Mgr.grant_boxes (m : Mgr) (key holder now : Nat) :
    (Mgr.grant m key holder now).boxes.length = m.boxes.length := by
  unfold Mgr.grant
  (repeat' split) <;> simp

@[simp] theorem Mgr.release_boxes (m : Mgr) (holder : Nat) :
    (Mgr.release m holder).boxes.length = m.boxes.length := by
  unfold Mgr.release
  (repeat' split) <;> simp

@[simp] theorem State.breakCmd_sound (s : State) (c : Ch) (x : Nat) (hS : Sound Q τ s) :
    Sound Q τ (State.breakCmd s c x) := by
  unfold State.breakCmd
  repeat' first
    | (extract_lets +onlyGivenNames s; first
        | (refine (fun (hS : Sound Q τ s) => ?_) ?_; clear_value s; have hW := hS.chan_wf; rotate_left; dsimp -zeta only [s]; clear s)
        | clear_value s)
    | split
  all_goals simp +contextual (maxDischargeDepth := 40) [*]

theorem execSheepdogInspection_sound (c : Ch) (s : State) (hS : Sound Q τ s) :
    SoundOut Q τ (execSheepdogInspection c s) := by
  unfold execSheepdogInspection
  repeat' first
    | (extract_lets +onlyGivenNames s; (refine (fun (hS : Sound Q τ s) => ?_) ?_; clear_value s; have hW := hS.chan_wf; rotate_left; dsimp -zeta only [s]; clear s))
    | with_reducible refine soundOut_next.mpr ?_
    | (with_reducible refine sound_foldl' ?_ ?_; rotate_left; intro s a hS; have hW := hS.chan_wf; try beta_reduce)
    | split
  all_goals simp +contextual (maxDischargeDepth := 40) [*]

@[simp] theorem State.haltMgr_sound (s : State) (c : Ch) (hS : Sound Q τ s) :
    Sound Q τ (State.haltMgr s c) := by
  simp +contextual (maxDischargeDepth := 40) [State.haltMgr, hS]

theorem execMgrWatchdogExpiry_sound (c : Ch) (s : State) (hS : Sound Q τ s) :
    SoundOut Q τ (execMgrWatchdogExpiry c s) := by
  simp +contextual (maxDischargeDepth := 40) [execMgrWatchdogExpiry, hS]

@[simp] theorem State.restartMgr_sound (s : State) (c : Ch) (hS : Sound Q τ s) :
    Sound Q τ (State.restartMgr s c) := by
  simp +contextual (maxDischargeDepth := 40) [State.restartMgr, hS]

@[simp] theorem State.ringBell_sound (s : State) (c : Ch) (hf : Hf) (n : Nat) (hS : Sound Q τ s) :
    Sound Q τ (State.ringBell s c hf n) := by
  simp +contextual (maxDischargeDepth := 40) [State.ringBell, hS]

@[simp] theorem State.ringBells_sound (s : State) (c : Ch) (hf : Hf) (bits : Nat) (hS : Sound Q τ s) :
    Sound Q τ (State.ringBells s c hf bits) := by
  simp +contextual (maxDischargeDepth := 40) [State.ringBells, hS]

theorem execMbxDispatch_sound (c : Ch) (s : State) (hS : Sound Q τ s) :
    SoundOut Q τ (execMbxDispatch c s) := by
  unfold execMbxDispatch
  repeat' first
    | (extract_lets +onlyGivenNames s; first
        | (refine (fun (hS : Sound Q τ s) => ?_) ?_; clear_value s; have hW := hS.chan_wf; rotate_left; dsimp -zeta only [s]; clear s)
        | clear_value s)
    | split
  all_goals simp +contextual (maxDischargeDepth := 40) [*]

@[simp] theorem State.responseSent_sound (s : State) (c : Ch) (mbx : Fin 16) (hS : Sound Q τ s) :
    Sound Q τ (State.responseSent s c mbx) := by
  simp +contextual (maxDischargeDepth := 40) [State.responseSent, hS]

theorem execMbxResponseSent_sound (c : Ch) (mbx : Fin 16) (s : State) (hS : Sound Q τ s) :
    SoundOut Q τ (execMbxResponseSent c mbx s) := by
  simp +contextual (maxDischargeDepth := 40) [execMbxResponseSent, hS]

@[simp] theorem State.modFlash_sound (s : State) (c : Ch) (f : Flash → Flash) (hS : Sound Q τ s) :
    Sound Q τ (State.modFlash s c f) := by
  simp +contextual (maxDischargeDepth := 40) [State.modFlash, hS]

@[simp] theorem State.journal_sound (s : State) (c : Ch) (its : List (BitVec 256)) (hS : Sound Q τ s) :
    Sound Q τ (State.journal s c its) := by
  simp +contextual (maxDischargeDepth := 40) [State.journal, hS]

@[simp] theorem State.tryRespond_sound (s : State) (c : Ch) (x : Nat) (hS : Sound Q τ s) :
    Sound Q τ (State.tryRespond s c x) := by
  unfold State.tryRespond
  repeat' first
    | (extract_lets +onlyGivenNames s; clear_value s)
    | split
  all_goals simp +contextual (maxDischargeDepth := 40) [*]

@[simp] theorem State.finish_sound (s : State) (c : Ch) (x : Nat) (status : Nat) (detail : Nat) (res : List Byte) (hS : Sound Q τ s) :
    Sound Q τ (State.finish s c x status detail res) := by
  unfold State.finish
  (repeat' split) <;> simp +contextual (maxDischargeDepth := 40) [hS]

theorem execCommandRestart_sound (c : Ch) (x : Fin 8) (s : State) (hS : Sound Q τ s) :
    SoundOut Q τ (execCommandRestart c x s) := by
  unfold execCommandRestart
  (repeat' split) <;> simp +contextual (maxDischargeDepth := 40) [hS]

end Sys2Proof.Machine
end

