-- ==== Sys2Proof/Laws/SoundImages.lean ====
section
/-! SUPPORT. The operations of Machine/Images.lean keep a state sound. -/

namespace Sys2Proof.Machine

variable {Q : List Instr} {τ : Nat}

@[simp] theorem State.checkReady_sound (s : State) (hS : Sound Q τ s) :
    Sound Q τ (State.checkReady s) := by
  simp +contextual (maxDischargeDepth := 40) [State.checkReady, hS]

@[simp] theorem State.startOluek_sound (s : State) (c : Ch) (hS : Sound Q τ s) :
    Sound Q τ (State.startOluek s c) := by
  simp +contextual (maxDischargeDepth := 40) [State.startOluek, hS]

end Sys2Proof.Machine
end

