-- ==== Sys2Proof/Laws/SoundChannel.lean ====
section
/-! SUPPORT. The operations of Machine/Channel.lean keep a state sound. -/

namespace Sys2Proof.Machine

variable {Q : List Instr} {τ : Nat}

@[simp] theorem State.endReq_sound (s : State) (c : Ch) (hS : Sound Q τ s) :
    Sound Q τ (State.endReq s c) := by
  simp +contextual (maxDischargeDepth := 40) [State.endReq, hS]

@[simp] theorem State.rejected_sound (s : State) (c : Ch) (hS : Sound Q τ s) :
    Sound Q τ (State.rejected s c) := by
  simp +contextual (maxDischargeDepth := 40) [State.rejected, hS]

@[simp] theorem State.enterState_sound (s : State) (c : Ch) (p : ChPower) (hS : Sound Q τ s) :
    Sound Q τ (State.enterState s c p) := by
  simp +contextual (maxDischargeDepth := 40) [State.enterState, hS]

@[simp] theorem State.clearAdmit_sound (s : State) (c : Ch) (hS : Sound Q τ s) :
    Sound Q τ (State.clearAdmit s c) := by
  simp +contextual (maxDischargeDepth := 40) [State.clearAdmit, hS]

@[simp] theorem State.answerPending_sound (s : State) (c : Ch) (status : Nat) (hS : Sound Q τ s) :
    Sound Q τ (State.answerPending s c status) := by
  simp +contextual (maxDischargeDepth := 40) [State.answerPending, hS]

@[simp] theorem Chan.flushLines_wf (x : Chan) (hX : Chan.wf x) :
    Chan.wf (Chan.flushLines x) := by
  unfold Chan.flushLines
  try dsimp only
  (repeat' split) <;> simp +contextual (maxDischargeDepth := 40) [*]

@[simp] theorem State.enterIdle_sound (s : State) (c : Ch) (hS : Sound Q τ s) :
    Sound Q τ (State.enterIdle s c) := by
  simp +contextual (maxDischargeDepth := 40) [State.enterIdle, hS]

theorem execIdleEntryComplete_sound (c : Ch) (s : State) (hS : Sound Q τ s) :
    SoundOut Q τ (execIdleEntryComplete c s) := by
  simp +contextual (maxDischargeDepth := 40) [execIdleEntryComplete, hS]

@[simp] theorem State.startResume_sound (s : State) (c : Ch) (hS : Sound Q τ s) :
    Sound Q τ (State.startResume s c) := by
  simp +contextual (maxDischargeDepth := 40) [State.startResume, hS]

theorem execResumeCalPassDone_sound (c : Ch) (s : State) (hS : Sound Q τ s) :
    SoundOut Q τ (execResumeCalPassDone c s) := by
  simp +contextual (maxDischargeDepth := 40) [execResumeCalPassDone, hS]

@[simp] theorem Chan.turnedOff_wf (x : Chan) (hX : Chan.wf x) :
    Chan.wf (Chan.turnedOff x) := by
  unfold Chan.turnedOff
  try dsimp only
  (repeat' split) <;> simp +contextual (maxDischargeDepth := 40) [*]

@[simp] theorem State.keepForParts_sound (s : State) (c : Ch) (hS : Sound Q τ s) :
    Sound Q τ (State.keepForParts s c) := by
  simp +contextual (maxDischargeDepth := 40) [State.keepForParts, hS]

@[simp] theorem State.loseRegs_sound (s : State) (c : Ch) (hS : Sound Q τ s) :
    Sound Q τ (State.loseRegs s c) := by
  simp +contextual (maxDischargeDepth := 40) [State.loseRegs, hS]

@[simp] theorem State.chanOff_sound (s : State) (c : Ch) (hS : Sound Q τ s) :
    Sound Q τ (State.chanOff s c) := by
  unfold State.chanOff
  simp +contextual (maxDischargeDepth := 40) [hS]

theorem execChOffEntered_sound (c : Ch) (s : State) (hS : Sound Q τ s) :
    SoundOut Q τ (execChOffEntered c s) := by
  simp +contextual (maxDischargeDepth := 40) [execChOffEntered, hS]

@[simp] theorem State.loadCodes_sound (s : State) (c : Ch) (hS : Sound Q τ s) :
    Sound Q τ (State.loadCodes s c) := by
  simp +contextual (maxDischargeDepth := 40) [State.loadCodes, hS]

@[simp] theorem State.wakeSpad_sound (s : State) (c : Ch) (hS : Sound Q τ s) :
    Sound Q τ (State.wakeSpad s c) := by
  simp +contextual (maxDischargeDepth := 40) [State.wakeSpad, hS]

@[simp] theorem State.setHbmSpace_sound (s : State) (c : Ch) (hS : Sound Q τ s) :
    Sound Q τ (State.setHbmSpace s c) := by
  simp +contextual (maxDischargeDepth := 40) [State.setHbmSpace, hS]

theorem execChWakeComplete_sound (c : Ch) (s : State) (hS : Sound Q τ s) :
    SoundOut Q τ (execChWakeComplete c s) := by
  unfold execChWakeComplete
  repeat' first
    | (extract_lets +onlyGivenNames s; first
        | (refine (fun (hS : Sound Q τ s) => ?_) ?_; clear_value s; have hW := hS.chan_wf; rotate_left; dsimp -zeta only [s]; clear s)
        | (refine (fun (hS : Sound Q τ s.2) => ?_) ?_; clear_value s; have hW := hS.chan_wf; rotate_left; dsimp -zeta only [s]; clear s)
        | clear_value s)
    | split
  all_goals simp +contextual (maxDischargeDepth := 40) [*]

@[simp] theorem State.startWake_sound (s : State) (c : Ch) (hS : Sound Q τ s) :
    Sound Q τ (State.startWake s c) := by
  simp +contextual (maxDischargeDepth := 40) [State.startWake, hS]

@[simp] theorem State.pendReq_sound (s : State) (c : Ch) (r : StateReq) (hS : Sound Q τ s) :
    Sound Q τ (State.pendReq s c r) := by
  simp +contextual (maxDischargeDepth := 40) [State.pendReq, hS]

@[simp] theorem State.judgeReq_sound (s : State) (c : Ch) (r : StateReq) (hS : Sound Q τ s) :
    Sound Q τ (State.judgeReq s c r) := by
  unfold State.judgeReq
  repeat' first
    | (extract_lets +onlyGivenNames s; clear_value s)
    | split
  all_goals simp +contextual (maxDischargeDepth := 40) [*]

@[simp] theorem State.writeReq_sound (s : State) (c : Ch) (v : Nat) (hS : Sound Q τ s) :
    Sound Q τ (State.writeReq s c v) := by
  unfold State.writeReq
  repeat' first
    | (extract_lets +onlyGivenNames s; clear_value s)
    | split
  all_goals simp +contextual (maxDischargeDepth := 40) [*]

@[simp] theorem State.completeDown_sound (s : State) (c : Ch) (hS : Sound Q τ s) :
    Sound Q τ (State.completeDown s c) := by
  simp +contextual (maxDischargeDepth := 40) [State.completeDown, hS]

@[simp] theorem Chan.endWork_wf (x : Chan) (hbm : Bool) (hX : Chan.wf x) :
    Chan.wf (Chan.endWork x hbm) := by
  unfold Chan.endWork
  try dsimp only
  (repeat' split) <;> simp +contextual (maxDischargeDepth := 40) [*]

@[simp] theorem State.chFault_sound (s : State) (c : Ch) (causes : BitVec 6) (hS : Sound Q τ s) :
    Sound Q τ (State.chFault s c causes) := by
  simp +contextual (maxDischargeDepth := 40) [State.chFault, hS]

theorem execChFaultDetect_sound (c : Ch) (causes : BitVec 6) (s : State) (hS : Sound Q τ s) :
    SoundOut Q τ (execChFaultDetect c causes s) := by
  simp +contextual (maxDischargeDepth := 40) [execChFaultDetect, hS]

theorem execD2dLinkFailure_sound (c : Ch) (s : State) (hS : Sound Q τ s) :
    SoundOut Q τ (execD2dLinkFailure c s) := by
  simp +contextual (maxDischargeDepth := 40) [execD2dLinkFailure, hS]

theorem execChPllLoss_sound (c : Ch) (s : State) (hS : Sound Q τ s) :
    SoundOut Q τ (execChPllLoss c s) := by
  simp +contextual (maxDischargeDepth := 40) [execChPllLoss, hS]

theorem execCtxWatchdogExpiry_sound (c : Ch) (ctx : Fin 2048) (s : State) (hS : Sound Q τ s) :
    SoundOut Q τ (execCtxWatchdogExpiry c ctx s) := by
  unfold execCtxWatchdogExpiry
  (repeat' split) <;> simp +contextual (maxDischargeDepth := 40) [hS]

theorem execHbmPhyRetrain_sound (c : Ch) (s : State) (hS : Sound Q τ s) :
    SoundOut Q τ (execHbmPhyRetrain c s) := by
  simp +contextual (maxDischargeDepth := 40) [execHbmPhyRetrain, hS]

theorem execHbmPhyRetrainEnd_sound (c : Ch) (good : Bool) (s : State) (hS : Sound Q τ s) :
    SoundOut Q τ (execHbmPhyRetrainEnd c good s) := by
  simp +contextual (maxDischargeDepth := 40) [execHbmPhyRetrainEnd, hS]

theorem execChFaultCauseClears_sound (c : Ch) (cause : Fin 6) (s : State) (hS : Sound Q τ s) :
    SoundOut Q τ (execChFaultCauseClears c cause s) := by
  simp +contextual (maxDischargeDepth := 40) [execChFaultCauseClears, hS]

end Sys2Proof.Machine
end

