-- ==== Sys2Proof/Laws/SoundProfile.lean ====
section
/-! SUPPORT. The operations of Machine/Profile.lean keep a state sound. -/

namespace Sys2Proof.Machine

variable {Q : List Instr} {τ : Nat}

@[simp] theorem State.profEnabled_sound (s : State) (c : Ch) (p : Nat) (hS : Sound Q τ s) :
    Sound Q τ (State.profEnabled s c p) := by
  simp +contextual (maxDischargeDepth := 40) [State.profEnabled, hS]

@[simp] theorem State.profCleared_sound (s : State) (c : Ch) (p : Nat) (hS : Sound Q τ s) :
    Sound Q τ (State.profCleared s c p) := by
  simp +contextual (maxDischargeDepth := 40) [State.profCleared, hS]

@[simp] theorem State.profEnWritten_sound (s : State) (c : Ch) (p : Nat) (was : Bool) (hS : Sound Q τ s) :
    Sound Q τ (State.profEnWritten s c p was) := by
  simp +contextual (maxDischargeDepth := 40) [State.profEnWritten, hS]

@[simp] theorem State.profBodyWritten_sound (s : State) (c : Ch) (p : Nat) (hS : Sound Q τ s) :
    Sound Q τ (State.profBodyWritten s c p) := by
  simp +contextual (maxDischargeDepth := 40) [State.profBodyWritten, hS]

theorem execProfileReportAtBaseDie_sound (c : Ch) (p : Fin 64) (s : State) (hS : Sound Q τ s) :
    SoundOut Q τ (execProfileReportAtBaseDie c p s) := by
  simp +contextual (maxDischargeDepth := 40) [execProfileReportAtBaseDie, hS]

@[simp] theorem State.ftEnWritten_sound (s : State) (c : Ch) (t : Nat) (was : Bool) (hS : Sound Q τ s) :
    Sound Q τ (State.ftEnWritten s c t was) := by
  simp +contextual (maxDischargeDepth := 40) [State.ftEnWritten, hS]

end Sys2Proof.Machine
end

