-- ==== Sys2Proof/Laws/SoundTime.lean ====
section
/-! SUPPORT. The operations of Machine/Time.lean keep a state sound. -/

namespace Sys2Proof.Machine

variable {Q : List Instr} {τ : Nat}

@[simp] theorem State.timeEvents_sound (old s : State) (hS : Sound Q τ s) :
    Sound Q τ (State.timeEvents old s) := by
  simp +contextual (maxDischargeDepth := 40) [State.timeEvents, hS]

@[simp] theorem State.loadTime_sound (s : State) (seconds nanos : Nat) (hS : Sound Q τ s) :
    Sound Q τ (State.loadTime s seconds nanos) := by
  simp +contextual (maxDischargeDepth := 40) [State.loadTime, hS]

theorem execTimeTick_sound (s : State) (hS : Sound Q τ s) :
    SoundOut Q τ (execTimeTick s) := by
  unfold execTimeTick
  repeat' first
    | (extract_lets +onlyGivenNames s; (refine (fun (hS : Sound Q τ s) => ?_) ?_; clear_value s; have hW := hS.chan_wf; rotate_left; dsimp -zeta only [s]; clear s))
    | split
  all_goals simp +contextual (maxDischargeDepth := 40) [*]

@[simp] theorem State.refSeconds_sound (s : State) (hS : Sound Q τ s) :
    Sound Q τ (State.refSeconds s).2 := by
  unfold State.refSeconds
  (repeat' split) <;> simp +contextual (maxDischargeDepth := 40) [hS]

@[simp] theorem State.storeErr_sound (s : State) (e : Int) (hS : Sound Q τ s) :
    Sound Q τ (State.storeErr s e) := by
  simp +contextual (maxDischargeDepth := 40) [State.storeErr, hS]

@[simp] theorem State.servo_sound (s : State) (e : Int) (hS : Sound Q τ s) :
    Sound Q τ (State.servo s e) := by
  unfold State.servo
  repeat' first
    | (extract_lets +onlyGivenNames s; first
        | (refine (fun (hS : Sound Q τ s.2) => ?_) ?_; clear_value s; have hW := hS.chan_wf; rotate_left; dsimp -zeta only [s]; clear s)
        | clear_value s)
    | split
  all_goals simp +contextual (maxDischargeDepth := 40) [*]

@[simp] theorem State.todAfterEdge_sound (s : State) (hS : Sound Q τ s) :
    Sound Q τ (State.todAfterEdge s) := by
  simp +contextual (maxDischargeDepth := 40) [State.todAfterEdge, hS]

theorem execPpsEdge_sound (falling : Bool) (s : State) (hS : Sound Q τ s) :
    SoundOut Q τ (execPpsEdge falling s) := by
  simp +contextual (maxDischargeDepth := 40) [execPpsEdge, hS]

theorem execPpsHoldover_sound (s : State) (hS : Sound Q τ s) :
    SoundOut Q τ (execPpsHoldover s) := by
  simp +contextual (maxDischargeDepth := 40) [execPpsHoldover, hS]

@[simp] theorem State.runTimeOfDay_sound (s : State) (hf : Hf) (seconds : BitVec 48) (hS : Sound Q τ s) :
    Sound Q τ (State.runTimeOfDay s hf seconds) := by
  simp +contextual (maxDischargeDepth := 40) [State.runTimeOfDay, hS]

theorem execTodFrameDiscard_sound (s : State) (hS : Sound Q τ s) :
    SoundOut Q τ (execTodFrameDiscard s) := by
  unfold execTodFrameDiscard
  (repeat' split) <;> simp +contextual (maxDischargeDepth := 40) [hS]

@[simp] theorem State.timeCmd_sound (s : State) (v : Word) (hS : Sound Q τ s) :
    Sound Q τ (State.timeCmd s v) := by
  simp +contextual (maxDischargeDepth := 40) [State.timeCmd, hS]

@[simp] theorem State.snapTime_sound (s : State) (hS : Sound Q τ s) :
    Sound Q τ (State.snapTime s) := by
  simp +contextual (maxDischargeDepth := 40) [State.snapTime, hS]

end Sys2Proof.Machine
end

