-- ==== Sys2Proof/Laws/SoundEpoch.lean ====
section
/-! SUPPORT. The operations of Machine/Epoch.lean keep a state sound. -/

namespace Sys2Proof.Machine

variable {Q : List Instr} {τ : Nat}

@[simp] theorem State.modEp_sound (s : State) (c : Ch) (f : Epochs → Epochs) (hS : Sound Q τ s) :
    Sound Q τ (State.modEp s c f) := by
  simp +contextual (maxDischargeDepth := 40) [State.modEp, hS]

@[simp] theorem State.epRejected_sound (s : State) (c : Ch) (hS : Sound Q τ s) :
    Sound Q τ (State.epRejected s c) := by
  simp +contextual (maxDischargeDepth := 40) [State.epRejected, hS]

@[simp] theorem State.epStage_sound (s : State) (c : Ch) (hS : Sound Q τ s) :
    Sound Q τ (State.epStage s c) := by
  simp +contextual (maxDischargeDepth := 40) [State.epStage, hS]

@[simp] theorem State.epCommit_sound (s : State) (c : Ch) (hS : Sound Q τ s) :
    Sound Q τ (State.epCommit s c) := by
  simp +contextual (maxDischargeDepth := 40) [State.epCommit, hS]

@[simp] theorem State.epArm_sound (s : State) (c : Ch) (hS : Sound Q τ s) :
    Sound Q τ (State.epArm s c) := by
  simp +contextual (maxDischargeDepth := 40) [State.epArm, hS]

@[simp] theorem State.epDisarm_sound (s : State) (c : Ch) (hS : Sound Q τ s) :
    Sound Q τ (State.epDisarm s c) := by
  simp +contextual (maxDischargeDepth := 40) [State.epDisarm, hS]

@[simp] theorem State.epEndSlack_sound (s : State) (c : Ch) (hS : Sound Q τ s) :
    Sound Q τ (State.epEndSlack s c) := by
  simp +contextual (maxDischargeDepth := 40) [State.epEndSlack, hS]

@[simp] theorem State.epFree_sound (s : State) (c : Ch) (hS : Sound Q τ s) :
    Sound Q τ (State.epFree s c) := by
  simp +contextual (maxDischargeDepth := 40) [State.epFree, hS]

@[simp] theorem State.epochCmd_sound (s : State) (c : Ch) (v : Word) (hS : Sound Q τ s) :
    Sound Q τ (State.epochCmd s c v) := by
  unfold State.epochCmd
  (repeat' split) <;> simp +contextual (maxDischargeDepth := 40) [hS]

theorem execScheduleFires_sound (c : Ch) (s : State) (hS : Sound Q τ s) :
    SoundOut Q τ (execScheduleFires c s) := by
  simp +contextual (maxDischargeDepth := 40) [execScheduleFires, hS]

theorem execCommitTakesEffect_sound (c : Ch) (s : State) (hS : Sound Q τ s) :
    SoundOut Q τ (execCommitTakesEffect c s) := by
  unfold execCommitTakesEffect
  (repeat' split) <;> simp +contextual (maxDischargeDepth := 40) [hS]

theorem execSlackWaterEnd_sound (c : Ch) (s : State) (hS : Sound Q τ s) :
    SoundOut Q τ (execSlackWaterEnd c s) := by
  simp +contextual (maxDischargeDepth := 40) [execSlackWaterEnd, hS]

end Sys2Proof.Machine
end

