-- ==== Sys2Proof/Laws/SoundSpad.lean ====
section
/-! SUPPORT. The operations of Machine/Spad.lean keep a state sound. -/

namespace Sys2Proof.Machine

variable {Q : List Instr} {τ : Nat}

@[simp] theorem State.spadRead_sound (s : State) (c : Ch) (master bank word : Nat) (hS : Sound Q τ s) :
    Sound Q τ (State.spadRead s c master bank word).2 := by
  unfold State.spadRead
  repeat' first
    | (extract_lets +onlyGivenNames s; clear_value s)
    | split
  all_goals simp +contextual (maxDischargeDepth := 40) [*]

@[simp] theorem State.spadRound_sound (s : State) (c : Ch) (bank : Nat) (wins losers : List SpadReq) (hS : Sound Q τ s) :
    Sound Q τ (State.spadRound s c bank wins losers) := by
  simp +contextual (maxDischargeDepth := 40) [State.spadRound, hS]

@[simp] theorem Chan.marchLate_wf (x : Chan) (hX : Chan.wf x) :
    Chan.wf (Chan.marchLate x) := by
  unfold Chan.marchLate
  try dsimp only
  (repeat' split) <;> simp +contextual (maxDischargeDepth := 40) [*]

@[simp] theorem State.spadWrites_sound (s : State) (c : Ch) (ws : List SpadReq) (hS : Sound Q τ s) :
    Sound Q τ (State.spadWrites s c ws) := by
  have hW := hS.chan_wf
  unfold State.spadWrites
  repeat' first
    | (extract_lets +onlyGivenNames s; first
        | (refine (fun (hS : Sound Q τ s) => ?_) ?_; clear_value s; have hW := hS.chan_wf; rotate_left; dsimp -zeta only [s]; clear s)
        | (refine (fun (hS : Sound Q τ s.1) => ?_) ?_; clear_value s; have hW := hS.chan_wf; rotate_left; dsimp -zeta only [s]; clear s)
        | (refine (fun (hS : Sound Q τ s.2) => ?_) ?_; clear_value s; have hW := hS.chan_wf; rotate_left; dsimp -zeta only [s]; clear s)
        | (refine (fun (hS : Sound Q τ s.2.2) => ?_) ?_; clear_value s; have hW := hS.chan_wf; rotate_left; dsimp -zeta only [s]; clear s)
        | (refine (fun (hX : Chan.wf s) => ?_) ?_; clear_value s; rotate_left; dsimp -zeta only [s]; clear s)
        | (have hE : (s : _ → _) = s := rfl; clear hE; dsimp -zeta only [s]; clear s)
        | (have hE : (s : Events) = s := rfl; clear hE; dsimp -zeta only [s]; clear s)
        | clear_value s)
    | with_reducible refine soundOut_next.mpr ?_
    | (with_reducible refine sound_foldl' ?_ ?_; rotate_left; intro s a hS; have hW := hS.chan_wf; try beta_reduce)
    | (with_reducible refine sound_foldl_fst ?_ _ ?_; intro s a hS; have hW := hS.chan_wf; try beta_reduce)
    | (with_reducible refine sound_foldl_snd ?_ _ ?_; intro s a hS; have hW := hS.chan_wf; try beta_reduce)
    | split
  all_goals first
    | contradiction
    | simp +contextual (maxDischargeDepth := 40) [*]

theorem State.spadBank_sound (c : Ch) (asks : List SpadReq) (holds : List (Nat × SpadReq)) (t : SpadRun × State) (bank : Nat)
    (hS : Sound Q τ t.2) : Sound Q τ (State.spadBank c asks holds t bank).2 := by
  unfold State.spadBank
  dsimp only
  refine State.spadWrites_sound _ _ _ (sound_foldl_snd ?_ _ ?_)
  · intro r a hR
    split <;> simp +contextual (maxDischargeDepth := 40) [hR]
  · split <;> simp +contextual (maxDischargeDepth := 40) [hS]

theorem State.spadEnter_sound (c : Ch) (t : SpadRun × State) (q : SpadReq) (hS : Sound Q τ t.2) :
    Sound Q τ (State.spadEnter c t q).2 := by
  unfold State.spadEnter
  dsimp only
  (repeat' split) <;> simp +contextual (maxDischargeDepth := 40) [hS]

theorem State.spadCycle_sound (c : Ch) (t : SpadRun × State) (hS : Sound Q τ t.2) : Sound Q τ (State.spadCycle c t).2 :=
  sound_foldl_snd (fun r b hR => State.spadBank_sound c _ _ r b hR) _ hS

theorem State.spadCycles_sound (c : Ch) : ∀ (n : Nat) (rounds : List (List SpadReq)) (t : SpadRun × State),
    Sound Q τ t.2 → Sound Q τ (State.spadCycles c n rounds t).2
  | 0, _, _, hS => hS
  | n + 1, rounds, t, hS => by
    have h := sound_foldl_snd (fun r q hR => State.spadEnter_sound (Q := Q) (τ := τ) c r q hR) (rounds.headD []) hS
    unfold State.spadCycles
    dsimp only
    split
    · exact h
    · exact State.spadCycles_sound c n _ _ (State.spadCycle_sound c _ h)

@[simp] theorem State.spadAccess_sound (s : State) (c : Ch) (be : BitVec 4) (o : Nat) (write : Bool) (data : Word) (others : List (List SpadReq)) (hS : Sound Q τ s) :
    Sound Q τ (State.spadAccess s c be o write data others).2 := by
  exact State.spadCycles_sound c _ _ _ hS

@[simp] theorem State.spadWindowRead_sound (s : State) (c : Ch) (o : Nat) (others : List (List SpadReq)) (hS : Sound Q τ s) :
    Sound Q τ (State.spadWindowRead s c o others).2 := by
  unfold State.spadWindowRead
  repeat' first
    | (extract_lets +onlyGivenNames s; (refine (fun (hS : Sound Q τ s.2) => ?_) ?_; clear_value s; have hW := hS.chan_wf; rotate_left; dsimp -zeta only [s]; clear s))
    | (with_reducible refine sound_foldl_snd ?_ _ ?_; intro s a hS; have hW := hS.chan_wf; try beta_reduce)
    | split
  all_goals simp +contextual (maxDischargeDepth := 40) [*]

@[simp] theorem State.spadWindowWrite_sound (s : State) (c : Ch) (be : BitVec 4) (o : Nat) (data : Word) (others : List (List SpadReq)) (hS : Sound Q τ s) :
    Sound Q τ (State.spadWindowWrite s c be o data others) := by
  unfold State.spadWindowWrite
  repeat' first
    | (extract_lets +onlyGivenNames s; first
        | (refine (fun (hS : Sound Q τ s.2) => ?_) ?_; clear_value s; have hW := hS.chan_wf; rotate_left; dsimp -zeta only [s]; clear s)
        | clear_value s)
    | (with_reducible refine sound_foldl' ?_ ?_; rotate_left; intro s a hS; have hW := hS.chan_wf; try beta_reduce)
    | split
  all_goals simp +contextual (maxDischargeDepth := 40) [*]

@[simp] theorem State.ownerReqWritten_sound (s : State) (c : Ch) (bank old : Nat) (host : Bool) (hS : Sound Q τ s) :
    Sound Q τ (State.ownerReqWritten s c bank old host) := by
  simp +contextual (maxDischargeDepth := 40) [State.ownerReqWritten, hS]

theorem execSpadHandover_sound (c : Ch) (bank : Fin 16) (s : State) (hS : Sound Q τ s) :
    SoundOut Q τ (execSpadHandover c bank s) := by
  simp +contextual (maxDischargeDepth := 40) [execSpadHandover, hS]

@[simp] theorem State.marchStart_sound (s : State) (c : Ch) (hS : Sound Q τ s) :
    Sound Q τ (State.marchStart s c) := by
  simp +contextual (maxDischargeDepth := 40) [State.marchStart, hS]

@[simp] theorem State.marchRestore_sound (s : State) (c : Ch) (bank : Nat) (hS : Sound Q τ s) :
    Sound Q τ (State.marchRestore s c bank).1 := by
  unfold State.marchRestore
  repeat' first
    | (extract_lets +onlyGivenNames s; first
        | (refine (fun (hS : Sound Q τ s.2) => ?_) ?_; clear_value s; have hW := hS.chan_wf; rotate_left; dsimp -zeta only [s]; clear s)
        | clear_value s)
    | (with_reducible refine sound_foldl_fst ?_ _ ?_; intro s a hS; have hW := hS.chan_wf; try beta_reduce)
    | split
  all_goals simp +contextual (maxDischargeDepth := 40) [*]

@[simp] theorem Mgr.marchDone_boxes (m : Mgr) (bank fail : Nat) :
    (Mgr.marchDone m bank fail).boxes.length = m.boxes.length := by
  unfold Mgr.marchDone
  (repeat' split) <;> simp

theorem execMarchEnd_sound (c : Ch) (failing : Option (Fin 8192)) (s : State) (hS : Sound Q τ s) :
    SoundOut Q τ (execMarchEnd c failing s) := by
  unfold execMarchEnd
  (repeat' split) <;> simp +contextual (maxDischargeDepth := 40) [hS]

theorem execHbmArbGrant_sound (c : Ch) (requests : BitVec 5) (bursts : Nat) (withdrawn : Bool) (s : State) (hS : Sound Q τ s) :
    SoundOut Q τ (execHbmArbGrant c requests bursts withdrawn s) := by
  unfold execHbmArbGrant
  (repeat' split) <;> simp +contextual (maxDischargeDepth := 40) [hS]

end Sys2Proof.Machine
end

