-- ==== Sys2Proof/Laws/SoundCalendar.lean ====
section
/-! SUPPORT. The operations of Machine/Calendar.lean keep a state sound. -/

namespace Sys2Proof.Machine

variable {Q : List Instr} {τ : Nat}

@[simp] theorem State.calSwap_sound (s : State) (c : Ch) (hS : Sound Q τ s) :
    Sound Q τ (State.calSwap s c) := by
  simp +contextual (maxDischargeDepth := 40) [State.calSwap, hS]

theorem execCalSwapTakesEffect_sound (c : Ch) (s : State) (hS : Sound Q τ s) :
    SoundOut Q τ (execCalSwapTakesEffect c s) := by
  unfold execCalSwapTakesEffect
  (repeat' split) <;> simp +contextual (maxDischargeDepth := 40) [hS]

end Sys2Proof.Machine
end

