-- ==== Sys2Proof/Laws/SoundPower.lean ====
section
/-! SUPPORT. The operations of Machine/Power.lean keep a state sound. -/

namespace Sys2Proof.Machine

variable {Q : List Instr} {τ : Nat}

@[simp] theorem State.modPwr_sound (s : State) (f : Supply → Supply) (hS : Sound Q τ s) :
    Sound Q τ (State.modPwr s f) := by
  simp +contextual (maxDischargeDepth := 40) [State.modPwr, hS]

@[simp] theorem State.setPage_sound (s : State) (i : Nat) (f : PageStatus → PageStatus) (hS : Sound Q τ s) :
    Sound Q τ (State.setPage s i f) := by
  simp +contextual (maxDischargeDepth := 40) [State.setPage, hS]

@[simp] theorem State.beginEbb_sound (s : State) (hS : Sound Q τ s) :
    Sound Q τ (State.beginEbb s) := by
  unfold State.beginEbb
  (repeat' split) <;> simp +contextual (maxDischargeDepth := 40) [hS]

theorem execInputLoss_sound (vinMv : Nat) (s : State) (hS : Sound Q τ s) :
    SoundOut Q τ (execInputLoss vinMv s) := by
  simp +contextual (maxDischargeDepth := 40) [execInputLoss, hS]

theorem execInputRestored_sound (vinMv : Nat) (s : State) (hS : Sound Q τ s) :
    SoundOut Q τ (execInputRestored vinMv s) := by
  simp +contextual (maxDischargeDepth := 40) [execInputRestored, hS]

theorem execRideExpiry_sound (s : State) (hS : Sound Q τ s) :
    SoundOut Q τ (execRideExpiry s) := by
  unfold execRideExpiry
  (repeat' split) <;> simp +contextual (maxDischargeDepth := 40) [hS]

theorem execBankLow_sound (bankMv : Nat) (s : State) (hS : Sound Q τ s) :
    SoundOut Q τ (execBankLow bankMv s) := by
  simp +contextual (maxDischargeDepth := 40) [execBankLow, hS]

theorem execEbbChannelHalt_sound (s : State) (hS : Sound Q τ s) :
    SoundOut Q τ (execEbbChannelHalt s) := by
  unfold execEbbChannelHalt
  (repeat' split) <;> simp +contextual (maxDischargeDepth := 40) [hS]

theorem execEbbLinkDown_sound (s : State) (hS : Sound Q τ s) :
    SoundOut Q τ (execEbbLinkDown s) := by
  unfold execEbbLinkDown
  (repeat' split) <;> simp +contextual (maxDischargeDepth := 40) [hS]

@[simp] theorem State.moduleReset_sound (s : State) (hS : Sound Q τ s) :
    Sound Q τ (State.moduleReset s) := by
  exact ⟨hS.1, hS.2.1, filter_swf _ hS.2.2.1, Nat.zero_le _,
    fun c => by fin_cases c <;> exact ⟨rfl, rfl, rfl, rfl⟩⟩

@[simp] theorem State.endProgs_sound (s : State) (hS : Sound Q τ s) :
    Sound Q τ (State.endProgs s) := by
  simp +contextual (maxDischargeDepth := 40) [State.endProgs, hS]

@[simp] theorem State.leaveReset_sound (s : State) (hS : Sound Q τ s) :
    Sound Q τ (State.leaveReset s) := by
  simp +contextual (maxDischargeDepth := 40) [State.leaveReset, hS]

theorem execEbbEnd_sound (s : State) (hS : Sound Q τ s) :
    SoundOut Q τ (execEbbEnd s) := by
  unfold execEbbEnd
  (repeat' split) <;> simp +contextual (maxDischargeDepth := 40) [hS]

@[simp] theorem State.voutFault_sound (s : State) (rail : Nat) (hS : Sound Q τ s) :
    Sound Q τ (State.voutFault s rail) := by
  unfold State.voutFault
  repeat' first
    | (extract_lets +onlyGivenNames s; (refine (fun (hS : Sound Q τ s.2) => ?_) ?_; clear_value s; have hW := hS.chan_wf; rotate_left; dsimp -zeta only [s]; clear s))
    | split
  all_goals simp +contextual (maxDischargeDepth := 40) [*]

theorem execRailFault_sound (rail : Nat) (s : State) (hS : Sound Q τ s) :
    SoundOut Q τ (execRailFault rail s) := by
  unfold execRailFault
  (repeat' split) <;> simp +contextual (maxDischargeDepth := 40) [hS]

theorem execRailStepComplete_sound (c : Ch) (s : State) (hS : Sound Q τ s) :
    SoundOut Q τ (execRailStepComplete c s) := by
  unfold execRailStepComplete
  repeat' first
    | (extract_lets +onlyGivenNames s; first
        | (refine (fun (hS : Sound Q τ s) => ?_) ?_; clear_value s; have hW := hS.chan_wf; rotate_left; dsimp -zeta only [s]; clear s)
        | clear_value s)
    | split
  all_goals simp +contextual (maxDischargeDepth := 40) [*]

theorem execThermalSample_sound (baseC stageC : Int) (chC : Quad Int) (s : State) (hS : Sound Q τ s) :
    SoundOut Q τ (execThermalSample baseC stageC chC s) := by
  unfold execThermalSample
  repeat' first
    | (extract_lets +onlyGivenNames s; first
        | (refine (fun (hS : Sound Q τ s) => ?_) ?_; clear_value s; have hW := hS.chan_wf; rotate_left; dsimp -zeta only [s]; clear s)
        | clear_value s)
    | (with_reducible refine sound_foldl' ?_ ?_; rotate_left; intro s a hS; have hW := hS.chan_wf; try beta_reduce)
    | split
  all_goals simp +contextual (maxDischargeDepth := 40) [*]

@[simp] theorem State.filterStatic_sound (s : State) (hS : Sound Q τ s) :
    Sound Q τ (State.filterStatic s) := by
  simp +contextual (maxDischargeDepth := 40) [State.filterStatic, hS]

theorem execInputPowerMeasurement_sound (vinMv iinMa : Nat) (chMw : Quad Nat) (s : State) (hS : Sound Q τ s) :
    SoundOut Q τ (execInputPowerMeasurement vinMv iinMa chMw s) := by
  simp +contextual (maxDischargeDepth := 40) [execInputPowerMeasurement, hS]

theorem execGovernorWindow_sound (s : State) (hS : Sound Q τ s) :
    SoundOut Q τ (execGovernorWindow s) := by
  simp +contextual (maxDischargeDepth := 40) [execGovernorWindow, hS]

theorem execHoldupCharged_sound (bankMv : Nat) (s : State) (hS : Sound Q τ s) :
    SoundOut Q τ (execHoldupCharged bankMv s) := by
  simp +contextual (maxDischargeDepth := 40) [execHoldupCharged, hS]

@[simp] theorem State.clearFaults_sound (s : State) (hS : Sound Q τ s) :
    Sound Q τ (State.clearFaults s) := by
  simp +contextual (maxDischargeDepth := 40) [State.clearFaults, hS]

theorem execClearFaults_sound (s : State) (hS : Sound Q τ s) :
    SoundOut Q τ (execClearFaults s) := by
  simp +contextual (maxDischargeDepth := 40) [execClearFaults, hS]

@[simp] theorem State.pmbusRefuse_sound (s : State) (bit : Byte) (hS : Sound Q τ s) :
    Sound Q τ (State.pmbusRefuse s bit) := by
  simp +contextual (maxDischargeDepth := 40) [State.pmbusRefuse, hS]

theorem execPmbusCommand_sound (code : Byte) (write : Bool) (data : List Byte) (s : State) (hS : Sound Q τ s) :
    SoundOut Q τ (execPmbusCommand code write data s) := by
  unfold execPmbusCommand
  (repeat' split) <;> simp +contextual (maxDischargeDepth := 40) [hS]

end Sys2Proof.Machine
end

