-- ==== Sys2Proof/Laws/SoundStaging.lean ====
section
/-! SUPPORT. The operations of Machine/Staging.lean keep a state sound. -/

namespace Sys2Proof.Machine

variable {Q : List Instr} {τ : Nat}

@[simp] theorem Chan.stageWrite_wf (x : Chan) (h off : Nat) (data : BitVec 512) (hX : Chan.wf x) :
    Chan.wf (Chan.stageWrite x h off data) := by
  unfold Chan.stageWrite
  try dsimp only
  (repeat' split) <;> simp +contextual (maxDischargeDepth := 40) [*]

@[simp] theorem Chan.stagePut_wf (h : Nat) : ∀ (n off : Nat) (l : List Byte) (x : Chan), x.wf →
    (Chan.stagePut h n off l x).wf
  | 0, _, _, _, hX => hX
  | n + 1, off, l, x, hX => Chan.stagePut_wf h n (off + 64) _ _ (by simp [hX])

@[simp] theorem Chan.stagePutBytes_wf (x : Chan) (h off : Nat) (l : List Byte) (hX : Chan.wf x) :
    Chan.wf (Chan.stagePutBytes x h off l) := by
  unfold Chan.stagePutBytes
  try dsimp only
  (repeat' split) <;> simp +contextual (maxDischargeDepth := 40) [*]

@[simp] theorem State.bootUpdStart_sound (s : State) (h : Nat) (hS : Sound Q τ s) :
    Sound Q τ (State.bootUpdStart s h) := by
  simp +contextual (maxDischargeDepth := 40) [State.bootUpdStart, hS]

end Sys2Proof.Machine
end

