-- ==== Sys2Proof/Laws/SoundRegRead.lean ====
section
/-! SUPPORT. The operations of Machine/RegRead.lean keep a state sound. -/

namespace Sys2Proof.Machine

variable {Q : List Instr} {τ : Nat}

@[simp] theorem State.setPair_sound (s : State) (p : IndPair) (hS : Sound Q τ s) :
    Sound Q τ (State.setPair s p) := by
  simp +contextual (maxDischargeDepth := 40) [State.setPair, hS]

@[simp] theorem State.readAs_sound (s : State) (req region : Nat) (ind : Bool) (off : Nat) (hS : Sound Q τ s) :
    Sound Q τ (State.readAs s req region ind off).2 := by
  unfold State.readAs
  repeat' first
    | (extract_lets +onlyGivenNames s; first
        | (refine (fun (hS : Sound Q τ s) => ?_) ?_; clear_value s; have hW := hS.chan_wf; rotate_left; dsimp -zeta only [s]; clear s)
        | (refine (fun (hS : Sound Q τ s.2) => ?_) ?_; clear_value s; have hW := hS.chan_wf; rotate_left; dsimp -zeta only [s]; clear s)
        | clear_value s)
    | split
  all_goals simp +contextual (maxDischargeDepth := 40) [*]

end Sys2Proof.Machine
end

