-- ==== Sys2Proof/Laws/SoundRegWrite.lean ====
section
/-! SUPPORT. The operations of Machine/RegWrite.lean keep a state sound. -/

namespace Sys2Proof.Machine

variable {Q : List Instr} {τ : Nat}

@[simp] theorem State.storeWord_sound (s : State) (who : Writer) (region : Nat) (ind : Bool) (off : Nat) (v : Word) (hS : Sound Q τ s) :
    Sound Q τ (State.storeWord s who region ind off v) := by
  simp +contextual (maxDischargeDepth := 40) [State.storeWord, hS]

@[simp] theorem State.writeLost_sound (s : State) (who : Writer) (region : Nat) (ind : Bool) (off : Nat) (hS : Sound Q τ s) :
    Sound Q τ (State.writeLost s who region ind off) := by
  unfold State.writeLost
  simp +contextual (maxDischargeDepth := 40) [hS]

@[simp] theorem State.rsvChanged_sound (s : State) (region off : Nat) (hS : Sound Q τ s) :
    Sound Q τ (State.rsvChanged s region off) := by
  simp +contextual (maxDischargeDepth := 40) [State.rsvChanged, hS]

@[simp] theorem State.landFields_sound (s : State) (who : Writer) (region : Nat) (ind : Bool) (off : Nat) (fs : List Fld) (v bits hw : Word) (hS : Sound Q τ s) :
    Sound Q τ (State.landFields s who region ind off fs v bits hw) := by
  unfold State.landFields
  repeat' first
    | (extract_lets +onlyGivenNames s; first
        | (refine (fun (hS : Sound Q τ s) => ?_) ?_; clear_value s; have hW := hS.chan_wf; rotate_left; dsimp -zeta only [s]; clear s)
        | clear_value s)
    | split
  all_goals simp +contextual (maxDischargeDepth := 40) [*]

@[simp] theorem State.evtClear_sound (s : State) (region off : Nat) (pulse hw : Word) (hS : Sound Q τ s) :
    Sound Q τ (State.evtClear s region off pulse hw) := by
  simp +contextual (maxDischargeDepth := 40) [State.evtClear, hS]

@[simp] theorem State.cascCtrl_sound (old s : State) (hS : Sound Q τ s) :
    Sound Q τ (State.cascCtrl old s) := by
  simp +contextual (maxDischargeDepth := 40) [State.cascCtrl, hS]

@[simp] theorem State.modResetNow_sound (s : State) (hS : Sound Q τ s) :
    Sound Q τ (State.modResetNow s) := by
  simp +contextual (maxDischargeDepth := 40) [State.modResetNow, hS]

@[simp] theorem State.modEffect_sound (old s : State) (who : Writer) (off : Nat) (pulse hw : Word) (hS : Sound Q τ s) :
    Sound Q τ (State.modEffect old s who off pulse hw) := by
  unfold State.modEffect
  (repeat' split) <;> simp +contextual (maxDischargeDepth := 40) [hS]

@[simp] theorem State.flowCtrlWritten_sound (old s : State) (c : Ch) (hS : Sound Q τ s) :
    Sound Q τ (State.flowCtrlWritten old s c) := by
  simp +contextual (maxDischargeDepth := 40) [State.flowCtrlWritten, hS]

@[simp] theorem State.chEffect_sound (old s : State) (who : Writer) (c : Ch) (off : Nat) (v bits pulse hw : Word) (hS : Sound Q τ s) :
    Sound Q τ (State.chEffect old s who c off v bits pulse hw) := by
  unfold State.chEffect
  (repeat' split) <;> simp +contextual (maxDischargeDepth := 40) [hS]

@[simp] theorem State.indEffect_sound (old s : State) (region off : Nat) (hS : Sound Q τ s) :
    Sound Q τ (State.indEffect old s region off) := by
  simp +contextual (maxDischargeDepth := 40) [State.indEffect, hS]

@[simp] theorem State.land_sound (s : State) (who : Writer) (region : Nat) (ind : Bool) (off : Nat) (v bits hw : Word) (hS : Sound Q τ s) :
    Sound Q τ (State.land s who region ind off v bits hw) := by
  unfold State.land
  (repeat' split) <;> simp +contextual (maxDischargeDepth := 40) [hS]

@[simp] theorem State.landAll_sound (s : State) (who : Writer) (region : Nat) (ind : Bool) (off : Nat) (v : Word) (hS : Sound Q τ s) :
    Sound Q τ (State.landAll s who region ind off v) := by
  simp +contextual (maxDischargeDepth := 40) [State.landAll, hS]

@[simp] theorem State.parityFault_sound (s : State) (region : Nat) (ind : Bool) (off : Nat) (flip : Word) (hS : Sound Q τ s) :
    Sound Q τ (State.parityFault s region ind off flip) := by
  unfold State.parityFault
  (repeat' split) <;> simp +contextual (maxDischargeDepth := 40) [hS]

end Sys2Proof.Machine
end

