-- ==== Sys2Proof/Laws/SoundRegFrames.lean ====
section
/-! SUPPORT. The operations of Machine/RegFrames.lean keep a state sound. -/

namespace Sys2Proof.Machine

variable {Q : List Instr} {τ : Nat}

@[simp] theorem State.startInd_sound (s : State) (a : RegAcc) (region : Nat) (write : Bool) (data : Word) (hS : Sound Q τ s) :
    Sound Q τ (State.startInd s a region write data) := by
  simp +contextual (maxDischargeDepth := 40) [State.startInd, hS]

@[simp] theorem State.indError_sound (s : State) (region : Nat) (p : IndPair) (code : Nat) (hS : Sound Q τ s) :
    Sound Q τ (State.indError s region p code) := by
  simp +contextual (maxDischargeDepth := 40) [State.indError, hS]

@[simp] theorem State.completeInd_sound (s : State) (region : Nat) (f : IndFlight) (data : Word) (hS : Sound Q τ s) :
    Sound Q τ (State.completeInd s region f data) := by
  simp +contextual (maxDischargeDepth := 40) [State.completeInd, hS]

@[simp] theorem State.spadRefused_sound (s : State) (a : RegAcc) (c : Ch) (write : Bool) (o : Nat) (hS : Sound Q τ s) :
    Sound Q τ (State.spadRefused s a c write o) := by
  simp +contextual (maxDischargeDepth := 40) [State.spadRefused, hS]

@[simp] theorem State.frameWrite_sound (s : State) (a : RegAcc) (region : Nat) (area : Area) (data : Word) (others : List (List SpadReq)) (hS : Sound Q τ s) :
    Sound Q τ (State.frameWrite s a region area data others) := by
  unfold State.frameWrite
  (repeat' split) <;> simp +contextual (maxDischargeDepth := 40) [hS]

@[simp] theorem State.frameRead_sound (s : State) (a : RegAcc) (region : Nat) (area : Area) (others : List (List SpadReq)) (hS : Sound Q τ s) :
    Sound Q τ (State.frameRead s a region area others).2 := by
  unfold State.frameRead
  (repeat' split) <;> simp +contextual (maxDischargeDepth := 40) [hS]

@[simp] theorem State.regAct_sound (s : State) (a : RegAcc) (write : Bool) (addr : BitVec 32) (data : Word) (others : List (List SpadReq)) (hS : Sound Q τ s) :
    Sound Q τ (State.regAct s a write addr data others) := by
  have hW := hS.chan_wf
  unfold State.regAct
  repeat' first
    | (extract_lets +onlyGivenNames s; first
        | (refine (fun (hS : Sound Q τ s) => ?_) ?_; clear_value s; have hW := hS.chan_wf; rotate_left; dsimp -zeta only [s]; clear s)
        | (refine (fun (hS : Sound Q τ s.1) => ?_) ?_; clear_value s; have hW := hS.chan_wf; rotate_left; dsimp -zeta only [s]; clear s)
        | (refine (fun (hS : Sound Q τ s.2) => ?_) ?_; clear_value s; have hW := hS.chan_wf; rotate_left; dsimp -zeta only [s]; clear s)
        | (refine (fun (hS : Sound Q τ s.2.2) => ?_) ?_; clear_value s; have hW := hS.chan_wf; rotate_left; dsimp -zeta only [s]; clear s)
        | (refine (fun (hX : Chan.wf s) => ?_) ?_; clear_value s; rotate_left; dsimp -zeta only [s]; clear s)
        | (have hE : (s : _ → _) = s := rfl; clear hE; dsimp -zeta only [s]; clear s)
        | (have hE : (s : Events) = s := rfl; clear hE; dsimp -zeta only [s]; clear s)
        | clear_value s)
    | with_reducible refine soundOut_next.mpr ?_
    | (with_reducible refine sound_foldl' ?_ ?_; rotate_left; intro s a hS; have hW := hS.chan_wf; try beta_reduce)
    | (with_reducible refine sound_foldl_fst ?_ _ ?_; intro s a hS; have hW := hS.chan_wf; try beta_reduce)
    | (with_reducible refine sound_foldl_snd ?_ _ ?_; intro s a hS; have hW := hS.chan_wf; try beta_reduce)
    | split
  all_goals first
    | contradiction
    | simp +contextual (maxDischargeDepth := 40) [*]

@[simp] theorem State.setPortRanks_sound (s : State) (region : Nat) (l : List Nat) (hS : Sound Q τ s) :
    Sound Q τ (State.setPortRanks s region l) := by
  simp +contextual (maxDischargeDepth := 40) [State.setPortRanks, hS]

@[simp] theorem State.rivalAct_sound (s : State) (region : Nat) (r : RegRival) (hS : Sound Q τ s) :
    Sound Q τ (State.rivalAct s region r) := by
  unfold State.rivalAct
  (repeat' split) <;> simp +contextual (maxDischargeDepth := 40) [hS]

@[simp] theorem State.portRounds_sound (a : RegAcc) (write : Bool) (addr : BitVec 32) (data : Word) (others : List (List SpadReq)) :
    ∀ (n : Nat) (l : List (Option RegRival)) (s : State), Sound Q τ s → Sound Q τ (State.portRounds a write addr data others n l s)
  | 0, _, _, hS => hS
  | n + 1, l, s, hS => by
    unfold State.portRounds
    dsimp only
    split
    · exact hS
    · split <;> simp [hS]
    · split
      · exact hS
      · refine State.portRounds_sound a write addr data others n _ _ ?_
        (repeat' split) <;> simp [hS]

@[simp] theorem State.regServe_sound (s : State) (a : RegAcc) (write : Bool) (addr : BitVec 32) (data : Word) (others : List (List SpadReq)) (hS : Sound Q τ s) :
    Sound Q τ (State.regServe s a write addr data others) := by
  have hW := hS.chan_wf
  unfold State.regServe
  repeat' first
    | (extract_lets +onlyGivenNames s; first
        | (refine (fun (hS : Sound Q τ s) => ?_) ?_; clear_value s; have hW := hS.chan_wf; rotate_left; dsimp -zeta only [s]; clear s)
        | (refine (fun (hS : Sound Q τ s.1) => ?_) ?_; clear_value s; have hW := hS.chan_wf; rotate_left; dsimp -zeta only [s]; clear s)
        | (refine (fun (hS : Sound Q τ s.2) => ?_) ?_; clear_value s; have hW := hS.chan_wf; rotate_left; dsimp -zeta only [s]; clear s)
        | (refine (fun (hS : Sound Q τ s.2.2) => ?_) ?_; clear_value s; have hW := hS.chan_wf; rotate_left; dsimp -zeta only [s]; clear s)
        | (refine (fun (hX : Chan.wf s) => ?_) ?_; clear_value s; rotate_left; dsimp -zeta only [s]; clear s)
        | (have hE : (s : _ → _) = s := rfl; clear hE; dsimp -zeta only [s]; clear s)
        | (have hE : (s : Events) = s := rfl; clear hE; dsimp -zeta only [s]; clear s)
        | clear_value s)
    | with_reducible refine soundOut_next.mpr ?_
    | (with_reducible refine sound_foldl' ?_ ?_; rotate_left; intro s a hS; have hW := hS.chan_wf; try beta_reduce)
    | (with_reducible refine sound_foldl_fst ?_ _ ?_; intro s a hS; have hW := hS.chan_wf; try beta_reduce)
    | (with_reducible refine sound_foldl_snd ?_ _ ?_; intro s a hS; have hW := hS.chan_wf; try beta_reduce)
    | split
  all_goals first
    | contradiction
    | simp +contextual (maxDischargeDepth := 40) [*]

theorem execConfigParityMismatch_sound (region : Fin 5) (indirect : Bool) (off : BitVec 24) (flip : Word) (s : State) (hS : Sound Q τ s) :
    SoundOut Q τ (execConfigParityMismatch region indirect off flip s) := by
  simp +contextual (maxDischargeDepth := 40) [execConfigParityMismatch, hS]

end Sys2Proof.Machine
end

