-- ==== Sys2Proof/Laws/SoundRegRows.lean ====
section
/-! SUPPORT. The operations of Machine/RegRows.lean keep a state sound. -/

namespace Sys2Proof.Machine

variable {Q : List Instr} {τ : Nat}

@[simp] theorem State.runMbxWrite_sound (s : State) (hf : Hf) (c : Ch) (rtag : BitVec 16) (mbx : Fin 16) (offw : BitVec 6) (lenw : BitVec 7) (data : List Word) (hS : Sound Q τ s) :
    Sound Q τ (State.runMbxWrite s hf c rtag mbx offw lenw data) := by
  simp +contextual (maxDischargeDepth := 40) [State.runMbxWrite, hS]

@[simp] theorem State.runBulkWrite_sound (s : State) (hf : Hf) (c : Ch) (rtag : BitVec 16) (unitsM1 : BitVec 4) (off64 : BitVec 19) (data : List (BitVec 512)) (hS : Sound Q τ s) :
    Sound Q τ (State.runBulkWrite s hf c rtag unitsM1 off64 data) := by
  simp +contextual (maxDischargeDepth := 40) [State.runBulkWrite, hS]

@[simp] theorem State.runBulkRead_sound (s : State) (hf : Hf) (c : Ch) (rtag : BitVec 16) (unitsM1 : BitVec 4) (off64 : BitVec 19) (hS : Sound Q τ s) :
    Sound Q τ (State.runBulkRead s hf c rtag unitsM1 off64) := by
  simp +contextual (maxDischargeDepth := 40) [State.runBulkRead, hS]

@[simp] theorem State.runWriteDirect_sound (s : State) (hf : Hf) (c : Ch) (items : List (BitVec 256)) (hS : Sound Q τ s) :
    Sound Q τ (State.runWriteDirect s hf c items) := by
  simp +contextual (maxDischargeDepth := 40) [State.runWriteDirect, hS]

@[simp] theorem State.runVc2_sound (s : State) (f : Vc2) (hS : Sound Q τ s) : Sound Q τ (State.runVc2 s f) := by
  cases f <;> simp +contextual (maxDischargeDepth := 40) [State.runVc2, hS]

@[simp] theorem State.drainVc2_sound : ∀ (n : Nat) (s : State), Sound Q τ s → Sound Q τ (State.drainVc2 n s)
  | 0, _, hS => hS
  | n + 1, s, hS => by
    unfold State.drainVc2
    (repeat' split) <;> simp +contextual (maxDischargeDepth := 40) [hS, State.drainVc2_sound n]

@[simp] theorem State.serveVc2_sound (s : State) (hS : Sound Q τ s) :
    Sound Q τ (State.serveVc2 s) := by
  simp +contextual (maxDischargeDepth := 40) [State.serveVc2, hS]

@[simp] theorem State.vc2Frame_sound (s : State) (f : Vc2) (hS : Sound Q τ s) :
    Sound Q τ (State.vc2Frame s f) := by
  simp +contextual (maxDischargeDepth := 40) [State.vc2Frame, hS]

@[simp] theorem State.regFrame_sound (s : State) (a : RegAcc) (write : Bool) (addr : BitVec 32) (data : Word) (others : List (List SpadReq)) (hS : Sound Q τ s) :
    Sound Q τ (State.regFrame s a write addr data others) := by
  simp +contextual (maxDischargeDepth := 40) [State.regFrame, hS]

theorem execMbxWrite_sound (hf : Hf) (c : Ch) (rtag : BitVec 16) (mbx : Fin 16) (offw : BitVec 6) (lenw : BitVec 7) (data : List Word) (s : State) (hS : Sound Q τ s) :
    SoundOut Q τ (execMbxWrite hf c rtag mbx offw lenw data s) := by
  simp +contextual (maxDischargeDepth := 40) [execMbxWrite, hS]

theorem execBulkWrite_sound (hf : Hf) (c : Ch) (rtag : BitVec 16) (unitsM1 : BitVec 4) (off64 : BitVec 19) (data : List (BitVec 512)) (s : State) (hS : Sound Q τ s) :
    SoundOut Q τ (execBulkWrite hf c rtag unitsM1 off64 data s) := by
  simp +contextual (maxDischargeDepth := 40) [execBulkWrite, hS]

theorem execBulkRead_sound (hf : Hf) (c : Ch) (rtag : BitVec 16) (unitsM1 : BitVec 4) (off64 : BitVec 19) (s : State) (hS : Sound Q τ s) :
    SoundOut Q τ (execBulkRead hf c rtag unitsM1 off64 s) := by
  simp +contextual (maxDischargeDepth := 40) [execBulkRead, hS]

theorem execWriteDirect_sound (hf : Hf) (c : Ch) (items : List (BitVec 256)) (s : State) (hS : Sound Q τ s) :
    SoundOut Q τ (execWriteDirect hf c items s) := by
  simp +contextual (maxDischargeDepth := 40) [execWriteDirect, hS]

theorem execTimeOfDay_sound (hf : Hf) (seconds : BitVec 48) (s : State) (hS : Sound Q τ s) :
    SoundOut Q τ (execTimeOfDay hf seconds s) := by
  simp +contextual (maxDischargeDepth := 40) [execTimeOfDay, hS]

theorem execHostEgressCycle_sound (mem : Fec) (s : State) (hS : Sound Q τ s) :
    SoundOut Q τ (execHostEgressCycle mem s) := by
  simp +contextual (maxDischargeDepth := 40) [execHostEgressCycle, hS]

theorem execIndAccessDone_sound (region : Fin 5) (requester : Fin 9) (s : State) (hS : Sound Q τ s) :
    SoundOut Q τ (execIndAccessDone region requester s) := by
  have hW := hS.chan_wf
  unfold execIndAccessDone
  repeat' first
    | (extract_lets +onlyGivenNames s; first
        | (refine (fun (hS : Sound Q τ s) => ?_) ?_; clear_value s; have hW := hS.chan_wf; rotate_left; dsimp -zeta only [s]; clear s)
        | (refine (fun (hS : Sound Q τ s.1) => ?_) ?_; clear_value s; have hW := hS.chan_wf; rotate_left; dsimp -zeta only [s]; clear s)
        | (refine (fun (hS : Sound Q τ s.2) => ?_) ?_; clear_value s; have hW := hS.chan_wf; rotate_left; dsimp -zeta only [s]; clear s)
        | (refine (fun (hS : Sound Q τ s.2.2) => ?_) ?_; clear_value s; have hW := hS.chan_wf; rotate_left; dsimp -zeta only [s]; clear s)
        | (refine (fun (hX : Chan.wf s) => ?_) ?_; clear_value s; rotate_left; dsimp -zeta only [s]; clear s)
        | (have hE : (s : _ → _) = s := rfl; clear hE; dsimp -zeta only [s]; clear s)
        | (have hE : (s : Events) = s := rfl; clear hE; dsimp -zeta only [s]; clear s)
        | clear_value s)
    | with_reducible refine soundOut_next.mpr ?_
    | (with_reducible refine sound_foldl' ?_ ?_; rotate_left; intro s a hS; have hW := hS.chan_wf; try beta_reduce)
    | (with_reducible refine sound_foldl_fst ?_ _ ?_; intro s a hS; have hW := hS.chan_wf; try beta_reduce)
    | (with_reducible refine sound_foldl_snd ?_ _ ?_; intro s a hS; have hW := hS.chan_wf; try beta_reduce)
    | split
  all_goals first
    | contradiction
    | simp +contextual (maxDischargeDepth := 40) [*]

theorem execIndTimeout_sound (region : Fin 5) (requester : Fin 9) (s : State) (hS : Sound Q τ s) :
    SoundOut Q τ (execIndTimeout region requester s) := by
  have hW := hS.chan_wf
  unfold execIndTimeout
  repeat' first
    | (extract_lets +onlyGivenNames s; first
        | (refine (fun (hS : Sound Q τ s) => ?_) ?_; clear_value s; have hW := hS.chan_wf; rotate_left; dsimp -zeta only [s]; clear s)
        | (refine (fun (hS : Sound Q τ s.1) => ?_) ?_; clear_value s; have hW := hS.chan_wf; rotate_left; dsimp -zeta only [s]; clear s)
        | (refine (fun (hS : Sound Q τ s.2) => ?_) ?_; clear_value s; have hW := hS.chan_wf; rotate_left; dsimp -zeta only [s]; clear s)
        | (refine (fun (hS : Sound Q τ s.2.2) => ?_) ?_; clear_value s; have hW := hS.chan_wf; rotate_left; dsimp -zeta only [s]; clear s)
        | (refine (fun (hX : Chan.wf s) => ?_) ?_; clear_value s; rotate_left; dsimp -zeta only [s]; clear s)
        | (have hE : (s : _ → _) = s := rfl; clear hE; dsimp -zeta only [s]; clear s)
        | (have hE : (s : Events) = s := rfl; clear hE; dsimp -zeta only [s]; clear s)
        | clear_value s)
    | with_reducible refine soundOut_next.mpr ?_
    | (with_reducible refine sound_foldl' ?_ ?_; rotate_left; intro s a hS; have hW := hS.chan_wf; try beta_reduce)
    | (with_reducible refine sound_foldl_fst ?_ _ ?_; intro s a hS; have hW := hS.chan_wf; try beta_reduce)
    | (with_reducible refine sound_foldl_snd ?_ _ ?_; intro s a hS; have hW := hS.chan_wf; try beta_reduce)
    | split
  all_goals first
    | contradiction
    | simp +contextual (maxDischargeDepth := 40) [*]

theorem execRegisterWrite_sound (a : RegAcc) (addr : BitVec 32) (data : Word) (s : State) (hS : Sound Q τ s) :
    SoundOut Q τ (execRegisterWrite a addr data s) := by
  simp +contextual (maxDischargeDepth := 40) [execRegisterWrite, hS]

theorem execAliasWrite_sound (a : RegAcc) (addr : BitVec 32) (data : Word) (s : State) (hS : Sound Q τ s) :
    SoundOut Q τ (execAliasWrite a addr data s) := by
  simp +contextual (maxDischargeDepth := 40) [execAliasWrite, hS]

theorem execIndDataRead_sound (region : Fin 5) (a : RegAcc) (s : State) (hS : Sound Q τ s) :
    SoundOut Q τ (execIndDataRead region a s) := by
  simp +contextual (maxDischargeDepth := 40) [execIndDataRead, hS]

theorem execIndDataWrite_sound (region : Fin 5) (a : RegAcc) (data : Word) (s : State) (hS : Sound Q τ s) :
    SoundOut Q τ (execIndDataWrite region a data s) := by
  simp +contextual (maxDischargeDepth := 40) [execIndDataWrite, hS]

theorem execSpadWindowAccess_sound (a : RegAcc) (addr : BitVec 32) (write : Bool) (data : SpadMeet) (s : State) (hS : Sound Q τ s) :
    SoundOut Q τ (execSpadWindowAccess a addr write data s) := by
  simp +contextual (maxDischargeDepth := 40) [execSpadWindowAccess, hS]

@[simp] theorem State.writeFrame_sound (s : State) (a : RegAcc) (region off : Nat) (v : Word) (hS : Sound Q τ s) :
    Sound Q τ (State.writeFrame s a region off v) := by
  simp +contextual (maxDischargeDepth := 40) [State.writeFrame, hS]

@[simp] theorem State.writeField_sound (s : State) (a : RegAcc) (region off lo n v : Nat) (hS : Sound Q τ s) :
    Sound Q τ (State.writeField s a region off lo n v) := by
  simp +contextual (maxDischargeDepth := 40) [State.writeField, hS]

theorem execChStateReqOn_sound (c : Ch) (a : RegAcc) (s : State) (hS : Sound Q τ s) :
    SoundOut Q τ (execChStateReqOn c a s) := by
  simp +contextual (maxDischargeDepth := 40) [execChStateReqOn, hS]

theorem execChStateReqIdle_sound (c : Ch) (a : RegAcc) (s : State) (hS : Sound Q τ s) :
    SoundOut Q τ (execChStateReqIdle c a s) := by
  simp +contextual (maxDischargeDepth := 40) [execChStateReqIdle, hS]

theorem execChStateReqOff_sound (c : Ch) (a : RegAcc) (s : State) (hS : Sound Q τ s) :
    SoundOut Q τ (execChStateReqOff c a s) := by
  simp +contextual (maxDischargeDepth := 40) [execChStateReqOff, hS]

theorem execChStateReqCancel_sound (c : Ch) (a : RegAcc) (s : State) (hS : Sound Q τ s) :
    SoundOut Q τ (execChStateReqCancel c a s) := by
  simp +contextual (maxDischargeDepth := 40) [execChStateReqCancel, hS]

theorem execChAdmitEnWrite_sound (c : Ch) (a : RegAcc) (en : Bool) (s : State) (hS : Sound Q τ s) :
    SoundOut Q τ (execChAdmitEnWrite c a en s) := by
  simp +contextual (maxDischargeDepth := 40) [execChAdmitEnWrite, hS]

theorem execProfileEnable_sound (c : Ch) (p : Fin 64) (a : RegAcc) (s : State) (hS : Sound Q τ s) :
    SoundOut Q τ (execProfileEnable c p a s) := by
  simp +contextual (maxDischargeDepth := 40) [execProfileEnable, hS]

theorem execProfileDisable_sound (c : Ch) (p : Fin 64) (a : RegAcc) (s : State) (hS : Sound Q τ s) :
    SoundOut Q τ (execProfileDisable c p a s) := by
  simp +contextual (maxDischargeDepth := 40) [execProfileDisable, hS]

theorem execFlowTableEnable_sound (c : Ch) (t : Fin 16) (a : RegAcc) (s : State) (hS : Sound Q τ s) :
    SoundOut Q τ (execFlowTableEnable c t a s) := by
  simp +contextual (maxDischargeDepth := 40) [execFlowTableEnable, hS]

theorem execEpochCmdStage_sound (c : Ch) (a : RegAcc) (s : State) (hS : Sound Q τ s) :
    SoundOut Q τ (execEpochCmdStage c a s) := by
  simp +contextual (maxDischargeDepth := 40) [execEpochCmdStage, hS]

theorem execEpochCmdCommit_sound (c : Ch) (a : RegAcc) (s : State) (hS : Sound Q τ s) :
    SoundOut Q τ (execEpochCmdCommit c a s) := by
  simp +contextual (maxDischargeDepth := 40) [execEpochCmdCommit, hS]

theorem execEpochCmdArm_sound (c : Ch) (a : RegAcc) (s : State) (hS : Sound Q τ s) :
    SoundOut Q τ (execEpochCmdArm c a s) := by
  simp +contextual (maxDischargeDepth := 40) [execEpochCmdArm, hS]

theorem execEpochCmdDisarm_sound (c : Ch) (a : RegAcc) (s : State) (hS : Sound Q τ s) :
    SoundOut Q τ (execEpochCmdDisarm c a s) := by
  simp +contextual (maxDischargeDepth := 40) [execEpochCmdDisarm, hS]

theorem execEpochCmdEndSlack_sound (c : Ch) (a : RegAcc) (s : State) (hS : Sound Q τ s) :
    SoundOut Q τ (execEpochCmdEndSlack c a s) := by
  simp +contextual (maxDischargeDepth := 40) [execEpochCmdEndSlack, hS]

theorem execEpochCmdFree_sound (c : Ch) (a : RegAcc) (s : State) (hS : Sound Q τ s) :
    SoundOut Q τ (execEpochCmdFree c a s) := by
  simp +contextual (maxDischargeDepth := 40) [execEpochCmdFree, hS]

theorem execTimeCmdSet_sound (a : RegAcc) (s : State) (hS : Sound Q τ s) :
    SoundOut Q τ (execTimeCmdSet a s) := by
  simp +contextual (maxDischargeDepth := 40) [execTimeCmdSet, hS]

theorem execTimeCmdInvalidate_sound (a : RegAcc) (s : State) (hS : Sound Q τ s) :
    SoundOut Q τ (execTimeCmdInvalidate a s) := by
  simp +contextual (maxDischargeDepth := 40) [execTimeCmdInvalidate, hS]

theorem execTimeSnapshotRead_sound (a : RegAcc) (s : State) (hS : Sound Q τ s) :
    SoundOut Q τ (execTimeSnapshotRead a s) := by
  simp +contextual (maxDischargeDepth := 40) [execTimeSnapshotRead, hS]

theorem execCascEnable_sound (a : RegAcc) (en : Bool) (s : State) (hS : Sound Q τ s) :
    SoundOut Q τ (execCascEnable a en s) := by
  simp +contextual (maxDischargeDepth := 40) [execCascEnable, hS]

theorem execCascBypass_sound (a : RegAcc) (on : Bool) (s : State) (hS : Sound Q τ s) :
    SoundOut Q τ (execCascBypass a on s) := by
  simp +contextual (maxDischargeDepth := 40) [execCascBypass, hS]

theorem execMbxDoorbell_sound (c : Ch) (a : RegAcc) (bells : BitVec 16) (s : State) (hS : Sound Q τ s) :
    SoundOut Q τ (execMbxDoorbell c a bells s) := by
  simp +contextual (maxDischargeDepth := 40) [execMbxDoorbell, hS]

theorem execMgrRestart_sound (c : Ch) (a : RegAcc) (s : State) (hS : Sound Q τ s) :
    SoundOut Q τ (execMgrRestart c a s) := by
  simp +contextual (maxDischargeDepth := 40) [execMgrRestart, hS]

theorem execCalCtrlSwap_sound (c : Ch) (a : RegAcc) (s : State) (hS : Sound Q τ s) :
    SoundOut Q τ (execCalCtrlSwap c a s) := by
  simp +contextual (maxDischargeDepth := 40) [execCalCtrlSwap, hS]

theorem execLinkEnable_sound (a : RegAcc) (s : State) (hS : Sound Q τ s) :
    SoundOut Q τ (execLinkEnable a s) := by
  simp +contextual (maxDischargeDepth := 40) [execLinkEnable, hS]

theorem execLinkDisable_sound (a : RegAcc) (s : State) (hS : Sound Q τ s) :
    SoundOut Q τ (execLinkDisable a s) := by
  simp +contextual (maxDischargeDepth := 40) [execLinkDisable, hS]

theorem execLinkRetrain_sound (a : RegAcc) (s : State) (hS : Sound Q τ s) :
    SoundOut Q τ (execLinkRetrain a s) := by
  simp +contextual (maxDischargeDepth := 40) [execLinkRetrain, hS]

theorem execCtxHwmClr_sound (c : Ch) (a : RegAcc) (s : State) (hS : Sound Q τ s) :
    SoundOut Q τ (execCtxHwmClr c a s) := by
  simp +contextual (maxDischargeDepth := 40) [execCtxHwmClr, hS]

theorem execEvtClr_sound (region : Fin 5) (idx : Fin 15) (bits : Word) (a : RegAcc) (s : State) (hS : Sound Q τ s) :
    SoundOut Q τ (execEvtClr region idx bits a s) := by
  simp +contextual (maxDischargeDepth := 40) [execEvtClr, hS]

theorem execSpadHandoverRequest_sound (c : Ch) (bank : Fin 16) (owner : BitVec 2) (manager : Bool) (a : RegAcc) (s : State) (hS : Sound Q τ s) :
    SoundOut Q τ (execSpadHandoverRequest c bank owner manager a s) := by
  simp +contextual (maxDischargeDepth := 40) [execSpadHandoverRequest, hS]

theorem execMarchStart_sound (c : Ch) (bank : Fin 16) (destructive : Bool) (pattern : BitVec 2) (a : RegAcc) (s : State) (hS : Sound Q τ s) :
    SoundOut Q τ (execMarchStart c bank destructive pattern a s) := by
  simp +contextual (maxDischargeDepth := 40) [execMarchStart, hS]

theorem execModReset_sound (a : RegAcc) (s : State) (hS : Sound Q τ s) :
    SoundOut Q τ (execModReset a s) := by
  simp +contextual (maxDischargeDepth := 40) [execModReset, hS]

theorem execBootUpdateStart_sound (a : RegAcc) (s : State) (hS : Sound Q τ s) :
    SoundOut Q τ (execBootUpdateStart a s) := by
  simp +contextual (maxDischargeDepth := 40) [execBootUpdateStart, hS]

end Sys2Proof.Machine
end

