-- ==== Sys2Proof/Laws/SoundCmd.lean ====
section
/-! SUPPORT. The operations of Machine/Cmd.lean keep a state sound. -/

namespace Sys2Proof.Machine

variable {Q : List Instr} {τ : Nat}

@[simp] theorem State.gate_sound (s : State) (c : Ch) (x : Nat) (q : Checks) (k : State) (hS : Sound Q τ k) (hs : Sound Q τ s) :
    Sound Q τ (State.gate s c x q k) := by
  have hW := hS.chan_wf
  unfold State.gate
  (repeat' split) <;> simp +contextual (maxDischargeDepth := 40) [*]

@[simp] theorem State.command_sound (s : State) (c : Ch) (x : Fin 8) (code : Nat) (body : Exec → State → State) (hS : Sound Q τ s) (hb : ∀ e s, Sound Q τ s → Sound Q τ (body e s)) :
    Sound Q τ (State.command s c x code body) := by
  unfold State.command
  repeat' first
    | (extract_lets +onlyGivenNames s; clear_value s)
    | split
  all_goals simp +contextual (maxDischargeDepth := 40) [*]

@[simp] theorem State.setPhase_sound (s : State) (c : Ch) (x : Nat) (phase : Nat) (nums : List Nat) (hS : Sound Q τ s) :
    Sound Q τ (State.setPhase s c x phase nums) := by
  unfold State.setPhase
  (repeat' split) <;> simp +contextual (maxDischargeDepth := 40) [hS]

@[simp] theorem State.askLocks_sound (s : State) (c : Ch) (x : Nat) (keys : List Nat) (hS : Sound Q τ s) :
    Sound Q τ (State.askLocks s c x keys) := by
  unfold State.askLocks
  (repeat' split) <;> simp +contextual (maxDischargeDepth := 40) [hS]

@[simp] theorem State.lockAll_sound (s : State) (c : Ch) (x : Nat) (keys : List Nat) (k : State) (hS : Sound Q τ k) (hs : Sound Q τ s) :
    Sound Q τ (State.lockAll s c x keys k) := by
  have hW := hS.chan_wf
  unfold State.lockAll
  (repeat' split) <;> simp +contextual (maxDischargeDepth := 40) [*]

@[simp] theorem State.lockTurn_sound (s : State) (c : Ch) (x : Nat) (keys : List Nat) (hS : Sound Q τ s) :
    SoundOpt Q τ (State.lockTurn s c x keys) := by
  simp +contextual (maxDischargeDepth := 40) [State.lockTurn, hS]

theorem State.lockTurn_some {s s' : State} {c : Ch} {x : Nat} {keys : List Nat} (h : s.lockTurn c x keys = some s')
    (hS : Sound Q τ s) : Sound Q τ s' := State.lockTurn_sound s c x keys hS s' h

@[simp] theorem State.journalBy_sound (s : State) (c : Ch) (x : Nat) (its : List (BitVec 256)) (hS : Sound Q τ s) :
    Sound Q τ (State.journalBy s c x its) := by
  unfold State.journalBy
  repeat' first
    | (extract_lets +onlyGivenNames s; (refine (fun (hS : Sound Q τ s) => ?_) ?_; clear_value s; have hW := hS.chan_wf; rotate_left; dsimp -zeta only [s]; clear s))
    | split
  all_goals simp +contextual (maxDischargeDepth := 40) [*]

@[simp] theorem State.applyReg_sound (s : State) (c : Ch) (it : BitVec 256) (hS : Sound Q τ s) :
    Sound Q τ (State.applyReg s c it) := by
  unfold State.applyReg
  repeat' first
    | (extract_lets +onlyGivenNames s; clear_value s)
    | split
  all_goals simp +contextual (maxDischargeDepth := 40) [*]

@[simp] theorem State.applyEpoch_sound (s : State) (c : Ch) (it : BitVec 256) (hS : Sound Q τ s) :
    Sound Q τ (State.applyEpoch s c it) := by
  simp +contextual (maxDischargeDepth := 40) [State.applyEpoch, hS]

@[simp] theorem State.drainAux_sound (c : Ch) : ∀ (n : Nat) (s : State), Sound Q τ s → Sound Q τ (State.drainAux c n s)
  | 0, _, hS => hS
  | n + 1, s, hS => by
    unfold State.drainAux
    split
    · exact hS
    · split
      · exact hS
      · exact State.drainAux_sound c n _ (by simp +contextual (maxDischargeDepth := 40) [hS])

@[simp] theorem State.drain_sound (s : State) (c : Ch) (hS : Sound Q τ s) :
    Sound Q τ (State.drain s c) := by
  simp +contextual (maxDischargeDepth := 40) [State.drain, hS]

@[simp] theorem State.queueItems_sound (s : State) (c : Ch) (owner : Nat) (its : List (BitVec 256)) (hS : Sound Q τ s) :
    Sound Q τ (State.queueItems s c owner its) := by
  simp +contextual (maxDischargeDepth := 40) [State.queueItems, hS]

@[simp] theorem State.enqueue_sound (s : State) (c : Ch) (x : Nat) (its : List (BitVec 256)) (hS : Sound Q τ s) :
    Sound Q τ (State.enqueue s c x its) := by
  simp +contextual (maxDischargeDepth := 40) [State.enqueue, hS]

@[simp] theorem State.oluekReg_sound (s : State) (c : Ch) (x : Nat) (ind : Bool) (off : Nat) (v : Word) (hS : Sound Q τ s) :
    Sound Q τ (State.oluekReg s c x ind off v) := by
  simp +contextual (maxDischargeDepth := 40) [State.oluekReg, hS]

@[simp] theorem State.setTable_sound (s : State) (c : Ch) (t : Nat) (r : TableRec) (hS : Sound Q τ s) :
    Sound Q τ (State.setTable s c t r) := by
  simp +contextual (maxDischargeDepth := 40) [State.setTable, hS]

@[simp] theorem State.track_sound (s : State) (c : Ch) (tr : Track) (keys : List Nat) (hS : Sound Q τ s) :
    Sound Q τ (State.track s c tr keys) := by
  simp +contextual (maxDischargeDepth := 40) [State.track, hS]

@[simp] theorem State.untrack_sound (s : State) (c : Ch) (gone : Nat → Bool) (hS : Sound Q τ s) :
    Sound Q τ (State.untrack s c gone) := by
  simp +contextual (maxDischargeDepth := 40) [State.untrack, hS]

@[simp] theorem State.dropFrom_sound (s : State) (c : Ch) (x t : Nat) (r : TableRec) (tr : Track) (slots : List Nat) (key : Nat) (hS : Sound Q τ s) :
    Sound Q τ (State.dropFrom s c x t r tr slots key) := by
  simp +contextual (maxDischargeDepth := 40) [State.dropFrom, hS]

end Sys2Proof.Machine
end

