-- ==== Sys2Proof/Laws/SoundCmdRules.lean ====
section
/-! SUPPORT. The operations of Machine/CmdRules.lean keep a state sound. -/

namespace Sys2Proof.Machine

variable {Q : List Instr} {τ : Nat}

theorem State.insertOne_wait {s s' : State} {c : Ch} {x t target : Nat} {e : Ent} (hS : Sound Q τ s)
    (h : s.insertOne c x t target e = .wait s') : Sound Q τ s' := by
  unfold State.insertOne at h
  repeat' first
    | (extract_lets at h)
    | split at h
  all_goals first
    | cases h
    | skip
  exact State.lockTurn_sound _ _ _ _ hS _ (by assumption)

theorem State.insertOne_done {s s' : State} {c : Ch} {x t target i : Nat} {e : Ent} (hS : Sound Q τ s)
    (h : s.insertOne c x t target e = .done s' i) : Sound Q τ s' := by
  unfold State.insertOne at h
  dsimp only at h
  repeat' split at h
  all_goals first
    | cases h
    | skip
  simp +contextual (maxDischargeDepth := 40) [hS]

theorem execRuleInsert_sound (c : Ch) (x : Fin 8) (s : State) (hS : Sound Q τ s) :
    SoundOut Q τ (execRuleInsert c x s) := by
  unfold execRuleInsert
  repeat' first
    | with_reducible refine soundOut_next.mpr ?_
    | split
    | (with_reducible refine State.command_sound _ _ _ _ _ ?_ ?_; rotate_left; intro e s hS; have hW := hS.chan_wf; try beta_reduce)
    | with_reducible refine State.gate_sound _ _ _ _ _ ?_ ?_
  all_goals first
    | simp +contextual (maxDischargeDepth := 40) [*]
    | exact State.insertOne_wait (by assumption) (by assumption)
    | exact State.finish_sound _ _ _ _ _ _ (State.insertOne_done (by assumption) (by assumption))

theorem execRuleDelete_sound (c : Ch) (x : Fin 8) (s : State) (hS : Sound Q τ s) :
    SoundOut Q τ (execRuleDelete c x s) := by
  unfold execRuleDelete
  repeat' first
    | (extract_lets +onlyGivenNames s; clear_value s)
    | with_reducible refine soundOut_next.mpr ?_
    | split
    | (with_reducible refine State.command_sound _ _ _ _ _ ?_ ?_; rotate_left; intro e s hS; have hW := hS.chan_wf; try beta_reduce)
  all_goals simp +contextual (maxDischargeDepth := 40) [*]

theorem execRuleModifyAd_sound (c : Ch) (x : Fin 8) (s : State) (hS : Sound Q τ s) :
    SoundOut Q τ (execRuleModifyAd c x s) := by
  unfold execRuleModifyAd
  repeat' first
    | (extract_lets +onlyGivenNames s; first
        | (refine (fun (hS : Sound Q τ s) => ?_) ?_; clear_value s; have hW := hS.chan_wf; rotate_left; dsimp -zeta only [s]; clear s)
        | clear_value s)
    | with_reducible refine soundOut_next.mpr ?_
    | split
    | (with_reducible refine State.command_sound _ _ _ _ _ ?_ ?_; rotate_left; intro e s hS; have hW := hS.chan_wf; try beta_reduce)
  all_goals simp +contextual (maxDischargeDepth := 40) [*]

theorem execRuleRead_sound (c : Ch) (x : Fin 8) (s : State) (hS : Sound Q τ s) :
    SoundOut Q τ (execRuleRead c x s) := by
  simp +contextual (maxDischargeDepth := 40) [execRuleRead, hS]

@[simp] theorem State.bulkRun_sound (c : Ch) (x t target size n : Nat) (data : List Byte) : ∀ (k done last : Nat) (s : State),
    Sound Q τ s → Sound Q τ (State.bulkRun c x t target size n data k done last s)
  | 0, _, _, _, hS => by simp [State.bulkRun, hS]
  | k + 1, done, last, s, hS => by
    unfold State.bulkRun
    dsimp only
    split
    · simp +contextual (maxDischargeDepth := 40) [hS]
    · split
      · next s' h => have h' := State.insertOne_wait hS h; simp +contextual (maxDischargeDepth := 40) [h']
      · simp +contextual (maxDischargeDepth := 40) [hS]
      · next s' i h => exact State.bulkRun_sound c x t target size n data k _ _ s' (State.insertOne_done hS h)

theorem execRuleBulkInsert_sound (c : Ch) (x : Fin 8) (s : State) (hS : Sound Q τ s) :
    SoundOut Q τ (execRuleBulkInsert c x s) := by
  unfold execRuleBulkInsert
  repeat' first
    | (extract_lets +onlyGivenNames s; first
        | (have hE : (s : _ → _) = s := rfl; clear hE; dsimp -zeta only [s]; clear s)
        | clear_value s)
    | with_reducible refine soundOut_next.mpr ?_
    | split
    | (with_reducible refine State.command_sound _ _ _ _ _ ?_ ?_; rotate_left; intro e s hS; have hW := hS.chan_wf; try beta_reduce)
  all_goals simp +contextual (maxDischargeDepth := 40) [*]

end Sys2Proof.Machine
end

