-- ==== Sys2Proof/Laws/SoundCmdTables.lean ====
section
/-! SUPPORT. The operations of Machine/CmdTables.lean keep a state sound. -/

namespace Sys2Proof.Machine

variable {Q : List Instr} {τ : Nat}

@[simp] theorem State.takeBlocks_sound (s : State) (c : Ch) (x t width : Nat) (blks : List Nat) (hS : Sound Q τ s) :
    Sound Q τ (State.takeBlocks s c x t width blks) := by
  simp +contextual (maxDischargeDepth := 40) [State.takeBlocks, hS]

@[simp] theorem State.freeBlks_sound (s : State) (c : Ch) (x t : Nat) (blks : List Nat) (hS : Sound Q τ s) :
    Sound Q τ (State.freeBlks s c x t blks) := by
  simp +contextual (maxDischargeDepth := 40) [State.freeBlks, hS]

theorem execTableCreate_sound (c : Ch) (x : Fin 8) (s : State) (hS : Sound Q τ s) :
    SoundOut Q τ (execTableCreate c x s) := by
  simp +contextual (maxDischargeDepth := 40) [execTableCreate, hS]

theorem execTableDestroy_sound (c : Ch) (x : Fin 8) (s : State) (hS : Sound Q τ s) :
    SoundOut Q τ (execTableDestroy c x s) := by
  simp +contextual (maxDischargeDepth := 40) [execTableDestroy, hS]

theorem execTableResize_sound (c : Ch) (x : Fin 8) (s : State) (hS : Sound Q τ s) :
    SoundOut Q τ (execTableResize c x s) := by
  simp +contextual (maxDischargeDepth := 40) [execTableResize, hS]

@[simp] theorem State.moveEnt_sound (s : State) (c : Ch) (x t width src dst : Nat) (hS : Sound Q τ s) :
    Sound Q τ (State.moveEnt s c x t width src dst) := by
  simp +contextual (maxDischargeDepth := 40) [State.moveEnt, hS]

@[simp] theorem State.defragRun_sound (c : Ch) (x t goal : Nat) : ∀ (n done : Nat) (s : State), Sound Q τ s →
    Sound Q τ (State.defragRun c x t goal n done s)
  | 0, _, _, hS => by simp [State.defragRun, hS]
  | n + 1, done, s, hS => by
    unfold State.defragRun
    dsimp only
    split
    · simp +contextual (maxDischargeDepth := 40) [hS]
    · split
      · simp +contextual (maxDischargeDepth := 40) [hS]
      · split
        · next s' h => have h' := State.lockTurn_sound _ _ _ _ hS _ h; simp +contextual (maxDischargeDepth := 40) [h']
        · exact State.defragRun_sound c x t goal n _ _ (by simp +contextual (maxDischargeDepth := 40) [hS])
      · split
        · simp +contextual (maxDischargeDepth := 40) [hS]
        · split
          · next s' h => have h' := State.lockTurn_sound _ _ _ _ hS _ h; simp +contextual (maxDischargeDepth := 40) [h']
          · exact State.defragRun_sound c x t goal n _ _ (by simp +contextual (maxDischargeDepth := 40) [hS])

theorem execDefrag_sound (c : Ch) (x : Fin 8) (s : State) (hS : Sound Q τ s) :
    SoundOut Q τ (execDefrag c x s) := by
  simp +contextual (maxDischargeDepth := 40) [execDefrag, hS]

end Sys2Proof.Machine
end

