-- ==== Sys2Proof/Laws/SoundCmdEpoch.lean ====
section
/-! SUPPORT. The operations of Machine/CmdEpoch.lean keep a state sound. -/

namespace Sys2Proof.Machine

variable {Q : List Instr} {τ : Nat}

@[simp] theorem State.settle_sound (s : State) (c : Ch) (owner key : Nat) (hS : Sound Q τ s) :
    Sound Q τ (State.settle s c owner key) := by
  simp +contextual (maxDischargeDepth := 40) [State.settle, hS]

@[simp] theorem State.sweepEntry_sound (s : State) (c : Ch) (owner key : Nat) (hS : Sound Q τ s) :
    Sound Q τ (State.sweepEntry s c owner key) := by
  simp +contextual (maxDischargeDepth := 40) [State.sweepEntry, hS]

@[simp] theorem State.endSweep_sound (s : State) (c : Ch) (h : Nat) (hS : Sound Q τ s) :
    Sound Q τ (State.endSweep s c h) := by
  simp +contextual (maxDischargeDepth := 40) [State.endSweep, hS]

@[simp] theorem State.sweepRun_sound (c : Ch) (h : Nat) : ∀ (n : Nat) (s : State), Sound Q τ s → Sound Q τ (State.sweepRun c h n s)
  | 0, _, hS => hS
  | n + 1, s, hS => by
    unfold State.sweepRun
    dsimp only
    split
    · exact hS
    · split
      · exact hS
      · split
        · split <;> simp [hS]
        · split
          · exact State.lockTurn_some (Q := Q) (τ := τ) (by assumption) hS
          · refine State.sweepRun_sound c h n _ ?_
            simp +contextual (maxDischargeDepth := 40) [hS]

theorem execRetireSweep_sound (c : Ch) (s : State) (hS : Sound Q τ s) :
    SoundOut Q τ (execRetireSweep c s) := by
  have hW := hS.chan_wf
  unfold execRetireSweep
  repeat' first
    | (extract_lets +onlyGivenNames s; first
        | (refine (fun (hS : Sound Q τ s) => ?_) ?_; clear_value s; have hW := hS.chan_wf; rotate_left; dsimp -zeta only [s]; clear s)
        | (refine (fun (hS : Sound Q τ s.1) => ?_) ?_; clear_value s; have hW := hS.chan_wf; rotate_left; dsimp -zeta only [s]; clear s)
        | (refine (fun (hS : Sound Q τ s.2) => ?_) ?_; clear_value s; have hW := hS.chan_wf; rotate_left; dsimp -zeta only [s]; clear s)
        | (refine (fun (hS : Sound Q τ s.2.2) => ?_) ?_; clear_value s; have hW := hS.chan_wf; rotate_left; dsimp -zeta only [s]; clear s)
        | (refine (fun (hX : Chan.wf s) => ?_) ?_; clear_value s; rotate_left; dsimp -zeta only [s]; clear s)
        | (have hE : (s : _ → _) = s := rfl; clear hE; dsimp -zeta only [s]; clear s)
        | (have hE : (s : Events) = s := rfl; clear hE; dsimp -zeta only [s]; clear s)
        | clear_value s)
    | with_reducible refine soundOut_next.mpr ?_
    | (with_reducible refine sound_foldl' ?_ ?_; rotate_left; intro s a hS; have hW := hS.chan_wf; try beta_reduce)
    | (with_reducible refine sound_foldl_fst ?_ _ ?_; intro s a hS; have hW := hS.chan_wf; try beta_reduce)
    | (with_reducible refine sound_foldl_snd ?_ _ ?_; intro s a hS; have hW := hS.chan_wf; try beta_reduce)
    | split
    | (with_reducible refine State.command_sound _ _ _ _ _ ?_ ?_; rotate_left; intro e s hS; have hW := hS.chan_wf; try beta_reduce)
    | with_reducible refine State.gate_sound _ _ _ _ _ ?_ ?_
    | with_reducible refine State.lockAll_sound _ _ _ _ _ ?_ ?_
  all_goals first
    | contradiction
    | simp +contextual (maxDischargeDepth := 40) [*]
    | exact State.lockTurn_some (Q := Q) (τ := τ) (by assumption) (by simp +contextual (maxDischargeDepth := 40) [*])
    | exact State.insertOne_wait (by assumption) (by assumption)
    | exact State.finish_sound _ _ _ _ _ _ (State.insertOne_done (by assumption) (by assumption))
    | exact State.loadRun_inl (Q := Q) (τ := τ) (by assumption) (by simp +contextual (maxDischargeDepth := 40) [*])
    | (have hR := State.loadRun_inr (Q := Q) (τ := τ) (by assumption) (by simp +contextual (maxDischargeDepth := 40) [*]); simp +contextual (maxDischargeDepth := 40) [hR, *])

theorem execEpochPrepare_sound (c : Ch) (x : Fin 8) (s : State) (hS : Sound Q τ s) :
    SoundOut Q τ (execEpochPrepare c x s) := by
  simp +contextual (maxDischargeDepth := 40) [execEpochPrepare, hS]

@[simp] theorem State.writeSlack_sound (s : State) (c : Ch) (x us : Nat) (hS : Sound Q τ s) :
    Sound Q τ (State.writeSlack s c x us) := by
  simp +contextual (maxDischargeDepth := 40) [State.writeSlack, hS]

@[simp] theorem State.writeSched_sound (s : State) (c : Ch) (sec ns : Nat) (hS : Sound Q τ s) :
    Sound Q τ (State.writeSched s c sec ns) := by
  simp +contextual (maxDischargeDepth := 40) [State.writeSched, hS]

theorem execEpochCommit_sound (c : Ch) (x : Fin 8) (s : State) (hS : Sound Q τ s) :
    SoundOut Q τ (execEpochCommit c x s) := by
  simp +contextual (maxDischargeDepth := 40) [execEpochCommit, hS]

@[simp] theorem State.abortRun_sound (c : Ch) (x : Nat) : ∀ (n done : Nat) (s : State), Sound Q τ s →
    Sound Q τ (State.abortRun c x n done s)
  | 0, _, _, hS => by simp [State.abortRun, hS]
  | n + 1, done, s, hS => by
    unfold State.abortRun
    dsimp only
    split
    · split
      · simp +contextual (maxDischargeDepth := 40) [hS]
      · simp +contextual (maxDischargeDepth := 40) [hS]
    · split
      · next s' h => have h' := State.lockTurn_sound _ _ _ _ hS _ h; simp +contextual (maxDischargeDepth := 40) [h']
      · exact State.abortRun_sound c x n _ _ (by simp +contextual (maxDischargeDepth := 40) [hS])

theorem execEpochAbort_sound (c : Ch) (x : Fin 8) (s : State) (hS : Sound Q τ s) :
    SoundOut Q τ (execEpochAbort c x s) := by
  simp +contextual (maxDischargeDepth := 40) [execEpochAbort, hS]

theorem execEpochRetire_sound (c : Ch) (x : Fin 8) (s : State) (hS : Sound Q τ s) :
    SoundOut Q τ (execEpochRetire c x s) := by
  simp +contextual (maxDischargeDepth := 40) [execEpochRetire, hS]

/-- A run that stops or goes on with a sound state. -/
def SoundSum (q : List Instr) (τ : Nat) : Sum State State → Prop
  | .inl s => Sound q τ s
  | .inr s => Sound q τ s

theorem State.loadRun_sound (c : Ch) (x : Nat) : ∀ (l : List (BitVec 256)) (done : Nat) (s : State), Sound Q τ s →
    SoundSum Q τ (State.loadRun c x l done s)
  | [], _, _, hS => hS
  | it :: t, done, s, hS => by
    unfold State.loadRun
    dsimp only
    split
    · next s' h =>
      have h' := State.lockTurn_sound _ _ _ _ hS _ h
      show Sound Q τ _
      simp +contextual (maxDischargeDepth := 40) [h']
    · exact State.loadRun_sound c x t _ _ (by simp +contextual (maxDischargeDepth := 40) [hS])

theorem State.loadRun_inl {c : Ch} {x : Nat} {l : List (BitVec 256)} {done : Nat} {s s' : State}
    (h : State.loadRun c x l done s = .inl s') (hS : Sound Q τ s) : Sound Q τ s' := by
  have hl := State.loadRun_sound c x l done s hS
  rw [h] at hl
  exact hl

theorem State.loadRun_inr {c : Ch} {x : Nat} {l : List (BitVec 256)} {done : Nat} {s s' : State}
    (h : State.loadRun c x l done s = .inr s') (hS : Sound Q τ s) : Sound Q τ s' := by
  have hl := State.loadRun_sound c x l done s hS
  rw [h] at hl
  exact hl

@[simp] theorem State.stagedOr_sound (s : State) (c : Ch) (x : Nat) (e : Exec) (i : Nat) (k : State) (hS : Sound Q τ k) (hs : Sound Q τ s) :
    Sound Q τ (State.stagedOr s c x e i k) := by
  unfold State.stagedOr
  split
  · exact hS
  · simp [hs]

theorem execEpochImageLoad_sound (c : Ch) (x : Fin 8) (s : State) (hS : Sound Q τ s) :
    SoundOut Q τ (execEpochImageLoad c x s) := by
  have hW := hS.chan_wf
  unfold execEpochImageLoad
  repeat' first
    | (extract_lets +onlyGivenNames s; first
        | (refine (fun (hS : Sound Q τ s) => ?_) ?_; clear_value s; have hW := hS.chan_wf; rotate_left; dsimp -zeta only [s]; clear s)
        | (refine (fun (hS : Sound Q τ s.1) => ?_) ?_; clear_value s; have hW := hS.chan_wf; rotate_left; dsimp -zeta only [s]; clear s)
        | (refine (fun (hS : Sound Q τ s.2) => ?_) ?_; clear_value s; have hW := hS.chan_wf; rotate_left; dsimp -zeta only [s]; clear s)
        | (refine (fun (hS : Sound Q τ s.2.2) => ?_) ?_; clear_value s; have hW := hS.chan_wf; rotate_left; dsimp -zeta only [s]; clear s)
        | (refine (fun (hX : Chan.wf s) => ?_) ?_; clear_value s; rotate_left; dsimp -zeta only [s]; clear s)
        | (have hE : (s : _ → _) = s := rfl; clear hE; dsimp -zeta only [s]; clear s)
        | (have hE : (s : Events) = s := rfl; clear hE; dsimp -zeta only [s]; clear s)
        | clear_value s)
    | with_reducible refine soundOut_next.mpr ?_
    | (with_reducible refine sound_foldl' ?_ ?_; rotate_left; intro s a hS; have hW := hS.chan_wf; try beta_reduce)
    | (with_reducible refine sound_foldl_fst ?_ _ ?_; intro s a hS; have hW := hS.chan_wf; try beta_reduce)
    | (with_reducible refine sound_foldl_snd ?_ _ ?_; intro s a hS; have hW := hS.chan_wf; try beta_reduce)
    | split
    | (with_reducible refine State.command_sound _ _ _ _ _ ?_ ?_; rotate_left; intro e s hS; have hW := hS.chan_wf; try beta_reduce)
    | with_reducible refine State.gate_sound _ _ _ _ _ ?_ ?_
    | with_reducible refine State.lockAll_sound _ _ _ _ _ ?_ ?_
    | with_reducible refine State.stagedOr_sound _ _ _ _ _ _ ?_ ?_
  all_goals first
    | contradiction
    | simp +contextual (maxDischargeDepth := 40) [*]
    | exact State.lockTurn_some (Q := Q) (τ := τ) (by assumption) (by simp +contextual (maxDischargeDepth := 40) [*])
    | exact State.insertOne_wait (by assumption) (by assumption)
    | exact State.finish_sound _ _ _ _ _ _ (State.insertOne_done (by assumption) (by assumption))
    | exact State.loadRun_inl (Q := Q) (τ := τ) (by assumption) (by simp +contextual (maxDischargeDepth := 40) [*])
    | (have hR := State.loadRun_inr (Q := Q) (τ := τ) (by assumption) (by simp +contextual (maxDischargeDepth := 40) [*]); simp +contextual (maxDischargeDepth := 40) [hR, *])

end Sys2Proof.Machine
end

