-- ==== Sys2Proof/Laws/SoundCmdFlow.lean ====
section
/-! SUPPORT. The operations of Machine/CmdFlow.lean keep a state sound. -/

namespace Sys2Proof.Machine

variable {Q : List Instr} {τ : Nat}

/-- What a flow command does keeps a state sound. -/
def SoundAct (q : List Instr) (τ : Nat) (o : Option FlowAct) : Prop := ∀ r, o = some r → Sound q τ r.st

@[simp] theorem soundAct_none : SoundAct Q τ none := fun _ h => by cases h
@[simp] theorem soundAct_some {r : FlowAct} : SoundAct Q τ (some r) ↔ Sound Q τ r.st :=
  ⟨fun h => h r rfl, fun h t e => by cases e; exact h⟩
@[simp] theorem soundAct_ite {p : Prop} [Decidable p] {a b : Option FlowAct} :
    SoundAct Q τ (if p then a else b) ↔ (p → SoundAct Q τ a) ∧ (¬ p → SoundAct Q τ b) := by
  split <;> simp [*]

@[simp] theorem State.zeroFlowTable_sound (s : State) (c : Ch) (t : Nat) (hS : Sound Q τ s) :
    Sound Q τ (State.zeroFlowTable s c t) := by
  simp +contextual (maxDischargeDepth := 40) [State.zeroFlowTable, hS]

theorem execFlowTableCreate_sound (c : Ch) (x : Fin 8) (s : State) (hS : Sound Q τ s) :
    SoundOut Q τ (execFlowTableCreate c x s) := by
  simp +contextual (maxDischargeDepth := 40) [execFlowTableCreate, hS]

@[simp] theorem State.openFlow_sound (s : State) (c : Ch) (x : Nat) (e : Exec) (at_ : Nat) (hS : Sound Q τ s) :
    Sound Q τ (State.openFlow s c x e at_) := by
  simp +contextual (maxDischargeDepth := 40) [State.openFlow, hS]

@[simp] theorem State.commitFlow_sound (s : State) (c : Ch) (x : Nat) (e : Exec) (act : State → FlowKey → Found → Option FlowAct) (hS : Sound Q τ s) (ha : ∀ s q f, Sound Q τ s → SoundAct Q τ (act s q f)) :
    Sound Q τ (State.commitFlow s c x e act) := by
  unfold State.commitFlow
  dsimp only
  split
  · simp +contextual (maxDischargeDepth := 40) [hS]
  · split
    · simp +contextual (maxDischargeDepth := 40) [hS]
    · split
      · simp +contextual (maxDischargeDepth := 40) [hS]
      · split
        · simp +contextual (maxDischargeDepth := 40) [hS]
        · next r hr =>
          have h1 : Sound Q τ r.st := ha _ _ _ (by simp +contextual (maxDischargeDepth := 40) [hS]) r hr
          simp +contextual (maxDischargeDepth := 40) [hS, h1]

theorem execFlowInsert_sound (c : Ch) (x : Fin 8) (s : State) (hS : Sound Q τ s) :
    SoundOut Q τ (execFlowInsert c x s) := by
  unfold execFlowInsert
  repeat' first
    | (extract_lets +onlyGivenNames s; (refine (fun (hX : Chan.wf s) => ?_) ?_; clear_value s; rotate_left; dsimp -zeta only [s]; clear s))
    | with_reducible refine soundOut_next.mpr ?_
    | split
    | (with_reducible refine State.command_sound _ _ _ _ _ ?_ ?_; rotate_left; intro e s hS; have hW := hS.chan_wf; try beta_reduce)
    | (with_reducible refine State.commitFlow_sound _ _ _ _ _ ?_ ?_; rotate_left; intro s q f hS; have hW := hS.chan_wf; try beta_reduce)
  all_goals simp +contextual (maxDischargeDepth := 40) [*]

theorem execFlowDelete_sound (c : Ch) (x : Fin 8) (s : State) (hS : Sound Q τ s) :
    SoundOut Q τ (execFlowDelete c x s) := by
  unfold execFlowDelete
  refine soundOut_next.mpr ?_
  refine State.command_sound _ _ _ _ _ hS fun e s hS => ?_
  dsimp only
  split
  · refine State.commitFlow_sound _ _ _ _ _ hS fun s q f hS => ?_
    repeat' split
    all_goals simp +contextual (maxDischargeDepth := 40) [hS]
  · simp +contextual (maxDischargeDepth := 40) [hS]

theorem execFlowRead_sound (c : Ch) (x : Fin 8) (s : State) (hS : Sound Q τ s) :
    SoundOut Q τ (execFlowRead c x s) := by
  unfold execFlowRead
  repeat' first
    | with_reducible refine soundOut_next.mpr ?_
    | split
    | (with_reducible refine State.command_sound _ _ _ _ _ ?_ ?_; rotate_left; intro e s hS; have hW := hS.chan_wf; try beta_reduce)
    | (with_reducible refine State.commitFlow_sound _ _ _ _ _ ?_ ?_; rotate_left; intro s q f hS; have hW := hS.chan_wf; try beta_reduce)
  all_goals simp +contextual (maxDischargeDepth := 40) [*]

theorem State.flushAt_sound {s : State} {c : Ch} {t mode value mask : Nat} {exp : Bool} {rs : List (FPlace × Bool)}
    {r : State × Nat} (h : s.flushAt c t mode value mask exp rs = some r) (hS : Sound Q τ s) : Sound Q τ r.1 := by
  unfold State.flushAt at h
  dsimp only at h
  split at h
  · cases h
  · cases h
    simp +contextual (maxDischargeDepth := 40) [hS]

theorem State.flushNext_sound {s : State} {c : Ch} {x t b : Nat} {r : Nat × State} (h : s.flushNext c x t b = some r)
    (hS : Sound Q τ s) : Sound Q τ r.2 := by
  unfold State.flushNext at h
  dsimp only at h
  split at h
  · cases h
    simp [hS]
  · obtain ⟨e, -, rfl⟩ := Option.map_eq_some_iff.mp h
    simp [hS]

theorem State.flushStep_sound {s : State} {c : Ch} {tk : Ticket} {b mode value mask : Nat} {exp : Bool} {r : State × Nat}
    (h : s.flushStep c tk b mode value mask exp = some r) (hS : Sound Q τ s) : Sound Q τ r.1 := by
  unfold State.flushStep at h
  dsimp only at h
  split at h
  · obtain ⟨q, hq, rfl⟩ := Option.map_eq_some_iff.mp h
    have h1 := State.flushAt_sound hq (Q := Q) (τ := τ) (by simp [hS])
    simp [h1]
  · split at h
    · cases h
      exact hS
    · obtain ⟨q, hq, rfl⟩ := Option.map_eq_some_iff.mp h
      have h1 := State.flushAt_sound hq (Q := Q) (τ := τ) (by simp [hS])
      simp [h1]

@[simp] theorem State.flushGo_sound (s : State) (c : Ch) (x t mode b n : Nat) (hS : Sound Q τ s) :
    Sound Q τ (State.flushGo s c x t mode b n) := by
  unfold State.flushGo
  split
  · next h =>
    have h1 := State.flushNext_sound h hS
    simp at h1 ⊢
    simp [h1]
  · simp +contextual (maxDischargeDepth := 40) [hS]

theorem execFlowFlush_sound (c : Ch) (x : Fin 8) (s : State) (hS : Sound Q τ s) :
    SoundOut Q τ (execFlowFlush c x s) := by
  unfold execFlowFlush
  refine soundOut_next.mpr ?_
  refine State.command_sound _ _ _ _ _ hS fun e s hS => ?_
  dsimp only
  split
  · have hd : Sound Q τ (s.flowDue c) := by simp [hS]
    split
    · simp [hd]
    · split
      · exact hd
      · split
        · exact hd
        · next h =>
          have h1 := State.flushStep_sound h (Q := Q) (τ := τ) (by simp [hd])
          simp at h1 ⊢
          simp [h1]
  · refine State.gate_sound _ _ _ _ _ ?_ hS
    refine State.lockAll_sound _ _ _ _ _ ?_ hS
    simp [hS]

@[simp] theorem Chan.applyWhole_wf (x : Chan) (now : Nat) (double : Bool) (m : Move) (hX : Chan.wf x) :
    Chan.wf (Chan.applyWhole x now double m) := by
  unfold Chan.applyWhole
  try dsimp only
  (repeat' split) <;> simp +contextual (maxDischargeDepth := 40) [*]

@[simp] theorem State.chainStep_sound (s : State) (c : Ch) (x t e moved i : Nat) (ms : List Move) (hS : Sound Q τ s) :
    Sound Q τ (State.chainStep s c x t e moved i ms) := by
  unfold State.chainStep
  (repeat' split) <;> simp +contextual (maxDischargeDepth := 40) [hS]

@[simp] theorem State.chainReads_sound (c : Ch) (t : Nat) (double : Bool) : ∀ (d b : Nat) (s : State), Sound Q τ s →
    Sound Q τ (State.chainReads c t double d b s)
  | 0, b, s, hS => by simp [State.chainReads, hS]
  | d + 1, b, s, hS => by
    have h1 : Sound Q τ (s.fixBucket c (s.bucketSlot c t b)) := by simp [hS]
    unfold State.chainReads
    dsimp only
    split
    · exact h1
    · exact sound_foldl (fun s i hs => State.chainReads_sound c t double d _ s hs) _ h1

@[simp] theorem State.relocGo_sound (c : Ch) (x t depth moved : Nat) : ∀ (l : List Nat) (s : State), Sound Q τ s →
    Sound Q τ (State.relocGo c x t depth moved l s)
  | [], s, hS => by simp [State.relocGo, hS]
  | e :: rest, s, hS => by
    unfold State.relocGo
    dsimp only
    split
    · exact State.relocGo_sound c x t depth moved rest _ (by simp [hS])
    · have h1 (k : Bool) (s : State) (hs : Sound Q τ s) (a b : Nat) :=
        State.chainReads_sound (Q := Q) (τ := τ) c t k depth b _ (State.chainReads_sound c t k depth a s hs)
      split
      · exact State.relocGo_sound c x t depth moved rest _ (h1 _ _ (by simp [hS]) _ _)
      · exact State.chainStep_sound _ _ _ _ _ _ _ _ (h1 _ _ (by simp [hS]) _ _)

@[simp] theorem State.relocStep_sound (s : State) (c : Ch) (x t depth : Nat) (nums : List Nat) (tk : Ticket) (hS : Sound Q τ s) :
    Sound Q τ (State.relocStep s c x t depth nums tk) := by
  unfold State.relocStep
  dsimp only
  have h1 : ∀ l : List Nat, Sound Q τ ((l.foldl (fun s b => s.fixBucket c (s.bucketSlot c t b)) s).dropTicket c tk.id) :=
    fun l => State.dropTicket_sound _ _ _ (sound_foldl (fun s b hs => State.fixBucket_sound s c _ hs) _ hS)
  have h2 := (h1 tk.buckets).chan_wf c
  (repeat' split) <;> simp +contextual (maxDischargeDepth := 40) [h1, h2]

theorem execFlowRelocate_sound (c : Ch) (x : Fin 8) (s : State) (hS : Sound Q τ s) :
    SoundOut Q τ (execFlowRelocate c x s) := by
  unfold execFlowRelocate
  refine soundOut_next.mpr ?_
  refine State.command_sound _ _ _ _ _ hS fun e s hS => ?_
  dsimp only
  split
  · (repeat' split) <;> simp +contextual (maxDischargeDepth := 40) [hS]
  · refine State.gate_sound _ _ _ _ _ ?_ hS
    refine State.lockAll_sound _ _ _ _ _ ?_ hS
    simp [hS]

end Sys2Proof.Machine
end

