-- ==== Sys2Proof/Laws/SoundCmdPlace.lean ====
section
/-! SUPPORT. The operations of Machine/CmdPlace.lean keep a state sound. -/

namespace Sys2Proof.Machine

variable {Q : List Instr} {τ : Nat}

theorem execBlockMigrate_sound (c : Ch) (x : Fin 8) (s : State) (hS : Sound Q τ s) :
    SoundOut Q τ (execBlockMigrate c x s) := by
  unfold execBlockMigrate
  repeat' first
    | (extract_lets +onlyGivenNames s; clear_value s)
    | with_reducible refine soundOut_next.mpr ?_
    | split
    | (with_reducible refine State.command_sound _ _ _ _ _ ?_ ?_; rotate_left; intro e s hS; have hW := hS.chan_wf; try beta_reduce)
  all_goals simp +contextual (maxDischargeDepth := 40) [*]

theorem execBlockRepair_sound (c : Ch) (x : Fin 8) (s : State) (hS : Sound Q τ s) :
    SoundOut Q τ (execBlockRepair c x s) := by
  simp +contextual (maxDischargeDepth := 40) [execBlockRepair, hS]

theorem execMirrorSet_sound (c : Ch) (x : Fin 8) (s : State) (hS : Sound Q τ s) :
    SoundOut Q τ (execMirrorSet c x s) := by
  simp +contextual (maxDischargeDepth := 40) [execMirrorSet, hS]

end Sys2Proof.Machine
end

