-- ==== Sys2Proof/Laws/SoundCmdMisc.lean ====
section
/-! SUPPORT. The operations of Machine/CmdMisc.lean keep a state sound. -/

namespace Sys2Proof.Machine

variable {Q : List Instr} {τ : Nat}

@[simp] theorem State.writeProfEn_sound (s : State) (c : Ch) (x p : Nat) (en : Bool) (hS : Sound Q τ s) :
    Sound Q τ (State.writeProfEn s c x p en) := by
  simp +contextual (maxDischargeDepth := 40) [State.writeProfEn, hS]

@[simp] theorem State.writeProfile_sound (s : State) (c : Ch) (x p : Nat) (b : List Word) (en : Bool) (hS : Sound Q τ s) :
    Sound Q τ (State.writeProfile s c x p b en) := by
  simp +contextual (maxDischargeDepth := 40) [State.writeProfile, hS]

theorem execProfileWrite_sound (c : Ch) (x : Fin 8) (s : State) (hS : Sound Q τ s) :
    SoundOut Q τ (execProfileWrite c x s) := by
  simp +contextual (maxDischargeDepth := 40) [execProfileWrite, hS]

theorem execProfileRead_sound (c : Ch) (x : Fin 8) (s : State) (hS : Sound Q τ s) :
    SoundOut Q τ (execProfileRead c x s) := by
  simp +contextual (maxDischargeDepth := 40) [execProfileRead, hS]

@[simp] theorem State.askOwner_sound (s : State) (c : Ch) (bank owner : Nat) (hS : Sound Q τ s) :
    Sound Q τ (State.askOwner s c bank owner) := by
  simp +contextual (maxDischargeDepth := 40) [State.askOwner, hS]

theorem execTestMarch_sound (c : Ch) (x : Fin 8) (s : State) (hS : Sound Q τ s) :
    SoundOut Q τ (execTestMarch c x s) := by
  unfold execTestMarch
  repeat' first
    | (extract_lets +onlyGivenNames s; (refine (fun (hS : Sound Q τ s) => ?_) ?_; clear_value s; have hW := hS.chan_wf; rotate_left; dsimp -zeta only [s]; clear s))
    | with_reducible refine soundOut_next.mpr ?_
    | split
    | (with_reducible refine State.command_sound _ _ _ _ _ ?_ ?_; rotate_left; intro e s hS; have hW := hS.chan_wf; try beta_reduce)
  all_goals simp +contextual (maxDischargeDepth := 40) [*]

@[simp] theorem State.queueOwed_sound (s : State) (c : Ch) (l : List Nat) (hS : Sound Q τ s) :
    Sound Q τ (State.queueOwed s c l) := by
  simp +contextual (maxDischargeDepth := 40) [State.queueOwed, hS]

@[simp] theorem State.calRunPassed_sound (s : State) (c : Ch) (blk : Nat) (ok : Bool) (hS : Sound Q τ s) :
    Sound Q τ (State.calRunPassed s c blk ok) := by
  simp +contextual (maxDischargeDepth := 40) [State.calRunPassed, hS]

theorem execCalRun_sound (c : Ch) (x : Fin 8) (s : State) (hS : Sound Q τ s) :
    SoundOut Q τ (execCalRun c x s) := by
  simp +contextual (maxDischargeDepth := 40) [execCalRun, hS]

theorem execChannelDrain_sound (c : Ch) (x : Fin 8) (s : State) (hS : Sound Q τ s) :
    SoundOut Q τ (execChannelDrain c x s) := by
  unfold execChannelDrain
  refine soundOut_next.mpr ?_
  refine State.command_sound _ _ _ _ _ hS fun e s hS => ?_
  dsimp only
  split
  · simp +contextual (maxDischargeDepth := 40) [hS]
  · simp +contextual (maxDischargeDepth := 40) [hS]
  · refine State.gate_sound _ _ _ _ _ ?_ hS
    simp +contextual (maxDischargeDepth := 40) [hS]

@[simp] theorem State.setAdmit_sound (s : State) (c : Ch) (hS : Sound Q τ s) :
    Sound Q τ (State.setAdmit s c) := by
  simp +contextual (maxDischargeDepth := 40) [State.setAdmit, hS]

theorem execChannelResume_sound (c : Ch) (x : Fin 8) (s : State) (hS : Sound Q τ s) :
    SoundOut Q τ (execChannelResume c x s) := by
  simp +contextual (maxDischargeDepth := 40) [execChannelResume, hS]

theorem execCommandTimeout_sound (c : Ch) (x : Fin 8) (s : State) (hS : Sound Q τ s) :
    SoundOut Q τ (execCommandTimeout c x s) := by
  unfold execCommandTimeout
  (repeat' split) <;> simp +contextual (maxDischargeDepth := 40) [hS]

theorem execManagerUpdate_sound (c : Ch) (x : Fin 8) (s : State) (hS : Sound Q τ s) :
    SoundOut Q τ (execManagerUpdate c x s) := by
  unfold execManagerUpdate
  repeat' first
    | (extract_lets +onlyGivenNames s; (have hE : (s : _ → _) = s := rfl; clear hE; dsimp -zeta only [s]; clear s))
    | with_reducible refine soundOut_next.mpr ?_
    | split
    | (with_reducible refine State.command_sound _ _ _ _ _ ?_ ?_; rotate_left; intro e s hS; have hW := hS.chan_wf; try beta_reduce)
  all_goals simp +contextual (maxDischargeDepth := 40) [*]

theorem execMgrUpdateHalt_sound (c : Ch) (s : State) (hS : Sound Q τ s) :
    SoundOut Q τ (execMgrUpdateHalt c s) := by
  unfold execMgrUpdateHalt
  repeat' first
    | (extract_lets +onlyGivenNames s; first
        | (refine (fun (hS : Sound Q τ s) => ?_) ?_; clear_value s; have hW := hS.chan_wf; rotate_left; dsimp -zeta only [s]; clear s)
        | clear_value s)
    | split
  all_goals simp +contextual (maxDischargeDepth := 40) [*]

@[simp] theorem State.answerUpdate_sound (s : State) (c : Ch) (u : MgrUpd) (st d : Nat) (hS : Sound Q τ s) :
    Sound Q τ (State.answerUpdate s c u st d) := by
  simp +contextual (maxDischargeDepth := 40) [State.answerUpdate, hS]

theorem execMgrUpdateComplete_sound (c : Ch) (s : State) (hS : Sound Q τ s) :
    SoundOut Q τ (execMgrUpdateComplete c s) := by
  unfold execMgrUpdateComplete
  (repeat' split) <;> simp +contextual (maxDischargeDepth := 40) [hS]

theorem execMgrUpdateFallback_sound (c : Ch) (s : State) (hS : Sound Q τ s) :
    SoundOut Q τ (execMgrUpdateFallback c s) := by
  unfold execMgrUpdateFallback
  (repeat' split) <;> simp +contextual (maxDischargeDepth := 40) [hS]

theorem execStatsRead_sound (c : Ch) (x : Fin 8) (s : State) (hS : Sound Q τ s) :
    SoundOut Q τ (execStatsRead c x s) := by
  simp +contextual (maxDischargeDepth := 40) [execStatsRead, hS]

end Sys2Proof.Machine
end

