-- ==== Sys2Proof/Laws/SoundCmdImage.lean ====
section
/-! SUPPORT. The operations of Machine/CmdImage.lean keep a state sound. -/

namespace Sys2Proof.Machine

variable {Q : List Instr} {τ : Nat}

@[simp] theorem State.saveImage_sound (s : State) (c : Ch) (flows ext : Bool) (hS : Sound Q τ s) :
    SoundOpt Q τ (State.saveImage s c flows ext) := by
  simp +contextual (maxDischargeDepth := 40) [State.saveImage, hS]

theorem execImageSave_sound (c : Ch) (x : Fin 8) (s : State) (hS : Sound Q τ s) :
    SoundOut Q τ (execImageSave c x s) := by
  unfold execImageSave
  refine soundOut_next.mpr ?_
  refine State.command_sound _ _ _ _ _ hS fun e s hS => ?_
  refine State.gate_sound _ _ _ _ _ ?_ hS
  split
  · simp +contextual (maxDischargeDepth := 40) [hS]
  · next s' h => exact State.finish_sound _ _ _ _ _ _ (State.saveImage_sound _ _ _ _ hS _ h)

@[simp] theorem State.restoreReg_sound (s : State) (c : Ch) (it : BitVec 256) (hS : Sound Q τ s) :
    Sound Q τ (State.restoreReg s c it) := by
  unfold State.restoreReg
  (repeat' split) <;> simp +contextual (maxDischargeDepth := 40) [hS]

@[simp] theorem State.putEntry_sound (s : State) (c : Ch) (loc t head key : Nat) (data : BitVec 512) (b6 : BitVec 8) (hS : Sound Q τ s) :
    Sound Q τ (State.putEntry s c loc t head key data b6) := by
  simp +contextual (maxDischargeDepth := 40) [State.putEntry, hS]

@[simp] theorem State.putTail_sound (s : State) (c : Ch) (h : RestoredHead) (loc : Nat) (data : BitVec 512) (hS : Sound Q τ s) :
    Sound Q τ (State.putTail s c h loc data) := by
  simp +contextual (maxDischargeDepth := 40) [State.putTail, hS]

@[simp] theorem State.restoreFlow_sound (s : State) (c : Ch) (loc : Nat) (data : BitVec 512) (prev : Option RestoredHead) (hS : Sound Q τ s) :
    Sound Q τ (State.restoreFlow s c loc data prev).1 := by
  unfold State.restoreFlow
  repeat' first
    | (extract_lets +onlyGivenNames s; first
        | (refine (fun (hS : Sound Q τ s) => ?_) ?_; clear_value s; have hW := hS.chan_wf; rotate_left; dsimp -zeta only [s]; clear s)
        | (refine (fun (hS : Sound Q τ s.2) => ?_) ?_; clear_value s; have hW := hS.chan_wf; rotate_left; dsimp -zeta only [s]; clear s)
        | clear_value s)
    | split
  all_goals simp +contextual (maxDischargeDepth := 40) [*]

@[simp] theorem State.restoreFlows_sound (c : Ch) : ∀ (n : Nat) (b : List Byte) (prev : Option RestoredHead) (s : State),
    Sound Q τ s → Sound Q τ (State.restoreFlows c n b prev s)
  | 0, _, _, _, hS => hS
  | n + 1, b, prev, s, hS => by
    unfold State.restoreFlows
    exact State.restoreFlows_sound c n _ _ _ (by simp +contextual (maxDischargeDepth := 40) [hS])

@[simp] theorem State.restoreBulk_sound (s : State) (c : Ch) (img : List Byte) (hS : Sound Q τ s) :
    Sound Q τ (State.restoreBulk s c img) := by
  unfold State.restoreBulk
  dsimp only
  have h1 : ∀ n l, Sound Q τ (State.penEvents s (State.restoreFlows c n l none s) c) := fun n l =>
    State.penEvents_sound _ _ _ (State.restoreFlows_sound c n l none s hS)
  split
  · exact h1 _ _
  · refine State.modChan_sound (h1 _ _) c fun x hx => ?_
    exact chan_wf_fold (fun y a hy => Chan.setHbm_wf hy _ _) _ hx

@[simp] theorem State.rebuild_sound (s : State) (c : Ch) (hS : Sound Q τ s) :
    Sound Q τ (State.rebuild s c) := by
  unfold State.rebuild
  repeat' first
    | (extract_lets +onlyGivenNames s; first
        | (refine (fun (hS : Sound Q τ s) => ?_) ?_; clear_value s; have hW := hS.chan_wf; rotate_left; dsimp -zeta only [s]; clear s)
        | clear_value s)
    | split
  all_goals simp +contextual (maxDischargeDepth := 40) [*]

theorem State.restoreRun_sound (c : Ch) (x : Nat) (img : List Byte) (keep : List Nat) : ∀ (l : List RStep) (pos : Nat) (s : State),
    Sound Q τ s → SoundSum Q τ (State.restoreRun c x img keep l pos s)
  | [], _, _, hS => hS
  | st :: t, pos, s, hS => by
    have hp : Sound Q τ (s.setPhase c x 1 (pos :: keep)) := by simp +contextual (maxDischargeDepth := 40) [hS]
    unfold State.restoreRun
    dsimp only
    split
    · exact State.restoreRun_sound c x img keep t _ _ (by simp +contextual (maxDischargeDepth := 40) [hS])
    · split
      · exact hp
      · split
        · next s' h =>
          have h' := State.lockTurn_some h hS
          show Sound Q τ _
          simp +contextual (maxDischargeDepth := 40) [h']
        · exact State.restoreRun_sound c x img keep t _ _ (by simp +contextual (maxDischargeDepth := 40) [hS])
    · split
      · split
        · exact hp
        · exact State.restoreRun_sound c x img keep t _ _ (by simp +contextual (maxDischargeDepth := 40) [hS])
      · split
        · next s' h =>
          have h' := State.lockTurn_some h hS
          show Sound Q τ _
          simp +contextual (maxDischargeDepth := 40) [h']
        · exact State.restoreRun_sound c x img keep t _ _ (by simp +contextual (maxDischargeDepth := 40) [hS])

@[simp] theorem State.countReplay_sound (s : State) (c : Ch) (n : Nat) (bad : Bool) (hS : Sound Q τ s) :
    Sound Q τ (State.countReplay s c n bad) := by
  simp +contextual (maxDischargeDepth := 40) [State.countReplay, hS]

@[simp] theorem State.endRestore_sound (s : State) (c : Ch) (gen : Nat) (hS : Sound Q τ s) :
    Sound Q τ (State.endRestore s c gen) := by
  simp +contextual (maxDischargeDepth := 40) [State.endRestore, hS]

@[simp] theorem State.restoreTurn_sound (s : State) (c : Ch) (x : Nat) (e : Exec) (img : List Byte) (from_ : Option Ch) (fin : State → State) (hS : Sound Q τ s) (hf : ∀ s, Sound Q τ s → Sound Q τ (fin s)) :
    Sound Q τ (State.restoreTurn s c x e img from_ fin) := by
  unfold State.restoreTurn
  extract_lets rep last steps ending
  have hE : ∀ s, Sound Q τ s → Sound Q τ (ending s) := by
    intro s h
    simp only [ending]
    split <;> simp [h]
  clear_value ending rep last steps
  split
  · exact hE _ hS
  · split
    · exact hS
    · cases from_
      · exact hf _ (State.endRestore_sound _ _ _ hS)
      · exact hf _ (State.endRestore_sound _ _ _ (State.countReplay_sound _ _ _ _ hS))
  · have hs := State.restoreRun_sound c x img [tiGen img, last] (steps.drop (e.nums.headD 0)) (e.nums.headD 0) s hS
    split
    · next s' e' => rw [e'] at hs; exact hs
    · next s' e' => rw [e'] at hs; exact hE _ (State.setPhase_sound _ _ _ _ _ hs)

theorem execImageRestore_sound (c : Ch) (x : Fin 8) (s : State) (hS : Sound Q τ s) :
    SoundOut Q τ (execImageRestore c x s) := by
  unfold execImageRestore
  refine soundOut_next.mpr ?_
  refine State.command_sound _ _ _ _ _ hS fun e s hS => ?_
  extract_lets src img from_ fin
  have hF : ∀ s, Sound Q τ s → Sound Q τ (fin s) := by
    intro s h
    simp only [fin]
    split
    · simp [h]
    · split
      · simp [h]
      · next s' h' => exact State.finish_sound _ _ _ _ _ _ (State.saveImage_sound _ _ _ _ h _ h')
  clear_value fin img from_
  split
  · exact State.gate_sound _ _ _ _ _ (State.restoreTurn_sound _ _ _ _ _ _ _ (by simp [hS]) hF) hS
  · split
    · exact State.stagedOr_sound _ _ _ _ _ _ (State.restoreTurn_sound _ _ _ _ _ _ _ hS hF) hS
    · exact State.restoreTurn_sound _ _ _ _ _ _ _ hS hF

@[simp] theorem State.startupTurn_sound (s : State) (c : Ch) (x : Nat) (e : Exec) (img : List Byte) (hS : Sound Q τ s) :
    Sound Q τ (State.startupTurn s c x e img) := by
  exact State.restoreTurn_sound _ _ _ _ _ _ _ hS fun s h => by simp [h]

theorem execStartupRestore_sound (c : Ch) (s : State) (hS : Sound Q τ s) :
    SoundOut Q τ (execStartupRestore c s) := by
  unfold execStartupRestore
  repeat' first
    | (extract_lets +onlyGivenNames s; first
        | (refine (fun (hS : Sound Q τ s) => ?_) ?_; clear_value s; have hW := hS.chan_wf; rotate_left; dsimp -zeta only [s]; clear s)
        | clear_value s)
    | split
  all_goals simp +contextual (maxDischargeDepth := 40) [*]

end Sys2Proof.Machine
end

