-- ==== Sys2Proof/Laws/SoundSlots.lean ====
section
/-! SUPPORT. The operations of Machine/Slots.lean keep a state sound. -/

namespace Sys2Proof.Machine

variable {Q : List Instr} {τ : Nat}

@[simp] theorem State.popDirect_sound (s : State) (c : Ch) (hS : Sound Q τ s) :
    Sound Q τ (State.popDirect s c) := by
  simp +contextual (maxDischargeDepth := 40) [State.popDirect, hS]

@[simp] theorem State.discardDirect_sound (c : Ch) : ∀ (n : Nat) (s : State), Sound Q τ s → Sound Q τ (State.discardDirect c n s)
  | 0, _, hS => hS
  | n + 1, s, hS => by
    unfold State.discardDirect
    split
    · exact hS
    · split
      · exact hS
      · exact State.discardDirect_sound c n _ (by simp +contextual (maxDischargeDepth := 40) [hS])

@[simp] theorem State.applyDirect_sound (s : State) (c : Ch) (d : DirectItem) (hS : Sound Q τ s) :
    Sound Q τ (State.applyDirect s c d) := by
  simp +contextual (maxDischargeDepth := 40) [State.applyDirect, hS]

@[simp] theorem State.applyManager_sound (s : State) (c : Ch) (m : MItem) (hS : Sound Q τ s) :
    Sound Q τ (State.applyManager s c m) := by
  simp +contextual (maxDischargeDepth := 40) [State.applyManager, hS]

@[simp] theorem State.writeRound_sound (s : State) (c : Ch) (r : Rounds) (hS : Sound Q τ s) :
    Sound Q τ (State.writeRound s c r).1 := by
  unfold State.writeRound
  extract_lets s0 d m busy r' d' m'
  have h0 : Sound Q τ s0 := by
    simp only [s0]
    split
    · exact hS
    · simp [hS]
  clear_value s0 d' m'
  split
  · dsimp only
    split
    · simp [h0]
    · split <;> simp +contextual (maxDischargeDepth := 40) [h0]
  · simp [h0]
  · simp [h0]
  · exact h0

@[simp] theorem State.writeRounds_sound (c : Ch) : ∀ (n : Nat) (s : State) (r : Rounds), Sound Q τ s →
    Sound Q τ (State.writeRounds c n s r)
  | 0, _, _, hS => hS
  | n + 1, s, r, hS => by
    unfold State.writeRounds
    split
    · exact hS
    · exact State.writeRounds_sound c n _ _ (by simp [hS])

@[simp] theorem State.endFreeing_sound (s : State) (c : Ch) (hS : Sound Q τ s) :
    Sound Q τ (State.endFreeing s c) := by
  simp +contextual (maxDischargeDepth := 40) [State.endFreeing, hS]

@[simp] theorem State.respondAll_sound (s : State) (c : Ch) (hS : Sound Q τ s) :
    Sound Q τ (State.respondAll s c) := by
  simp +contextual (maxDischargeDepth := 40) [State.respondAll, hS]

theorem execWriteSlot_sound (c : Ch) (s : State) (hS : Sound Q τ s) :
    SoundOut Q τ (execWriteSlot c s) := by
  unfold execWriteSlot
  (repeat' split) <;> simp +contextual (maxDischargeDepth := 40) [hS]

@[simp] theorem State.requestRepair_sound (s : State) (c : Ch) (blk : Nat) (hS : Sound Q τ s) :
    Sound Q τ (State.requestRepair s c blk) := by
  simp +contextual (maxDischargeDepth := 40) [State.requestRepair, hS]

@[simp] theorem State.corrected_sound (s : State) (c : Ch) (blk : Nat) (hS : Sound Q τ s) :
    Sound Q τ (State.corrected s c blk) := by
  simp +contextual (maxDischargeDepth := 40) [State.corrected, hS]

@[simp] theorem State.markDirty_sound (s : State) (c : Ch) (blk g : Nat) (hS : Sound Q τ s) :
    Sound Q τ (State.markDirty s c blk g) := by
  simp +contextual (maxDischargeDepth := 40) [State.markDirty, hS]

@[simp] theorem State.scrubWord_sound (s : State) (c : Ch) (k : Nat) (w : WordCell) (hS : Sound Q τ s) :
    Sound Q τ (State.scrubWord s c k w) := by
  unfold State.scrubWord
  (repeat' split) <;> simp +contextual (maxDischargeDepth := 40) [hS]

@[simp] theorem State.scrubAd_sound (s : State) (c : Ch) (k : Nat) (a : AdCell) (hS : Sound Q τ s) :
    Sound Q τ (State.scrubAd s c k a) := by
  unfold State.scrubAd
  (repeat' split) <;> simp +contextual (maxDischargeDepth := 40) [hS]

@[simp] theorem State.scrubRead_sound (s : State) (c : Ch) (bank : Nat) (hS : Sound Q τ s) :
    Sound Q τ (State.scrubRead s c bank) := by
  simp +contextual (maxDischargeDepth := 40) [State.scrubRead, hS]

@[simp] theorem State.scrubBack_sound (s : State) (c : Ch) (bank : Nat) (hS : Sound Q τ s) :
    Sound Q τ (State.scrubBack s c bank) := by
  simp +contextual (maxDischargeDepth := 40) [State.scrubBack, hS]

@[simp] theorem State.scrubBank_sound (c : Ch) (s : State) (bank : Nat) (hS : Sound Q τ s) :
    Sound Q τ (State.scrubBank c s bank) := by
  simp +contextual (maxDischargeDepth := 40) [State.scrubBank, hS]

@[simp] theorem State.countLaps_sound (s : State) (c : Ch) (hS : Sound Q τ s) :
    Sound Q τ (State.countLaps s c) := by
  simp +contextual (maxDischargeDepth := 40) [State.countLaps, hS]

theorem execScrubSlot_sound (c : Ch) (s : State) (hS : Sound Q τ s) :
    SoundOut Q τ (execScrubSlot c s) := by
  unfold execScrubSlot
  (repeat' split) <;> simp +contextual (maxDischargeDepth := 40) [hS]

theorem execScrubRepairStart_sound (c : Ch) (s : State) (hS : Sound Q τ s) :
    SoundOut Q τ (execScrubRepairStart c s) := by
  unfold execScrubRepairStart
  repeat' first
    | (extract_lets +onlyGivenNames s; first
        | (refine (fun (hS : Sound Q τ s) => ?_) ?_; clear_value s; have hW := hS.chan_wf; rotate_left; dsimp -zeta only [s]; clear s)
        | clear_value s)
    | split
  all_goals simp +contextual (maxDischargeDepth := 40) [*]

end Sys2Proof.Machine
end

