-- ==== Sys2Proof/Laws/SoundJobs.lean ====
section
/-! SUPPORT. The operations of Machine/Jobs.lean keep a state sound. -/

namespace Sys2Proof.Machine

variable {Q : List Instr} {τ : Nat}

@[simp] theorem State.setJob_sound (s : State) (c : Ch) (h : Nat) (j : Option Job) (hS : Sound Q τ s) :
    Sound Q τ (State.setJob s c h j) := by
  unfold State.setJob
  (repeat' split) <;> simp +contextual (maxDischargeDepth := 40) [hS]

@[simp] theorem State.mapTarget_sound (s : State) (c : Ch) (j : Job) (hS : Sound Q τ s) :
    Sound Q τ (State.mapTarget s c j) := by
  simp +contextual (maxDischargeDepth := 40) [State.mapTarget, hS]

@[simp] theorem State.repairLog_sound (s : State) (c : Ch) (src lost : Nat) (hS : Sound Q τ s) :
    Sound Q τ (State.repairLog s c src lost) := by
  simp +contextual (maxDischargeDepth := 40) [State.repairLog, hS]

@[simp] theorem State.dropLostJob_sound (s : State) (c : Ch) (h : Nat) (hS : Sound Q τ s) :
    Sound Q τ (State.dropLostJob s c h) := by
  unfold State.dropLostJob
  (repeat' split) <;> simp +contextual (maxDischargeDepth := 40) [hS]

theorem LockCycle.turn_boxes (now : Nat) (l : LockCycle) (h : Nat) :
    (l.turn now h).mgr.boxes.length = l.mgr.boxes.length := by
  unfold LockCycle.turn
  (repeat' split) <;> simp
theorem LockCycle.turns_boxes (now : Nat) : ∀ (hs : List Nat) (l : LockCycle),
    (hs.foldl (LockCycle.turn now) l).mgr.boxes.length = l.mgr.boxes.length
  | [], _ => rfl
  | h :: t, l => (LockCycle.turns_boxes now t (l.turn now h)).trans (LockCycle.turn_boxes now l h)

@[simp] theorem State.lockCycle_sound (s : State) (c : Ch) (hS : Sound Q τ s) :
    Sound Q τ (State.lockCycle s c) := by
  unfold State.lockCycle
  extract_lets u at_ l
  have hu : Sound Q τ u := by simp [u, hS]
  have hl : l.mgr.boxes.length = 16 := (LockCycle.turns_boxes at_ _ _).trans (hu.chan_wf c).boxes
  clear_value l u
  split
  · exact hu
  · refine sound_foldl (q := Q) (τ := τ) (fun s h hs => ?_) _ (sound_foldl (fun s x hs => State.breakCmd_sound _ _ _ hs) _ ?_)
    · split
      · simp (maxDischargeDepth := 40) [hs]
      · exact hs
    · refine State.modChan_sound (State.atTime_sound hu at_) c fun x hx => ?_
      exact ⟨hx.1, hx.2.1, hx.2.2.1, hl⟩

theorem execLockGrant_sound (c : Ch) (s : State) (hS : Sound Q τ s) :
    SoundOut Q τ (execLockGrant c s) := by
  simp +contextual (maxDischargeDepth := 40) [execLockGrant, hS]

theorem execEngineLockGroupGrant_sound (c : Ch) (s : State) (hS : Sound Q τ s) :
    SoundOut Q τ (execEngineLockGroupGrant c s) := by
  unfold execEngineLockGroupGrant
  repeat' first
    | (extract_lets +onlyGivenNames s; first
        | (refine (fun (hS : Sound Q τ s) => ?_) ?_; clear_value s; have hW := hS.chan_wf; rotate_left; dsimp -zeta only [s]; clear s)
        | clear_value s)
    | split
  all_goals simp +contextual (maxDischargeDepth := 40) [*]

@[simp] theorem State.copyGroup_sound (s : State) (c : Ch) (j : Job) (g : Nat) (hS : Sound Q τ s) :
    Sound Q τ (State.copyGroup s c j g) := by
  simp +contextual (maxDischargeDepth := 40) [State.copyGroup, hS]

@[simp] theorem State.startFreeing_sound (s : State) (c : Ch) (t blk : Nat) (unmap : Bool) (hS : Sound Q τ s) :
    Sound Q τ (State.startFreeing s c t blk unmap) := by
  simp +contextual (maxDischargeDepth := 40) [State.startFreeing, hS]

@[simp] theorem State.failJob_sound (s : State) (c : Ch) (h : Nat) (j : Job) (hS : Sound Q τ s) :
    Sound Q τ (State.failJob s c h j) := by
  unfold State.failJob
  (repeat' split) <;> simp +contextual (maxDischargeDepth := 40) [hS]

@[simp] theorem ArrayMem.dropValid_wf (a : ArrayMem) (blk : Nat) (hA : a.wf = true) :
    (ArrayMem.dropValid a blk).wf = true := by
  unfold ArrayMem.dropValid
  (repeat' split) <;> simp +contextual (maxDischargeDepth := 40) [*]

@[simp] theorem State.moveRecord_sound (s : State) (c : Ch) (t : Nat) (j : Job) (hS : Sound Q τ s) :
    Sound Q τ (State.moveRecord s c t j) := by
  simp +contextual (maxDischargeDepth := 40) [State.moveRecord, hS]

@[simp] theorem State.fence_sound (s : State) (c : Ch) (h : Nat) (j : Job) (hS : Sound Q τ s) :
    Sound Q τ (State.fence s c h j) := by
  unfold State.fence
  (repeat' split) <;> simp +contextual (maxDischargeDepth := 40) [hS]

@[simp] theorem State.startPass_sound (s : State) (c : Ch) (h : Nat) (j : Job) (hS : Sound Q τ s) :
    Sound Q τ (State.startPass s c h j) := by
  simp +contextual (maxDischargeDepth := 40) [State.startPass, hS]

@[simp] theorem State.afterCopy_sound (s : State) (c : Ch) (h : Nat) (j : Job) (hS : Sound Q τ s) :
    Sound Q τ (State.afterCopy s c h j) := by
  simp +contextual (maxDischargeDepth := 40) [State.afterCopy, hS]

@[simp] theorem State.migTurn_sound (s : State) (c : Ch) (h : Nat) (j : Job) (hS : Sound Q τ s) :
    Sound Q τ (State.migTurn s c h j) := by
  simp +contextual (maxDischargeDepth := 40) [State.migTurn, hS]

theorem execMigSlot_sound (c : Ch) (s : State) (hS : Sound Q τ s) :
    SoundOut Q τ (execMigSlot c s) := by
  unfold execMigSlot
  repeat' first
    | (extract_lets +onlyGivenNames s; first
        | (refine (fun (hS : Sound Q τ s) => ?_) ?_; clear_value s; have hW := hS.chan_wf; rotate_left; dsimp -zeta only [s]; clear s)
        | clear_value s)
    | split
  all_goals simp +contextual (maxDischargeDepth := 40) [*]

@[simp] theorem State.fenceWaiting_sound (s : State) (c : Ch) (h : Nat) (hS : Sound Q τ s) :
    Sound Q τ (State.fenceWaiting s c h) := by
  unfold State.fenceWaiting
  (repeat' split) <;> simp +contextual (maxDischargeDepth := 40) [hS]

theorem execMgrRestartComplete_sound (c : Ch) (s : State) (hS : Sound Q τ s) :
    SoundOut Q τ (execMgrRestartComplete c s) := by
  simp +contextual (maxDischargeDepth := 40) [execMgrRestartComplete, hS]

@[simp] theorem State.jobPassed_sound (s : State) (c : Ch) (blk : Nat) (ok : Bool) (hS : Sound Q τ s) :
    Sound Q τ (State.jobPassed s c blk ok) := by
  unfold State.jobPassed
  repeat' first
    | (with_reducible refine sound_foldl' ?_ ?_; rotate_left; intro s a hS; have hW := hS.chan_wf; try beta_reduce)
    | split
  all_goals simp +contextual (maxDischargeDepth := 40) [*]

end Sys2Proof.Machine
end

