-- ==== Sys2Proof/Laws/SoundCalib.lean ====
section
/-! SUPPORT. The operations of Machine/Calib.lean keep a state sound. -/

namespace Sys2Proof.Machine

variable {Q : List Instr} {τ : Nat}

@[simp] theorem State.modMaint_sound (s : State) (c : Ch) (f : Maint → Maint) (hS : Sound Q τ s) :
    Sound Q τ (State.modMaint s c f) := by
  simp +contextual (maxDischargeDepth := 40) [State.modMaint, hS]

@[simp] theorem State.cullWork_sound (s : State) (c : Ch) (bank : Nat) (hS : Sound Q τ s) :
    Sound Q τ (State.cullWork s c bank) := by
  simp +contextual (maxDischargeDepth := 40) [State.cullWork, hS]

@[simp] theorem State.writeBuoy_sound (s : State) (c : Ch) (bank block data : Nat) (hS : Sound Q τ s) :
    Sound Q τ (State.writeBuoy s c bank block data) := by
  unfold State.writeBuoy
  refine State.modChan_sound ?_ c fun x hx => ?_
  · simp +contextual (maxDischargeDepth := 40) [hS]
  · exact ⟨arr_wf_buoys hx _ _, hx.2⟩

@[simp] theorem State.settleRail_sound (s : State) (c : Ch) (hS : Sound Q τ s) :
    Sound Q τ (State.settleRail s c) := by
  simp +contextual (maxDischargeDepth := 40) [State.settleRail, hS]

@[simp] theorem State.endPass_sound (s : State) (c : Ch) (bank : Nat) (p : CalPass) (hS : Sound Q τ s) :
    Sound Q τ (State.endPass s c bank p) := by
  simp +contextual (maxDischargeDepth := 40) [State.endPass, hS]

@[simp] theorem State.replay_sound (s : State) (c : Ch) (at_ bank : Nat) (p : CalPass) (sense : Option CalSense) (hS : Sound Q τ s) :
    Sound Q τ (State.replay s c at_ bank p sense) := by
  unfold State.replay
  repeat' first
    | (extract_lets +onlyGivenNames s; first
        | (refine (fun (hS : Sound Q τ s) => ?_) ?_; clear_value s; have hW := hS.chan_wf; rotate_left; dsimp -zeta only [s]; clear s)
        | clear_value s)
    | split
  all_goals simp +contextual (maxDischargeDepth := 40) [*]

@[simp] theorem State.calBank_sound (c : Ch) (sense : List CalSense) (at_ : Nat) (s : State) (bank : Nat) (hS : Sound Q τ s) :
    Sound Q τ (State.calBank c sense at_ s bank) := by
  unfold State.calBank
  repeat' first
    | (extract_lets +onlyGivenNames s; (refine (fun (hS : Sound Q τ s) => ?_) ?_; clear_value s; have hW := hS.chan_wf; rotate_left; dsimp -zeta only [s]; clear s))
    | split
  all_goals simp +contextual (maxDischargeDepth := 40) [*]

theorem execCalSlot_sound (c : Ch) (sense : List CalSense) (s : State) (hS : Sound Q τ s) :
    SoundOut Q τ (execCalSlot c sense s) := by
  unfold execCalSlot
  (repeat' split) <;> simp +contextual (maxDischargeDepth := 40) [hS]

end Sys2Proof.Machine
end

