-- ==== Sys2Proof/Laws/SoundTide.lean ====
section
/-! SUPPORT. The operations of Machine/Tide.lean keep a state sound. -/

namespace Sys2Proof.Machine

variable {Q : List Instr} {τ : Nat}

@[simp] theorem State.tideAging_sound (s : State) (c : Ch) (hS : Sound Q τ s) :
    Sound Q τ (State.tideAging s c) := by
  simp +contextual (maxDischargeDepth := 40) [State.tideAging, hS]

@[simp] theorem State.tideScrub_sound (s : State) (c : Ch) (hS : Sound Q τ s) :
    Sound Q τ (State.tideScrub s c) := by
  simp +contextual (maxDischargeDepth := 40) [State.tideScrub, hS]

@[simp] theorem State.tideRail_sound (s : State) (c : Ch) (hS : Sound Q τ s) :
    Sound Q τ (State.tideRail s c) := by
  simp +contextual (maxDischargeDepth := 40) [State.tideRail, hS]

@[simp] theorem State.tideDrop_sound (s : State) (c : Ch) (hS : Sound Q τ s) :
    Sound Q τ (State.tideDrop s c) := by
  simp +contextual (maxDischargeDepth := 40) [State.tideDrop, hS]

@[simp] theorem State.tideCal_sound (s : State) (c : Ch) (hS : Sound Q τ s) :
    Sound Q τ (State.tideCal s c) := by
  simp +contextual (maxDischargeDepth := 40) [State.tideCal, hS]

theorem execTidePeriodBoundary_sound (c : Ch) (s : State) (hS : Sound Q τ s) :
    SoundOut Q τ (execTidePeriodBoundary c s) := by
  simp +contextual (maxDischargeDepth := 40) [execTidePeriodBoundary, hS]

theorem execModuleTidePeriod_sound (s : State) (hS : Sound Q τ s) :
    SoundOut Q τ (execModuleTidePeriod s) := by
  simp +contextual (maxDischargeDepth := 40) [execModuleTidePeriod, hS]

end Sys2Proof.Machine
end

