-- ==== Sys2Proof/Laws/SoundBoot.lean ====
section
/-! SUPPORT. The operations of Machine/Boot.lean keep a state sound. -/

namespace Sys2Proof.Machine

variable {Q : List Instr} {τ : Nat}

@[simp] theorem State.setNota_sound (s : State) (b : Bool) (hS : Sound Q τ s) :
    Sound Q τ (State.setNota s b) := by
  simp +contextual (maxDischargeDepth := 40) [State.setNota, hS]

theorem execResetNAssert_sound (s : State) (hS : Sound Q τ s) :
    SoundOut Q τ (execResetNAssert s) := by
  simp +contextual (maxDischargeDepth := 40) [execResetNAssert, hS]

theorem execResetNDeassert_sound (pos : BitVec 3) (s : State) (hS : Sound Q τ s) :
    SoundOut Q τ (execResetNDeassert pos s) := by
  simp +contextual (maxDischargeDepth := 40) [execResetNDeassert, hS]

theorem execPowerUpStart_sound (vinMv : Nat) (s : State) (hS : Sound Q τ s) :
    SoundOut Q τ (execPowerUpStart vinMv s) := by
  simp +contextual (maxDischargeDepth := 40) [execPowerUpStart, hS]

theorem execBasePllLock_sound (s : State) (hS : Sound Q τ s) :
    SoundOut Q τ (execBasePllLock s) := by
  simp +contextual (maxDischargeDepth := 40) [execBasePllLock, hS]

theorem execRefclkMissing_sound (s : State) (hS : Sound Q τ s) :
    SoundOut Q τ (execRefclkMissing s) := by
  simp +contextual (maxDischargeDepth := 40) [execRefclkMissing, hS]

@[simp] theorem State.bootFail_sound (s : State) (hS : Sound Q τ s) :
    Sound Q τ (State.bootFail s) := by
  simp +contextual (maxDischargeDepth := 40) [State.bootFail, hS]

@[simp] theorem State.bootLoad_sound (s : State) (slot : Bool) (hS : Sound Q τ s) :
    Sound Q τ (State.bootLoad s slot) := by
  simp +contextual (maxDischargeDepth := 40) [State.bootLoad, hS]

@[simp] theorem State.bootFallback_sound (s : State) (hS : Sound Q τ s) :
    Sound Q τ (State.bootFallback s) := by
  simp +contextual (maxDischargeDepth := 40) [State.bootFallback, hS]

theorem execBootImageCheck_sound (s : State) (hS : Sound Q τ s) :
    SoundOut Q τ (execBootImageCheck s) := by
  unfold execBootImageCheck
  (repeat' split) <;> simp +contextual (maxDischargeDepth := 40) [hS]

@[simp] theorem State.bootItems_sound : ∀ (l : List (Nat × Nat)) (s : State), Sound Q τ s → Sound Q τ (State.bootItems l s)
  | [], _, hS => hS
  | (a, v) :: t, s, hS => by
    unfold State.bootItems
    split
    · simp [hS]
    · dsimp only
      split
      · simp [hS]
      · exact State.bootItems_sound t _ (by simp [hS])

@[simp] theorem State.writeCoeffs_sound (s : State) (hS : Sound Q τ s) :
    Sound Q τ (State.writeCoeffs s) := by
  simp +contextual (maxDischargeDepth := 40) [State.writeCoeffs, hS]

@[simp] theorem State.bootOpen_sound (s : State) (img : List Byte) (hS : Sound Q τ s) :
    Sound Q τ (State.bootOpen s img) := by
  simp +contextual (maxDischargeDepth := 40) [State.bootOpen, hS]

theorem execBootConfigApply_sound (s : State) (hS : Sound Q τ s) :
    SoundOut Q τ (execBootConfigApply s) := by
  simp +contextual (maxDischargeDepth := 40) [execBootConfigApply, hS]

theorem execBootUpdateEnd_sound (written : Bool) (s : State) (hS : Sound Q τ s) :
    SoundOut Q τ (execBootUpdateEnd written s) := by
  unfold execBootUpdateEnd
  (repeat' split) <;> simp +contextual (maxDischargeDepth := 40) [hS]

theorem execJournalRecordClose_sound (c : Ch) (s : State) (hS : Sound Q τ s) :
    SoundOut Q τ (execJournalRecordClose c s) := by
  simp +contextual (maxDischargeDepth := 40) [execJournalRecordClose, hS]

@[simp] theorem State.autoSave_sound (s : State) (c : Ch) (hS : Sound Q τ s) :
    Sound Q τ (State.autoSave s c) := by
  unfold State.autoSave
  extract_lets x full s1
  have h1 : Sound Q τ s1 := by simp [s1, hS]
  clear_value s1 full
  split
  · exact hS
  · split
    · simp [h1]
    · next s' h => exact State.saveImage_sound _ _ _ _ h1 _ h

theorem execJournalRecordCommit_sound (c : Ch) (s : State) (hS : Sound Q τ s) :
    SoundOut Q τ (execJournalRecordCommit c s) := by
  unfold execJournalRecordCommit
  (repeat' split) <;> simp +contextual (maxDischargeDepth := 40) [hS]

end Sys2Proof.Machine
end

