-- ==== Sys2Proof/Tests/Slice0.lean ====
section
/-! SUPPORT. The writer's own tests: the spec's worked examples, an ill-formed term for each check of WellFormed, and, for
every statement with hypotheses, concrete states and operands that meet them (`test_<Statement>_<k>`, one for each clause
that other clauses' witnesses do not already meet). Each is one step, or less, on a small state built by the helpers of the
first section. -/

namespace Sys2Proof.Tests
set_option Elab.async false
open Sys2Proof Sys2Proof.Machine

/-! ## Helper states -/
/-- Store a list of register words. -/
def regs (s : State) (l : List (Nat × Nat)) : State := l.foldl (fun s p => s.setReg p.1 (BitVec.ofNat 32 p.2)) s
/-- A register access of host function 0 with all byte lanes. -/
def ra : RegAcc := ⟨0, 15, 5, 0, []⟩
/-- A port that is up. -/
def lup : LinkPort := { LinkPort.reset with state := .up, lanes := 0xFFFF, hostCr := [1000, 1000, 1000, 1000, 1000] }
def w3 : WordCell := mkWord 0x1234 (BitVec.allOnes 80) (mkEcf true true true 7)
def arr0 : ArrayMem := ⟨[(3, w3)], [], [(1, mkAd 0x1122334455667788)], []⟩
def mgr0 : Mgr := { Mgr.reset with up := true }
def x0 : Chan := { Chan.reset with
  power := .on, ready := true, arr := arr0, mgr := mgr0
  profs := [(2, ⟨true, 1, false, 130, [5], none, [false]⟩), (4, ⟨true, 1, false, 650, [5], some 3, [true]⟩)] }
def rights0 : List (Nat × Nat) :=
  (List.range 18).map (fun i => (modR (0x7000 + 4 * i), 0xFFFFFFFF)) ++ [(modR 0x7180, 0xFFFFFFFF)]
/-- Profile 2: one lookup of table 5, identity key. Profile 4: the same with an extended AD read and a flow lookup that learns. -/
def profs0 : List (Nat × Nat) :=
  [(chI 0 0x200800, 1), (chI 0 0x200820, 5 + 2048), (chI 0 0x201000, 1), (chI 0 0x201018, 2 + 3 * 8 + 2 ^ 14 + 2 ^ 13),
   (chI 0 0x201020, 5 + 2048 + 1024)]
def flash0 : Flash := ⟨[], [], false, [], [], [], 0, 0, [], 0, false, false⟩
def base : State := { State.reset with
  now := 1000, host := lup
  pwr := { Supply.reset with on := true, vin := 48000, bank := 70000, inputOk := true, holdupOk := true }
  boot := { Boot.reset with stage := 4, ready := true, imgA := [], imgB := [], revoked := 0, flash := Quad.all flash0 }
  time := { State.reset.time with seconds := 100, nanos := 5, valid := true }
  ch := ⟨x0, Chan.reset, Chan.reset, { Chan.reset with power := .idle, mgr := mgr0 }⟩ }
/-- Channel 0 ON with table 5 (one block), flow table 3 and two profiles, channel 3 IDLE, host function 0 with every right. -/
def s0 : State := regs base (rights0 ++ profs0 ++ [(modR 0x1000, 0x19), (chR 0 4, 1), (chR 0 0x1000, 7), (chR 0 0x2008, 0x11), (chR 0 0x2010, 0x11),
  (chR 0 0x1414, 1 + 8), (chR 0 0x4000, 0xF), (chR 0 0x4130, 1 + 10 * 2), (chI 0 0x100000, 1 + 5 * 8)])
/-- Channel 0 changed. -/
def ch0 (f : Chan → Chan) (s : State := s0) : State := s.modChan 0 f

/-! searches -/
def f0 : SearchFrame := ⟨0, 0, 2, 9, 0, 0, false, 0x77, 0, 0x1234, false⟩
def f4 : SearchFrame := { f0 with profile := 4 }
def rel0 : RelRec := ⟨0, 0, 9, 0, 0x77, 2, 0, 1000, false, 130, false, false, false, none, 1000⟩
def charge0 : Charge := ⟨0, false, false, 1, 2⟩
def sAcc : State := { s0 with vc0 := [.search f0 900 1] }
def sFull : State := ch0 (fun x => { x with charges := List.replicate 2048 charge0 }) sAcc
def sIn : State := ch0 (fun x => { x with charges := [charge0], ingress := [(.search f0 0 false false false 1, 1144)] }) { s0 with rels := [rel0] }
def sInC : State := ch0 (fun x => { x with charges := [charge0], ingress := [(.cancel 0 false, 1300)] }) { s0 with rels := [rel0] }
/-- The context of the search, ready to start its stage; and of the search with flow work. -/
def kOf (f : SearchFrame) : Ctx := { s0.bodyCtx 0 f 0 false false 1 with readyAt := 1200 }
def k0 : Ctx := kOf f0
def look0 : Look := {
  table := 5, stage := 0, groups := 1, started := true, performed := true, finished := false, failed := false, degraded := false,
  ext := false, key := 0x1234, blocks := [⟨0, 0, some ⟨0, 0, 3, 7, 0⟩, 1, true⟩], record := missRec false false, doneAt := 0 }
def kL : Ctx := { k0 with phase := .launched, looks := [look0] }
def rec0 : LookupRec := { missRec false false with hit := true, prio := 7, index := 3, ad := 0x11223344 }
def kA : Ctx := { k0 with phase := .assembling, looks := [{ look0 with finished := true, record := rec0 }], lastAdAt := 1700 }
def withCtx (k : Ctx) : State := ch0 (fun x => { x with charges := [charge0], ctxs := [k] }) { s0 with rels := [rel0] }
def sCtx : State := withCtx k0
def sLaunch : State := withCtx kL
def sLook : State := withCtx kA
def res0 : Result := kA.result
def sEgr : State := ch0 (fun x => { x with charges := [charge0], freed := [(0, false, 1900)], egress := [⟨0, false, res0, 1900⟩] }) { s0 with rels := [rel0] }
def sRel : State := { s0 with rels := [{ rel0 with result := some res0, completeAt := 2000 }] }
def sOut : State := { s0 with egr := { s0.egr with vc1 := [⟨9, resultBytes 0 9 0x77 res0, 900⟩] } }

/-! extended AD and flow work -/
def e0 : ExtWork := ⟨0, some 1800, false, 0⟩
def kE : Ctx := { kOf f4 with phase := .assembling, exts := [e0], looks := [{ look0 with finished := true, ext := true, record := rec0 }] }
def sExt : State := withCtx kE
def kF : Ctx := { kE with exts := [], deadline := 20000 }
def sFl : State := withCtx kF
def key4 : BitVec 640 := BitVec.ofNat 640 (flowKeyOf kF.body f4 kF.adOf)
def bks : Nat × Nat := s0.flowBuckets 0 3 key4.toNat
def tk0 : Ticket := ⟨0, .ctx 0, 3, key4, 0, bks.1, bks.2, [], true, 1100, none, 0, false⟩
def fl0 (e : FlowEngine → FlowEngine) (s : State := sFl) : State := ch0 (fun x => { x with flow := e x.flow }) s
def sTk : State := fl0 (fun e => { e with tickets := [tk0], nextTicket := 1 })
def tkG : Ticket := { tk0 with granted := some 1150, linesAt := 1200 }
def kT : Ctx := { kF with flow := .arrived 0 }
def line (slot : Nat) (arrived : Bool) (d : BitVec 512 := 0) (b6 : BitVec 8 := 0) : CacheLine := ⟨slot, d, if d = 0 then 0 else mkSb d b6, arrived, false, 1150, 1150⟩
def lines0 (f : Nat → CacheLine) : List CacheLine := (s0.ticketSlots 0 tk0).map f
def sComm (lines : List CacheLine) : State := fl0 (fun e => { e with tickets := [tkG], nextTicket := 1, lines := lines }) (withCtx kT)
def sNew : State := sComm (lines0 (fun i => line i true))
def recF : BitVec 512 := mkFlow (s0.flowKey 0 3 key4.toNat bks.1 bks.2).headKey 5 700 99000 3 0xABCD
def sHit : State := sComm (lines0 (fun i => if i = s0.bucketSlot 0 3 bks.2 + 1 then line i true recF (mkB6 1 0 false) else line i true))

/-! background engines -/
def pen1 : PenEntry := mkPen ⟨recF, mkSb recF (mkB6 1 0 false)⟩ 3 bks.1 bks.2 7
def sPen : State := fl0 (fun e => { e with pen := [(7, pen1)] }) s0
def slotsFull : List (Nat × HbmSlot) :=
  (slots4 (s0.bucketSlot 0 3 bks.2) ++ slots4 (s0.bucketSlot 0 3 bks.1)).map (fun i =>
    let d := mkFlow (i + 1) 1 1 0 0 0
    (i, (⟨d, mkSb d (mkB6 1 0 false)⟩ : HbmSlot)))
def sPenFull : State := ch0 (fun x => { x with hbm := slotsFull }) sPen
def sAge : State := ch0 (fun x => { x with hbm := [(5, ⟨recF, mkSb recF (mkB6 1 0 false)⟩)] }) (fl0 (fun e => { e with ageStart := 3 * 2 ^ 25 + 1 }) (regs s0 [(chR 0 0x4260, 50), (chR 0 0x4130, 1 + 10 * 2 + 256)]))

/-! time and cascade -/
def tm0 (f : ModTime → ModTime) (s : State := s0) : State := { s with time := f s.time }
def sTod (sec : Nat) (ctl : Nat) : State := tm0 (fun t => { t with tod := [(sec, 900)] }) (regs s0 [(modR 0x5000, ctl)])
/-- Position 1 of a group of three, enabled, both neighbours up; group flag of profile 2. -/
def sCas (pos : Nat) (more : List (Nat × Nat) := []) (s : State := s0) : State :=
  regs { s with casc := { s.casc with pos := pos, reach := 2 }, up := lup, dn := lup }
    ([(modR 0x6000, 1), (modR 0x6004, 2 + 0x4000), (modR 0x6010, 4)] ++ more)
def hdr0 : CascHdr := ⟨0, 7, 0, false⟩
def part0 : CascPart := ⟨7, 0, 0, 0, 9, 0x77, [false], none, false, none, none⟩
def withPart (p : CascPart) (s : State) : State := { s with casc := { s.casc with parts := [p] } }

/-! mailboxes and commands -/
def req0 (code : Nat) (ps : List Nat) : List Byte :=
  toBytes 1 code ++ [0] ++ toBytes 2 0x102 ++ toBytes 2 ps.length ++ toBytes 10 0 ++ ps.map (BitVec.ofNat 8)
/-- The bytes of a number, most significant first. -/
def nb (n v : Nat) : List Nat := (toBytes n v).map (·.toNat)
def exec0 (code : Nat) (ps : List Nat) (phase : Nat := 0) (nums : List Nat := []) : Exec :=
  { Exec.none with mbx := 0, hf := 0, req := padTo 256 (req0 code ps), phase := phase, nums := nums, since := 900 }
def mg (f : Mgr → Mgr) (s : State := s0) : State := ch0 (fun x => { x with mgr := f x.mgr }) s
/-- Oluek knows table 5: width 80, group 0, every AD bit in the key, block 0. -/
def sM : State := mg (fun m => { m with tables := [(5, ⟨0, false, 1, 0xFFFFFFFF, [0]⟩)] })
/-- Executor 2 runs a command, holding some locks. -/
def cmd (e : Exec) (held : List Nat := []) (s : State := sM) : State :=
  mg (fun m => { m with
    execs := [(2, e)], boxes := m.boxes.set 0 ⟨.running, e.req⟩
    locks := held.zipIdx.map (fun p => (p.2, ⟨p.1, 2, 800⟩)) }) s
def items0 : List MItem := [⟨2, ecfItem 5 3 0⟩]

/-! ## Deciding the shared hypotheses -/

/-- The invariant, as a computation. -/
def invB (s : State) : Bool :=
  swf regReset s.regs && decide (s.ev.queue.length ≤ 1024) &&
    (List.finRange 4).all (fun c => (s.chan c).arr.wf && hbmWf (s.chan c).hbm && spadWf (s.chan c).spad && (s.chan c).mgr.boxes.length == 16)
theorem inv_of {s : State} (h : invB s = true) : s.Inv := by
  simp only [invB, Bool.and_eq_true, decide_eq_true_eq, List.all_eq_true, beq_iff_eq] at h
  exact ⟨h.1.1, h.1.2, fun c => by have := h.2 c (List.mem_finRange c); exact ⟨this.1.1.1, this.1.1.2, this.1.2, this.2⟩⟩
theorem turn_of {s : State} {c : Ch} {x : Nat} {e : Exec} {code : Nat}
    (h : (s.chan c).mgr.exec? x = some e ∧ e.code = code ∧ e.mbx ≠ 16 ∧ (s.chan c).mgr.up = true ∧ e.broken = none ∧ e.want = [] ∧ e.resp = none) :
    Turn s c x e code := ⟨h.1, h.2.1, h.2.2.1, h.2.2.2.1, h.2.2.2.2.1, h.2.2.2.2.2.1, h.2.2.2.2.2.2⟩
theorem served_of {s : State} {a : RegAcc} {region off : Nat} {write : Bool}
    (h : s.host.isUp = true ∧ s.vc2 = [] ∧ a.rivals = [] ∧ s.egr.completions.length < 256 ∧ a.be = 15 ∧ s.mayReg a.hf region (off / 0x1000) write = true ∧
      (region = 0 ∨ baseBlock off = true ∨ (s.chan (Fin.ofNat 4 (region - 1))).power = .on ∨
        (s.chan (Fin.ofNat 4 (region - 1))).power = .idle)) : Served s a region off write :=
  ⟨h.1, h.2.1, h.2.2.1, h.2.2.2.1, h.2.2.2.2.1, h.2.2.2.2.2.1, h.2.2.2.2.2.2⟩

theorem evenOf {rs : List (FPlace × Bool)}
    (h : rs.all (fun p => match p with | (.slot 1 i, true) => decide (i % 2 = 0) | _ => true) = true) :
    ∀ i, (FPlace.slot 1 i, true) ∈ rs → i % 2 = 0 := by
  intro i hi
  simpa using List.all_eq_true.1 h _ hi
theorem noExec {m : Mgr} (h : m.execs = []) : ∀ (y : ℕ) (e : Exec), m.exec? y = some e → e.resp = none := by
  intro y e he
  simp [Mgr.exec?, h] at he
theorem length_toBytes (n v : Nat) : (toBytes n v).length = n := by induction n with
  | zero => rfl
  | succ n ih => simp [toBytes, ih]
/-- An image without flows and extended AD fits while its items fill at most 14,000 MiB. -/
theorem saveImage_fits {s : State} {c : Ch} {flows ext : Bool} (hf : flows = false) (he : ext = false)
    (hi : (s.flash c).images = []) (hn : (s.imageRegs c ++ s.imageArray c).length ≤ 400000000) :
    s.saveImage c flows ext ≠ none := by
  have key : ∀ l : List (BitVec 256), ((l.map (fun i => toBytes 32 i.toNat)).flatten).length = 32 * l.length := by
    intro l
    induction l with
    | nil => rfl
    | cons a l ih => simp only [List.map_cons, List.flatten_cons, List.length_append, length_toBytes, ih, List.length_cons]; omega
  subst hf he
  unfold State.saveImage
  simp only [hi, List.length_nil, makeRoom, List.map_nil, List.foldl_nil, Bool.false_eq_true, if_false, List.append_nil]
  rw [if_neg]
  · simp
  · unfold imageBytes
    simp only [List.length_append, length_toBytes, padTo, List.length_take, List.length_replicate, key, roundUp, imageArea]
    simp only [List.length_append] at hn
    omega

theorem job_all {m : Mgr} {P : Job → Prop} (h8 : ∀ j ∈ m.mig, P j) (h9 : ∀ j ∈ m.rep, P j) : ∀ (h : ℕ) (j : Job), m.job h = some j → P j := by
  intro h j hj
  unfold Mgr.job at hj
  split at hj
  · exact h8 j hj
  · exact h9 j hj
theorem jobs_of {s : State} {c : Ch}
    (h8 : ∀ j ∈ (s.chan c).mgr.mig, j.step = 0 → s.bit (blkR c (j.src / 33) (j.src % 33)) 0 = true)
    (h9 : ∀ j ∈ (s.chan c).mgr.rep, j.step = 0 → s.bit (blkR c (j.src / 33) (j.src % 33)) 0 = true) : JobsKeepSource s c :=
  job_all h8 h9
theorem asks_one {m : Mgr} {y : Nat} (h : (y < 8 → ∀ k ∈ (m.exec? y).bind Exec.request, (m.lock? k).isSome = true) ∧
    (8 ≤ y → m.groupFree (m.job y) = false)) : m.asksNothing y := ⟨fun hy k hk => h.1 hy k hk, h.2⟩
theorem asks_of {m : Mgr} {l : List Nat} (h : ∀ y ∈ l, (y < 8 → ∀ k ∈ (m.exec? y).bind Exec.request, (m.lock? k).isSome = true) ∧
    (8 ≤ y → m.groupFree (m.job y) = false)) : ∀ y ∈ l, m.asksNothing y := fun y hy => asks_one (h y hy)
theorem asks_low {m : Mgr} {l : List Nat} (h : ∀ y ∈ l, y < 8 → ∀ k ∈ (m.exec? y).bind Exec.request, (m.lock? k).isSome = true) :
    ∀ y ∈ l, y < 8 → m.asksNothing y := fun y hy h8 => asks_one ⟨h y hy, fun h9 => absurd h8 (by omega)⟩
/-- The state after a command, where it answers one. -/
def nx : Host.Outcome State Fault Refusal → State
  | .next t => t
  | _ => State.reset
theorem nx_eq {o : Host.Outcome State Fault Refusal} (h : (match o with | .next _ => true | _ => false) = true) : o = .next (nx o) := by
  cases o <;> simp_all [nx]

/-! ## The invariant of the shared states -/

theorem inv_sAcc : sAcc.Inv := inv_of (by decide +kernel)
theorem inv_sFull : sFull.Inv := inv_of (by decide +kernel)
theorem inv_s0 : s0.Inv := inv_of (by decide +kernel)
theorem inv_sIn : sIn.Inv := inv_of (by decide +kernel)
theorem inv_sCtx : sCtx.Inv := inv_of (by decide +kernel)
theorem inv_sLaunch : sLaunch.Inv := inv_of (by decide +kernel)
theorem inv_sEgr : sEgr.Inv := inv_of (by decide +kernel)
theorem inv_sRel : sRel.Inv := inv_of (by decide +kernel)
theorem inv_sOut : sOut.Inv := inv_of (by decide +kernel)
theorem inv_sExt : sExt.Inv := inv_of (by decide +kernel)
theorem inv_sNew : sNew.Inv := inv_of (by decide +kernel)
theorem inv_sPen : sPen.Inv := inv_of (by decide +kernel)
theorem inv_sAge : sAge.Inv := inv_of (by decide +kernel)
theorem inv_sM : sM.Inv := inv_of (by decide +kernel)
theorem inv_sTk : sTk.Inv := inv_of (by decide +kernel)

/-! Searches from acceptance to release -/
namespace Searches
theorem test_AcceptanceOpensARecord_1 :
    (sAcc.Inv) ∧
    (sFull.Inv) ∧
    (sAcc.vc0 = [Vc0.search f0 900 1]) ∧
    ((sAcc.atTime (roundUp (max sAcc.now (900 + nsT 90)) linkCycle)).mustHold
        ((sAcc.atTime (roundUp (max sAcc.now (900 + nsT 90)) linkCycle)).judge f0) f0 =
      false) ∧
    (sFull.vc0 = [Vc0.search f0 900 1]) ∧
    ((sFull.atTime (roundUp (max sFull.now (900 + nsT 90)) linkCycle)).mustHold
        ((sFull.atTime (roundUp (max sFull.now (900 + nsT 90)) linkCycle)).judge f0) f0 =
      true) :=
  ⟨inv_sAcc, inv_sFull, by decide +kernel⟩
theorem test_CancelActs_1 :
    (s0.Inv) ∧
    (sIn.Inv) ∧
    (sAcc.vc0 ≠ []) ∧
    (sIn.vc0 = []) ∧
    (sIn.bit (modR 8192) 0 = true) ∧
    (List.find? (fun q => q.hf == (0 : Hf) && q.tag == (119 : BitVec 16) && !sIn.releaseDue q) sIn.rels = some rel0) ∧
    (sIn.bit (modR 8192) 0 = false ∨ ∀ q ∈ sIn.rels, q.hf = (0 : Hf) → q.tag ≠ (120 : BitVec 16)) :=
  ⟨inv_s0, inv_sIn, by decide +kernel⟩
def z3 := (withCtx {k0 with phase := .cancelled})
def z4 := ({k0 with phase := .cancelled})
theorem inv_z3 : z3.Inv := inv_of (by decide +kernel)
theorem test_CancelActs_2 :
    (z3.Inv) ∧
    ((z3.chan (0 : Ch)).ctx? ↑(0 : Fin 2048) = some z4) ∧
    (z4.phase = CtxPhase.cancelled) :=
  ⟨inv_z3, by decide +kernel⟩
def z5 := (ch0 (fun x => {x with ctxs := [kL]}) sInC)
theorem inv_z5 : z5.Inv := inv_of (by decide +kernel)
theorem test_CancelActs_3 :
    (z5.Inv) ∧
    ((z5.chan (0 : Ch)).ingress = [(Ingress.cancel 0 false, 1300)]) ∧
    (List.find? (fun k => k.gsn == 0 && k.forwarded == false)
        ((z5.fillLaunch (0 : Ch) (max z5.now 1300 - 1)).chan (0 : Ch)).ctxs =
      some kL) ∧
    (kL.phase ≠ CtxPhase.cancelled) ∧
    (kL.action ≠ 3) :=
  ⟨inv_z5, by decide +kernel⟩
theorem test_ChannelIngressAllocates_1 :
    (sIn.Inv) ∧
    ((sIn.chan (0 : Ch)).ingress = [(Ingress.search f0 0 false false false 1, 1144)]) ∧
    ((sIn.chan (0 : Ch)).ctxs.length < 2048) :=
  ⟨inv_sIn, by decide +kernel⟩
theorem test_SearchSlotLaunches_1 :
    (sCtx.Inv) ∧
    (sCtx.nextSlot (0 : Ch) 0 (sCtx.freeCycle (0 : Ch) (sCtx.cycleAt (0 : Ch) (sCtx.launchStart (0 : Ch)))) =
      some
        ((sCtx.nextSlot (0 : Ch) 0
              (sCtx.freeCycle (0 : Ch) (sCtx.cycleAt (0 : Ch) (sCtx.launchStart (0 : Ch))))).getD
          0)) :=
  ⟨inv_sCtx, by decide +kernel⟩
theorem test_LookupDoneRecords_1 :
    (sLaunch.Inv) ∧
    ((sLaunch.chan (0 : Ch)).ctx? ↑(0 : Fin 2048) = some kL) ∧
    (kL.phase = CtxPhase.launched) :=
  ⟨inv_sLaunch, by decide +kernel⟩
theorem test_ResultLeavesTheChannel_1 :
    (sEgr.Inv) ∧
    ((sLook.chan (0 : Ch)).ctx? ↑(0 : Fin 2048) = some kA) ∧
    (kA.phase = CtxPhase.assembling) ∧
    (kA.dep = 0) ∧
    ((sLook.chan (0 : Ch)).cancelDue kA (max sLook.now kA.assembledAt) = false) ∧
    ((sEgr.chan (0 : Ch)).freed = [(0, false, 1900)]) ∧
    ((sEgr.chan (0 : Ch)).egress = [{ gsn := 0, forwarded := false, result := res0, at_ := 1900 : Egress }]) ∧
    (sEgr.isGroupResult { gsn := 0, forwarded := false, result := res0, at_ := 1900 : Egress } = false) :=
  ⟨inv_sEgr, by decide +kernel⟩
def z11 := ({ rel0 with result := some res0, completeAt := 2000 })
theorem test_ReleaseInDomainOrder_1 :
    (sRel.Inv) ∧
    (List.find? (fun r => domKey r.hf r.dom == ↑(9 : Fin 512)) sRel.rels = some z11) ∧
    (z11.result = some res0) ∧
    (sRel.host.isUp = true) :=
  ⟨inv_sRel, by decide +kernel⟩
theorem test_EgressCycle_1 :
    (sOut.Inv) ∧
    (sOut.host.state = LinkState.up) ∧
    (sOut.host.txNext < 8192) ∧
    (sOut.vc2 = []) ∧
    (sOut.host.isUp = true) :=
  ⟨inv_sOut, by decide +kernel⟩
end Searches

/-! Extended AD reads, flow work and its background turns -/
namespace Flows
theorem test_ExtAdReadPlaces_1 :
    (sExt.Inv) ∧
    ((sExt.chan (0 : Ch)).ctx? ↑(0 : Fin 2048) = some kE) ∧
    (List.find? (fun e => e.lookup == ↑(0 : Fin 4)) kE.exts = some e0) ∧
    (e0.issuedAt.isSome = true) ∧
    (e0.finished = false) ∧
    (kE.phase ≠ CtxPhase.cancelled) ∧
    (sExt.extAt (0 : Ch) e0 ≤ kE.deadline) :=
  ⟨inv_sExt, by decide +kernel⟩
theorem test_FlowCommitOutcome_1 :
    (sNew.Inv) ∧
    (∀ (l i : ℕ),
      (((sNew.flowDue (0 : Ch)).readPlaces (0 : Ch)
                    ((sNew.flowDue (0 : Ch)).flowKey (0 : Ch) tkG.table tkG.key.toNat tkG.b1 tkG.b2)).chan
                (0 : Ch)).find
            ((sNew.flowDue (0 : Ch)).flowKey (0 : Ch) tkG.table tkG.key.toNat tkG.b1 tkG.b2) =
          Found.at_ (FPlace.slot l i) →
        ((sNew.flowDue (0 : Ch)).flowKey (0 : Ch) tkG.table tkG.key.toNat tkG.b1 tkG.b2).double = true →
          i % 2 = 0) ∧
    (List.find? (fun t => t.id == 0) ((sNew.flowDue (0 : Ch)).chan (0 : Ch)).flow.tickets = some tkG) ∧
    (tkG.owner = FlowOwner.ctx 0) ∧
    (((sNew.flowDue (0 : Ch)).chan (0 : Ch)).ctx? 0 = some kT) ∧
    (kT.num = 0) ∧
    (kT.flow = FlowPhase.arrived 0) ∧
    (kT.flowReadyAt = some (kT.flowReadyAt.getD 0)) ∧
    ((sNew.flowDue (0 : Ch)).ticketReady (0 : Ch) tkG = true) ∧
    (max
        (max
          ((sNew.flowDue (0 : Ch)).ticketTime (0 : Ch) tkG
            (((sNew.flowDue (0 : Ch)).readPlaces (0 : Ch)
                  ((sNew.flowDue (0 : Ch)).flowKey (0 : Ch) tkG.table tkG.key.toNat tkG.b1 tkG.b2)).mustCreate
              (0 : Ch) kT ((sNew.flowDue (0 : Ch)).flowKey (0 : Ch) tkG.table tkG.key.toNat tkG.b1 tkG.b2)
              ((((sNew.flowDue (0 : Ch)).readPlaces (0 : Ch)
                        ((sNew.flowDue (0 : Ch)).flowKey (0 : Ch) tkG.table tkG.key.toNat tkG.b1 tkG.b2)).chan
                    (0 : Ch)).find
                ((sNew.flowDue (0 : Ch)).flowKey (0 : Ch) tkG.table tkG.key.toNat tkG.b1 tkG.b2))))
          (kT.flowReadyAt.getD 0 + nsT 2))
        sNew.now ≤
      kT.deadline) ∧
    (((sNew.flowDue (0 : Ch)).chan (0 : Ch)).cancelDue kT
        (max
          (max
            ((sNew.flowDue (0 : Ch)).ticketTime (0 : Ch) tkG
              (((sNew.flowDue (0 : Ch)).readPlaces (0 : Ch)
                    ((sNew.flowDue (0 : Ch)).flowKey (0 : Ch) tkG.table tkG.key.toNat tkG.b1 tkG.b2)).mustCreate
                (0 : Ch) kT ((sNew.flowDue (0 : Ch)).flowKey (0 : Ch) tkG.table tkG.key.toNat tkG.b1 tkG.b2)
                ((((sNew.flowDue (0 : Ch)).readPlaces (0 : Ch)
                          ((sNew.flowDue (0 : Ch)).flowKey (0 : Ch) tkG.table tkG.key.toNat tkG.b1 tkG.b2)).chan
                      (0 : Ch)).find
                  ((sNew.flowDue (0 : Ch)).flowKey (0 : Ch) tkG.table tkG.key.toNat tkG.b1 tkG.b2))))
            (kT.flowReadyAt.getD 0 + nsT 2))
          sNew.now) =
      false) ∧
    (tkG.table < 16) ∧
    (tkG.lines = true) :=
  ⟨inv_sNew, fun _ _ _ h => absurd h (by decide +kernel), by decide +kernel⟩
def tkR : Ticket := ⟨0, .reloc 7, 3, 0, 0, bks.1, bks.2, [], true, 1100, some 1150, 1200, false⟩
def sRel1 (lines : List CacheLine) : State := fl0 (fun e => {e with tickets := [tkR], nextTicket := 1, lines := lines}) sPen
def linesR (f : Nat → CacheLine) : List CacheLine := (s0.ticketSlots 0 tkR).map f
def sRelF : State := sRel1 (linesR (fun i => line i true (mkFlow (i + 1) 1 1 0 0 0) (mkB6 1 0 false)))
theorem test_FlowBackgroundTurns_1 :
    (sPen.Inv) ∧
    ((sPen.flowDue (0 : Ch)).flowRuns (0 : Ch) = true) ∧
    (sPen.bit (chR (0 : Ch) 16384) 3 = true) ∧
    (((sPen.flowDue (0 : Ch)).chan (0 : Ch)).penTurn = some (7, pen1)) ∧
    ((sPen.flowDue (0 : Ch)).engineReady (0 : Ch) FlowOwner.isReloc
        (some (((sPen.flowDue (0 : Ch)).chan (0 : Ch)).flow.relocAt + nsT 64)) =
      none) :=
  ⟨inv_sPen, by decide +kernel⟩
def z15 := (sRel1 (linesR (fun i => line i true)))
theorem inv_z15 : z15.Inv := inv_of (by decide +kernel)
theorem test_FlowBackgroundTurns_2 :
    (z15.Inv) ∧
    ((z15.flowDue (0 : Ch)).flowRuns (0 : Ch) = true) ∧
    (z15.bit (chR (0 : Ch) 16384) 3 = true) ∧
    ((z15.flowDue (0 : Ch)).engineReady (0 : Ch) FlowOwner.isReloc
        (Option.map (fun x => ((z15.flowDue (0 : Ch)).chan (0 : Ch)).flow.relocAt + nsT 64)
          ((z15.flowDue (0 : Ch)).chan (0 : Ch)).penTurn) =
      some tkR) ∧
    (tkR.owner = FlowOwner.reloc 7) ∧
    ((((z15.flowDue (0 : Ch)).chan (0 : Ch)).penEntry 7).occ = (1 : BitVec 2) ∨
      (((z15.flowDue (0 : Ch)).chan (0 : Ch)).penEntry 7).occ = (2 : BitVec 2)) ∧
    ((((z15.flowDue (0 : Ch)).chan (0 : Ch)).penEntry 7).table = tkR.table) ∧
    ((((z15.flowDue (0 : Ch)).chan (0 : Ch)).penEntry 7).b1 = tkR.b1) ∧
    ((((z15.flowDue (0 : Ch)).chan (0 : Ch)).penEntry 7).b2 = tkR.b2) ∧
    (z15.ftParity (0 : Ch) (((z15.flowDue (0 : Ch)).chan (0 : Ch)).penEntry 7).table = false) ∧
    (z15.bit (ftR (0 : Ch) (((z15.flowDue (0 : Ch)).chan (0 : Ch)).penEntry 7).table) 0 = true) ∧
    ((((List.foldl (fun s b => s.fixBucket (0 : Ch) (s.bucketSlot (0 : Ch) (((z15.flowDue (0 : Ch)).chan (0 : Ch)).penEntry 7).table b)) ((z15.flowDue (0 : Ch)).atTime (max z15.now ((z15.flowDue (0 : Ch)).ticketTime (0 : Ch) tkR false))) tkR.buckets).fixPenRecord (0 : Ch) (((z15.flowDue (0 : Ch)).chan (0 : Ch)).penPlace 7)).chan (0 : Ch)).recordBad (((z15.flowDue (0 : Ch)).chan (0 : Ch)).penPlace 7, { ((z15.flowDue (0 : Ch)).flowKey (0 : Ch) (((z15.flowDue (0 : Ch)).chan (0 : Ch)).penEntry 7).table 0 (((z15.flowDue (0 : Ch)).chan (0 : Ch)).penEntry 7).b1 (((z15.flowDue (0 : Ch)).chan (0 : Ch)).penEntry 7).b2) with double := (((z15.flowDue (0 : Ch)).chan (0 : Ch)).penEntry 7).occ == (2 : BitVec 2) }.double) = false) ∧
    (∀
      i ∈
        ((List.foldl
                  (fun s b =>
                    s.fixBucket (0 : Ch)
                      (s.bucketSlot (0 : Ch) (((z15.flowDue (0 : Ch)).chan (0 : Ch)).penEntry 7).table b))
                  ((z15.flowDue (0 : Ch)).atTime (max z15.now ((z15.flowDue (0 : Ch)).ticketTime (0 : Ch) tkR false)))
                  tkR.buckets).fixPenRecord
              (0 : Ch) (((z15.flowDue (0 : Ch)).chan (0 : Ch)).penPlace 7)).ticketSlots
          (0 : Ch) tkR,
      ((((List.foldl
                        (fun s b =>
                          s.fixBucket (0 : Ch)
                            (s.bucketSlot (0 : Ch) (((z15.flowDue (0 : Ch)).chan (0 : Ch)).penEntry 7).table b))
                        ((z15.flowDue (0 : Ch)).atTime
                          (max z15.now ((z15.flowDue (0 : Ch)).ticketTime (0 : Ch) tkR false)))
                        tkR.buckets).fixPenRecord
                    (0 : Ch) (((z15.flowDue (0 : Ch)).chan (0 : Ch)).penPlace 7)).chan
                (0 : Ch)).flowSlot
            i).bad =
        false) ∧
    (List.filter (fun b => !tkR.buckets.contains b) (((List.foldl (fun s b => s.fixBucket (0 : Ch) (s.bucketSlot (0 : Ch) (((z15.flowDue (0 : Ch)).chan (0 : Ch)).penEntry 7).table b)) ((z15.flowDue (0 : Ch)).atTime (max z15.now ((z15.flowDue (0 : Ch)).ticketTime (0 : Ch) tkR false))) tkR.buckets).fixPenRecord (0 : Ch) (((z15.flowDue (0 : Ch)).chan (0 : Ch)).penPlace 7)).relocNeeds (0 : Ch) { ((z15.flowDue (0 : Ch)).flowKey (0 : Ch) (((z15.flowDue (0 : Ch)).chan (0 : Ch)).penEntry 7).table 0 (((z15.flowDue (0 : Ch)).chan (0 : Ch)).penEntry 7).b1 (((z15.flowDue (0 : Ch)).chan (0 : Ch)).penEntry 7).b2) with double := (((z15.flowDue (0 : Ch)).chan (0 : Ch)).penEntry 7).occ == (2 : BitVec 2) }) = []) ∧
    (((List.foldl (fun s b => s.fixBucket (0 : Ch) (s.bucketSlot (0 : Ch) (((z15.flowDue (0 : Ch)).chan (0 : Ch)).penEntry 7).table b)) ((z15.flowDue (0 : Ch)).atTime (max z15.now ((z15.flowDue (0 : Ch)).ticketTime (0 : Ch) tkR false))) tkR.buckets).fixPenRecord (0 : Ch) (((z15.flowDue (0 : Ch)).chan (0 : Ch)).penPlace 7)).relocPlan (0 : Ch) { ((z15.flowDue (0 : Ch)).flowKey (0 : Ch) (((z15.flowDue (0 : Ch)).chan (0 : Ch)).penEntry 7).table 0 (((z15.flowDue (0 : Ch)).chan (0 : Ch)).penEntry 7).b1 (((z15.flowDue (0 : Ch)).chan (0 : Ch)).penEntry 7).b2) with double := (((z15.flowDue (0 : Ch)).chan (0 : Ch)).penEntry 7).occ == (2 : BitVec 2) } = some (FPlace.slot 1 1356, [])) :=
  ⟨inv_z15, by decide +kernel⟩
theorem inv_sRelF : sRelF.Inv := inv_of (by decide +kernel)
theorem test_FlowBackgroundTurns_3 :
    (sRelF.Inv) ∧
    ((sRelF.flowDue (0 : Ch)).flowRuns (0 : Ch) = true) ∧
    (sRelF.bit (chR (0 : Ch) 16384) 3 = true) ∧
    ((sRelF.flowDue (0 : Ch)).engineReady (0 : Ch) FlowOwner.isReloc
        (Option.map (fun x => ((sRelF.flowDue (0 : Ch)).chan (0 : Ch)).flow.relocAt + nsT 64)
          ((sRelF.flowDue (0 : Ch)).chan (0 : Ch)).penTurn) =
      some tkR) ∧
    (tkR.owner = FlowOwner.reloc 7) ∧
    ((((sRelF.flowDue (0 : Ch)).chan (0 : Ch)).penEntry 7).occ = (1 : BitVec 2) ∨
      (((sRelF.flowDue (0 : Ch)).chan (0 : Ch)).penEntry 7).occ = (2 : BitVec 2)) ∧
    ((((sRelF.flowDue (0 : Ch)).chan (0 : Ch)).penEntry 7).table = tkR.table) ∧
    ((((sRelF.flowDue (0 : Ch)).chan (0 : Ch)).penEntry 7).b1 = tkR.b1) ∧
    ((((sRelF.flowDue (0 : Ch)).chan (0 : Ch)).penEntry 7).b2 = tkR.b2) ∧
    (sRelF.ftParity (0 : Ch) (((sRelF.flowDue (0 : Ch)).chan (0 : Ch)).penEntry 7).table = false) ∧
    (sRelF.bit (ftR (0 : Ch) (((sRelF.flowDue (0 : Ch)).chan (0 : Ch)).penEntry 7).table) 0 = true) ∧
    ((((List.foldl (fun s b => s.fixBucket (0 : Ch) (s.bucketSlot (0 : Ch) (((sRelF.flowDue (0 : Ch)).chan (0 : Ch)).penEntry 7).table b)) ((sRelF.flowDue (0 : Ch)).atTime (max sRelF.now ((sRelF.flowDue (0 : Ch)).ticketTime (0 : Ch) tkR false))) tkR.buckets).fixPenRecord (0 : Ch) (((sRelF.flowDue (0 : Ch)).chan (0 : Ch)).penPlace 7)).chan (0 : Ch)).recordBad (((sRelF.flowDue (0 : Ch)).chan (0 : Ch)).penPlace 7, { ((sRelF.flowDue (0 : Ch)).flowKey (0 : Ch) (((sRelF.flowDue (0 : Ch)).chan (0 : Ch)).penEntry 7).table 0 (((sRelF.flowDue (0 : Ch)).chan (0 : Ch)).penEntry 7).b1 (((sRelF.flowDue (0 : Ch)).chan (0 : Ch)).penEntry 7).b2) with double := (((sRelF.flowDue (0 : Ch)).chan (0 : Ch)).penEntry 7).occ == (2 : BitVec 2) }.double) = false) ∧
    (∀
      i ∈
        ((List.foldl
                  (fun s b =>
                    s.fixBucket (0 : Ch)
                      (s.bucketSlot (0 : Ch) (((sRelF.flowDue (0 : Ch)).chan (0 : Ch)).penEntry 7).table b))
                  ((sRelF.flowDue (0 : Ch)).atTime
                    (max sRelF.now ((sRelF.flowDue (0 : Ch)).ticketTime (0 : Ch) tkR false)))
                  tkR.buckets).fixPenRecord
              (0 : Ch) (((sRelF.flowDue (0 : Ch)).chan (0 : Ch)).penPlace 7)).ticketSlots
          (0 : Ch) tkR,
      ((((List.foldl
                        (fun s b =>
                          s.fixBucket (0 : Ch)
                            (s.bucketSlot (0 : Ch) (((sRelF.flowDue (0 : Ch)).chan (0 : Ch)).penEntry 7).table b))
                        ((sRelF.flowDue (0 : Ch)).atTime
                          (max sRelF.now ((sRelF.flowDue (0 : Ch)).ticketTime (0 : Ch) tkR false)))
                        tkR.buckets).fixPenRecord
                    (0 : Ch) (((sRelF.flowDue (0 : Ch)).chan (0 : Ch)).penPlace 7)).chan
                (0 : Ch)).flowSlot
            i).bad =
        false) ∧
    (List.filter (fun b => !tkR.buckets.contains b) (((List.foldl (fun s b => s.fixBucket (0 : Ch) (s.bucketSlot (0 : Ch) (((sRelF.flowDue (0 : Ch)).chan (0 : Ch)).penEntry 7).table b)) ((sRelF.flowDue (0 : Ch)).atTime (max sRelF.now ((sRelF.flowDue (0 : Ch)).ticketTime (0 : Ch) tkR false))) tkR.buckets).fixPenRecord (0 : Ch) (((sRelF.flowDue (0 : Ch)).chan (0 : Ch)).penPlace 7)).relocNeeds (0 : Ch) { ((sRelF.flowDue (0 : Ch)).flowKey (0 : Ch) (((sRelF.flowDue (0 : Ch)).chan (0 : Ch)).penEntry 7).table 0 (((sRelF.flowDue (0 : Ch)).chan (0 : Ch)).penEntry 7).b1 (((sRelF.flowDue (0 : Ch)).chan (0 : Ch)).penEntry 7).b2) with double := (((sRelF.flowDue (0 : Ch)).chan (0 : Ch)).penEntry 7).occ == (2 : BitVec 2) }) ≠ []) :=
  ⟨inv_sRelF, by decide +kernel⟩
def tkA : Ticket := ⟨0, .age, 3, 0, 0, 1, 1, [], true, 1100, some 1150, 1200, false⟩
def sAgeR (lines : List CacheLine) : State := fl0 (fun e => {e with tickets := [tkA], ageIssued := 1, nextTicket := 1, lines := lines}) (regs sAge [(chR 0 0x4010, 1)])
def linesA (f : Nat → CacheLine) : List CacheLine := (s0.ticketSlots 0 tkA).map f
theorem test_FlowBackgroundTurns_4 :
    (sAge.Inv) ∧
    ((sAge.flowDue (0 : Ch)).ageRuns (0 : Ch) = true) ∧
    (((sAge.flowDue (0 : Ch)).chan (0 : Ch)).flow.ageIssued < (sAge.flowDue (0 : Ch)).ageBudget (0 : Ch)) ∧
    (agePos ((sAge.flowDue (0 : Ch)).agedTables (0 : Ch)) ((sAge.flowDue (0 : Ch)).chan (0 : Ch)).flow.ageStart
        ((sAge.flowDue (0 : Ch)).chan (0 : Ch)).flow.ageIssued =
      some (3, 1)) ∧
    (∀ (tk : Ticket),
      List.find? (fun q => q.owner.isAge) ((sAge.flowDue (0 : Ch)).chan (0 : Ch)).flow.tickets = some tk →
        (sAge.flowDue (0 : Ch)).readyBy (0 : Ch)
            (some ((sAge.flowDue (0 : Ch)).ageTime (0 : Ch) ((sAge.flowDue (0 : Ch)).chan (0 : Ch)).flow.ageIssued))
            tk =
          false) :=
  ⟨inv_sAge, by decide +kernel⟩
def z17 := (sAgeR (linesA (fun i => if i = 5 then line i true recF (mkB6 1 0 false) else line i true)))
theorem inv_z17 : z17.Inv := inv_of (by decide +kernel)
theorem test_FlowBackgroundTurns_5 :
    (z17.Inv) ∧
    (∀ (i : ℕ),
      (FPlace.slot 1 i, true) ∈
          ((((z17.flowDue (0 : Ch)).atTime
                        (max z17.now ((z17.flowDue (0 : Ch)).ticketTime (0 : Ch) tkA false))).fixBucket
                    (0 : Ch) (z17.bucketSlot (0 : Ch) tkA.table tkA.b1)).chan
                (0 : Ch)).bucketRecords
            (z17.ftDouble (0 : Ch) tkA.table) (z17.bucketSlot (0 : Ch) tkA.table tkA.b1) →
        i % 2 = 0) ∧
    ((z17.flowDue (0 : Ch)).ageRuns (0 : Ch) = true) ∧
    (List.find? (fun q => q.owner.isAge) ((z17.flowDue (0 : Ch)).chan (0 : Ch)).flow.tickets = some tkA) ∧
    ((z17.flowDue (0 : Ch)).readyBy (0 : Ch)
        (Option.map
          (fun x => (z17.flowDue (0 : Ch)).ageTime (0 : Ch) ((z17.flowDue (0 : Ch)).chan (0 : Ch)).flow.ageIssued)
          (if (z17.flowDue (0 : Ch)).ageBudget (0 : Ch) ≤ ((z17.flowDue (0 : Ch)).chan (0 : Ch)).flow.ageIssued then
            none
          else
            agePos ((z17.flowDue (0 : Ch)).agedTables (0 : Ch)) ((z17.flowDue (0 : Ch)).chan (0 : Ch)).flow.ageStart
              ((z17.flowDue (0 : Ch)).chan (0 : Ch)).flow.ageIssued))
        tkA =
      true) ∧
    (tkA.lines = true) ∧
    (z17.ftParity (0 : Ch) tkA.table = false) ∧
    (z17.bit (ftR (0 : Ch) tkA.table) 0 = true) ∧
    (tkA.table < 16) ∧
    (z17.bit (ftR (0 : Ch) tkA.table) 8 = false ∨
      (z17.chan (0 : Ch)).flow.exports.length +
          (List.filter
              (fun r =>
                !((((z17.flowDue (0 : Ch)).atTime
                                  (max z17.now ((z17.flowDue (0 : Ch)).ticketTime (0 : Ch) tkA false))).fixBucket
                              (0 : Ch) (z17.bucketSlot (0 : Ch) tkA.table tkA.b1)).chan
                          (0 : Ch)).recordBad
                      r &&
                  z17.expired (0 : Ch) tkA.table
                    (((((z17.flowDue (0 : Ch)).atTime
                                  (max z17.now ((z17.flowDue (0 : Ch)).ticketTime (0 : Ch) tkA false))).fixBucket
                              (0 : Ch) (z17.bucketSlot (0 : Ch) tkA.table tkA.b1)).chan
                          (0 : Ch)).at
                      r.1))
              (((((z17.flowDue (0 : Ch)).atTime
                            (max z17.now ((z17.flowDue (0 : Ch)).ticketTime (0 : Ch) tkA false))).fixBucket
                        (0 : Ch) (z17.bucketSlot (0 : Ch) tkA.table tkA.b1)).chan
                    (0 : Ch)).bucketRecords
                (z17.ftDouble (0 : Ch) tkA.table) (z17.bucketSlot (0 : Ch) tkA.table tkA.b1))).length ≤
        2048) :=
  ⟨inv_z17, evenOf (by decide +kernel), by decide +kernel⟩
def z19 := (fl0 (fun e => {e with penDone := 7}) sPen)
theorem inv_z19 : z19.Inv := inv_of (by decide +kernel)
theorem test_FlowBackgroundTurns_6 :
    (sPen.Inv) ∧
    (z19.Inv) ∧
    ((sPen.flowDue (0 : Ch)).ageRuns (0 : Ch) = true) ∧
    (((sPen.flowDue (0 : Ch)).chan (0 : Ch)).flow.penDone < 4096) ∧
    ((sPen.flowDue (0 : Ch)).engineReady (0 : Ch) FlowOwner.isPen
        (some
          (((sPen.flowDue (0 : Ch)).chan (0 : Ch)).revTime
            (((sPen.flowDue (0 : Ch)).chan (0 : Ch)).flow.penDone *
                ((sPen.flowDue (0 : Ch)).chan (0 : Ch)).maint.tideRevs /
              4096))) =
      none) ∧
    ((((sPen.flowDue (0 : Ch)).chan (0 : Ch)).penEntry ((sPen.flowDue (0 : Ch)).chan (0 : Ch)).flow.penDone).occ =
        (0 : BitVec 2) ∨
      (((sPen.flowDue (0 : Ch)).chan (0 : Ch)).penEntry ((sPen.flowDue (0 : Ch)).chan (0 : Ch)).flow.penDone).occ =
        (3 : BitVec 2)) ∧
    ((z19.flowDue (0 : Ch)).ageRuns (0 : Ch) = true) ∧
    (((z19.flowDue (0 : Ch)).chan (0 : Ch)).flow.penDone < 4096) ∧
    ((z19.flowDue (0 : Ch)).engineReady (0 : Ch) FlowOwner.isPen
        (some
          (((z19.flowDue (0 : Ch)).chan (0 : Ch)).revTime
            (((z19.flowDue (0 : Ch)).chan (0 : Ch)).flow.penDone *
                ((z19.flowDue (0 : Ch)).chan (0 : Ch)).maint.tideRevs /
              4096))) =
      none) ∧
    ((((z19.flowDue (0 : Ch)).chan (0 : Ch)).penEntry ((z19.flowDue (0 : Ch)).chan (0 : Ch)).flow.penDone).occ =
        (1 : BitVec 2) ∨
      (((z19.flowDue (0 : Ch)).chan (0 : Ch)).penEntry ((z19.flowDue (0 : Ch)).chan (0 : Ch)).flow.penDone).occ =
        (2 : BitVec 2)) :=
  ⟨inv_sPen, inv_z19, by decide +kernel⟩
def tkP : Ticket := ⟨0, .agePen 7, 3, 0, 0, bks.1, bks.2, [], false, 1100, some 1100, 1100, false⟩
def z20 := (fl0 (fun e => {e with penDone := 4096, pen := [(7, pen1)], tickets := [tkP], nextTicket := 1}) sAge)
theorem inv_z20 : z20.Inv := inv_of (by decide +kernel)
theorem test_FlowBackgroundTurns_7 :
    (z20.Inv) ∧
    ((z20.flowDue (0 : Ch)).ageRuns (0 : Ch) = true) ∧
    ((z20.flowDue (0 : Ch)).engineReady (0 : Ch) FlowOwner.isPen
        (if ((z20.flowDue (0 : Ch)).chan (0 : Ch)).flow.penDone < 4096 then
          some
            (((z20.flowDue (0 : Ch)).chan (0 : Ch)).revTime
              (((z20.flowDue (0 : Ch)).chan (0 : Ch)).flow.penDone *
                  ((z20.flowDue (0 : Ch)).chan (0 : Ch)).maint.tideRevs /
                4096))
        else none) =
      some tkP) ∧
    (tkP.owner = FlowOwner.agePen 7) ∧
    ((((z20.flowDue (0 : Ch)).chan (0 : Ch)).penEntry 7).occ = (1 : BitVec 2) ∨
      (((z20.flowDue (0 : Ch)).chan (0 : Ch)).penEntry 7).occ = (2 : BitVec 2)) ∧
    ((((z20.flowDue (0 : Ch)).chan (0 : Ch)).penEntry 7).table = tkP.table) ∧
    (z20.ftParity (0 : Ch) (((z20.flowDue (0 : Ch)).chan (0 : Ch)).penEntry 7).table = false) ∧
    (tkP.table < 16) ∧
    (z20.bit (ftR (0 : Ch) (((z20.flowDue (0 : Ch)).chan (0 : Ch)).penEntry 7).table) 8 = false ∨
      (z20.chan (0 : Ch)).flow.exports.length < 2048) :=
  ⟨inv_z20, by decide +kernel⟩
end Flows

/-! Channel states, profiles and slack water -/
namespace ChannelRows
def sP (p : ChPower) (f : Chan → Chan := id) : State := ch0 (fun x => f {x with power := p}) s0
def z21 := (sP .off)
def z22 := (sP .idle)
def z23 := (regs (sP .on) [(chR 0 4, 0)])
def z24 := (regs (sP .on (fun x => {x with req := some .idle})) [(chR 0 4, 4)])
theorem inv_z21 : z21.Inv := inv_of (by decide +kernel)
theorem inv_z22 : z22.Inv := inv_of (by decide +kernel)
theorem inv_z23 : z23.Inv := inv_of (by decide +kernel)
theorem inv_z24 : z24.Inv := inv_of (by decide +kernel)
theorem test_ChannelStateRequests_1 :
    (z21.Inv) ∧
    (Served z21 ra (chRegion (0 : Ch)) 4) ∧
    (z22.Inv) ∧
    (Served z22 ra (chRegion (0 : Ch)) 4) ∧
    (z23.Inv) ∧
    (Served z23 ra (chRegion (0 : Ch)) 4) ∧
    (z24.Inv) ∧
    (Served z24 ra (chRegion (0 : Ch)) 4) ∧
    (ra.hw = (0 : Word)) ∧
    ((z21.chan (0 : Ch)).power = ChPower.off) ∧
    ((z21.chan (0 : Ch)).req = none) ∧
    (z21.field (chCtrl (0 : Ch)) 1 2 = 0) ∧
    ((z22.chan (0 : Ch)).power = ChPower.idle) ∧
    ((z22.chan (0 : Ch)).req = none) ∧
    (z22.field (chCtrl (0 : Ch)) 1 2 = 0) ∧
    ((z22.chan (0 : Ch)).faulted = false) ∧
    ((z23.chan (0 : Ch)).power = ChPower.on) ∧
    ((z23.chan (0 : Ch)).req = none) ∧
    (z23.field (chCtrl (0 : Ch)) 1 2 = 0) ∧
    ((z23.chan (0 : Ch)).faulted = false) ∧
    (z23.bit (chCtrl (0 : Ch)) 0 = false) ∧
    ((z24.chan (0 : Ch)).req = some StateReq.idle) ∧
    (StateReq.idle ≠ StateReq.on) ∧
    (z24.field (chCtrl (0 : Ch)) 1 2 ≠ 0) :=
  ⟨inv_z21, served_of (by decide +kernel), inv_z22, served_of (by decide +kernel), inv_z23, served_of (by decide +kernel), inv_z24, served_of (by decide +kernel), by decide +kernel⟩
def dirtyL : CacheLine := {line 5 true recF with dirty := true}
def z27 := (regs (sP .on (fun x => {x with req := some .idle, flow := {x.flow with lines := [dirtyL]}})) [(chR 0 4, 4)])
def z28 := (regs (sP .idle (fun x => {x with req := some .on, ready := false})) [(chR 0 4, 2)])
def z29 := (regs (sP .idle (fun x => {x with req := some .off})) [(chR 0 4, 6)])
def z30 := (regs (sP .wake (fun x => {x with req := some .on, mgr := {x.mgr with up := true}})) [(chR 0 4, 2)])
theorem inv_z27 : z27.Inv := inv_of (by decide +kernel)
theorem inv_z28 : z28.Inv := inv_of (by decide +kernel)
theorem inv_z29 : z29.Inv := inv_of (by decide +kernel)
theorem inv_z30 : z30.Inv := inv_of (by decide +kernel)
theorem test_ChannelStateChanges_1 :
    (z27.Inv) ∧
    (z28.Inv) ∧
    (z29.Inv) ∧
    (z30.Inv) ∧
    ((z27.chan (0 : Ch)).power = ChPower.on) ∧
    ((z27.chan (0 : Ch)).req = some StateReq.idle) ∧
    ((z27.chan (0 : Ch)).charges = []) ∧
    ((z27.chan (0 : Ch)).flow.exports = [] ∨ (z27.chan (0 : Ch)).faulted = true) ∧
    ((z28.chan (0 : Ch)).power = ChPower.idle) ∧
    ((z28.chan (0 : Ch)).req = some StateReq.on) ∧
    ((z28.chan (0 : Ch)).maint.periodic = [] ∧ (z28.chan (0 : Ch)).maint.cur = [] ∧ (z28.chan (0 : Ch)).maint.prio = [] ∨
      (z28.chan (0 : Ch)).reqAt + msT 2 ≤ z28.now) ∧
    ((z29.chan (0 : Ch)).power = ChPower.idle) ∧
    ((z29.chan (0 : Ch)).req = some StateReq.off) ∧
    (∀ p ∈ (z29.chan (0 : Ch)).mgr.execs, p.2.mbx = 16) ∧
    ((z30.chan (0 : Ch)).power = ChPower.wake) :=
  ⟨inv_z27, inv_z28, inv_z29, inv_z30, by decide +kernel⟩
theorem test_ProfileEnables_1 :
    (s0.Inv) ∧
    (Served s0 ra (chRegion (0 : Ch)) (8192 + 4 * ↑(2 : Fin 64))) ∧
    (Served s0 ra (chRegion (0 : Ch)) (8192 + 4 * ↑(3 : Fin 64))) ∧
    (Served s0 ra (chRegion (0 : Ch)) (16640 + 16 * ↑(5 : Fin 16))) ∧
    (ra.hw = (0 : Word)) ∧
    (s0.bit (profR (0 : Ch) ↑(2 : Fin 64)) 0 = true) ∧
    (s0.bit (profR (0 : Ch) ↑(3 : Fin 64)) 0 = false) ∧
    (s0.bit (profR (0 : Ch) ↑(4 : Fin 64)) 0 = true) ∧
    (s0.bit (profR (0 : Ch) ↑(9 : Fin 64)) 0 = false) ∧
    (s0.bit (ftR (0 : Ch) ↑(5 : Fin 16)) 0 = false) :=
  ⟨inv_s0, served_of (by decide +kernel), served_of (by decide +kernel), served_of (by decide +kernel), by decide +kernel⟩
def sEp (e : Epochs → Epochs) : State := ch0 (fun x => {x with ep := e x.ep}) s0
def z35 := (sEp (fun e => {e with st1 := .staged, stagedWork := [3]}))
def z36 := (sEp (fun e => {e with st1 := .staged, armed := true}))
def z37 := (sEp (fun e => {e with st1 := .slack}))
def z38 := (sEp (fun e => {e with st1 := .retiring, retireWork := [3]}))
theorem inv_z35 : z35.Inv := inv_of (by decide +kernel)
theorem inv_z36 : z36.Inv := inv_of (by decide +kernel)
theorem inv_z37 : z37.Inv := inv_of (by decide +kernel)
theorem inv_z38 : z38.Inv := inv_of (by decide +kernel)
theorem test_EpochTriggers_1 :
    (z35.Inv) ∧
    (Served z35 ra (chRegion (0 : Ch)) 20496) ∧
    (z36.Inv) ∧
    (Served z36 ra (chRegion (0 : Ch)) 20496) ∧
    (z37.Inv) ∧
    (Served z37 ra (chRegion (0 : Ch)) 20496) ∧
    (z38.Inv) ∧
    (Served z38 ra (chRegion (0 : Ch)) 20496) ∧
    ((z35.chan (0 : Ch)).othState = EpState.staged) ∧
    ((z35.chan (0 : Ch)).ep.armed = false) ∧
    ((z35.chan (0 : Ch)).ep.commitAt = none) ∧
    ((z36.chan (0 : Ch)).ep.armed = true) ∧
    (z36.schedDue (0 : Ch) = false) ∧
    ((z37.chan (0 : Ch)).othState = EpState.slack) ∧
    ((z38.chan (0 : Ch)).othState = EpState.retiring) :=
  ⟨inv_z35, served_of (by decide +kernel), inv_z36, served_of (by decide +kernel), inv_z37, served_of (by decide +kernel), inv_z38, served_of (by decide +kernel), by decide +kernel⟩
theorem test_EpochTriggers_2 :
    (s0.Inv) ∧
    (Served s0 ra (chRegion (0 : Ch)) 20496) ∧
    ((s0.chan (0 : Ch)).othState ≠ EpState.free ∨
      s0.epochNum (0 : Ch) (s0.chan (0 : Ch)).othSlot = s0.epochNum (0 : Ch) (s0.chan (0 : Ch)).curSlot) ∧
    ((s0.chan (0 : Ch)).othState ≠ EpState.staged ∨
      (s0.chan (0 : Ch)).ep.armed = true ∨ (s0.chan (0 : Ch)).ep.commitAt ≠ none) ∧
    (s0.mayArm (0 : Ch) = false) ∧
    ((s0.chan (0 : Ch)).ep.armed = false ∨ s0.schedDue (0 : Ch) = true) ∧
    ((s0.chan (0 : Ch)).othState ≠ EpState.slack) ∧
    ((s0.chan (0 : Ch)).othState ≠ EpState.retiring) :=
  ⟨inv_s0, served_of (by decide +kernel), by decide +kernel⟩
def z43 := (regs (sEp (fun e => {e with st1 := .staged})) [(chR 0 0x5014, 1), (chR 0 0x501C, 7)])
theorem inv_z43 : z43.Inv := inv_of (by decide +kernel)
theorem test_EpochTriggers_3 :
    (z43.Inv) ∧
    (Served z43 ra (chRegion (0 : Ch)) 20496) ∧
    (z43.mayArm (0 : Ch) = true) :=
  ⟨inv_z43, served_of (by decide +kernel), by decide +kernel⟩
def sFire (f : ModTime → ModTime) : State := tm0 (fun t => f {t with tickAt := 960}) (sEp (fun e => {e with st1 := .staged, armed := true}))
def z46 := (sEp (fun e => {e with st1 := .staged, commitAt := some 5000, stagedWork := [3]}))
theorem inv_z46 : z46.Inv := inv_of (by decide +kernel)
theorem test_CommitAndSlackWater_1 :
    ((sFire id).Inv) ∧
    (z46.Inv) ∧
    (((sFire id).chan (0 : Ch)).ep.armed = true) ∧
    ((sFire id).time.valid = true) ∧
    (((sFire id).chan (0 : Ch)).ep.armTick < (sFire id).time.tickAt) ∧
    ((sFire id).schedNs (0 : Ch) ≤ (sFire id).timeNs) ∧
    ((s0.chan (0 : Ch)).ep.armed = false ∨
      s0.time.valid = false ∨ s0.time.tickAt ≤ (s0.chan (0 : Ch)).ep.armTick ∨ s0.timeNs < s0.schedNs (0 : Ch)) ∧
    ((z46.chan (0 : Ch)).ep.commitAt = some 5000) :=
  ⟨inv_of (by decide +kernel), inv_z46, by decide +kernel⟩
def z47 := (sEp (fun e => {e with st1 := .slack, slackStart := 700, slackUs := 50}))
theorem inv_z47 : z47.Inv := inv_of (by decide +kernel)
theorem test_CommitAndSlackWater_2 :
    (z47.Inv) ∧
    ((z47.chan (0 : Ch)).othState = EpState.slack) ∧
    (∀ k ∈ (z47.chan (0 : Ch)).ctxs, k.action ≠ 3 → k.epochSlot ≠ (z47.chan (0 : Ch)).othSlot) :=
  ⟨inv_z47, by decide +kernel⟩
def swM (m : Mgr → Mgr) (w : List Nat) : State := ch0 (fun x => {x with mgr := m x.mgr}) (sEp (fun e => {e with st1 := .retiring, retireWork := w}))
def swE (l : List Nat) : Mgr → Mgr := fun m => {m with execs := [(2, {Exec.sweep 900 with want := l})], sweeping := true, locks := [(0, ⟨2, 2, 800⟩)]}
def swF : Mgr → Mgr := fun m => {m with execs := [(2, exec0 0x23 [] 1)], locks := [(0, ⟨2, 2, 800⟩)]}
theorem test_CommitAndSlackWater_3 :
    (((swM id [3, 5000]).chan (0 : Ch)).othState = EpState.retiring) ∧
    (((swM id [3, 5000]).chan (0 : Ch)).mgr.up = true) ∧
    (((swM id [3, 5000]).chan (0 : Ch)).power = ChPower.on) ∧
    (((swM id [3, 5000]).chan (0 : Ch)).mgr.sweepHolder = none) ∧
    (List.find? (fun h => (((swM id [3, 5000]).chan (0 : Ch)).mgr.exec? h).isNone) (List.range 8) =
      some 0) ∧
    (((swM id [3, 5000]).chan (0 : Ch)).mgr.keysOf 0 = []) ∧
    ((swM id [3, 5000]).writing (0 : Ch) 0 = false) ∧
    (((swM id [3, 5000]).chan (0 : Ch)).ep.retireWork = [3, 5000]) ∧
    (((swM (swE []) []).chan (0 : Ch)).othState = EpState.retiring) ∧
    (((swM (swE []) []).chan (0 : Ch)).mgr.up = true) ∧
    (((swM (swE []) []).chan (0 : Ch)).power = ChPower.on) ∧
    (((swM (swE []) []).chan (0 : Ch)).mgr.sweepHolder = some 2) ∧
    (((swM (swE []) []).chan (0 : Ch)).mgr.exec? 2 = some { mbx := 16, hf := 0, req := [BitVec.ofNat 8 35], phase := 1, want := [], broken := none, attempt := 0, nums := [], since := 900, resp := none, jpos := none, encTold := false : Exec }) ∧
    ({ mbx := 16, hf := 0, req := [BitVec.ofNat 8 35], phase := 1, want := [], broken := none, attempt := 0, nums := [], since := 900, resp := none, jpos := none, encTold := false : Exec }.broken = none) ∧
    ({ mbx := 16, hf := 0, req := [BitVec.ofNat 8 35], phase := 1, want := [], broken := none, attempt := 0, nums := [], since := 900, resp := none, jpos := none, encTold := false : Exec }.want = []) ∧
    (((swM (swE []) []).chan (0 : Ch)).ep.retireWork = []) ∧
    ((swM (swE []) []).writing (0 : Ch) 2 = false) ∧
    (((swM (swE [7]) [5]).chan (0 : Ch)).othState = EpState.retiring) ∧
    (((swM (swE [7]) [5]).chan (0 : Ch)).mgr.up = true) ∧
    (((swM (swE [7]) [5]).chan (0 : Ch)).power = ChPower.on) ∧
    (((swM (swE [7]) [5]).chan (0 : Ch)).mgr.sweepHolder = some 2) ∧
    (((swM (swE [7]) [5]).chan (0 : Ch)).mgr.exec? 2 = some { mbx := 16, hf := 0, req := [BitVec.ofNat 8 35], phase := 1, want := [7], broken := none, attempt := 0, nums := [], since := 900, resp := none, jpos := none, encTold := false : Exec }) ∧
    ({ mbx := 16, hf := 0, req := [BitVec.ofNat 8 35], phase := 1, want := [7], broken := none, attempt := 0, nums := [], since := 900, resp := none, jpos := none, encTold := false : Exec }.broken.isSome = true ∨ { mbx := 16, hf := 0, req := [BitVec.ofNat 8 35], phase := 1, want := [7], broken := none, attempt := 0, nums := [], since := 900, resp := none, jpos := none, encTold := false : Exec }.want ≠ []) ∧
    (((swM swF []).chan (0 : Ch)).othState = EpState.retiring) ∧
    (((swM swF []).chan (0 : Ch)).mgr.up = true) ∧
    (((swM swF []).chan (0 : Ch)).power = ChPower.on) :=
  by decide +kernel
end ChannelRows

/-! Wake, drain and ebb tide of a channel -/
namespace ChannelRows2
def sE1 := regs s0 [(chR 0 0x5008, 3)]
theorem inv_sE1 : sE1.Inv := inv_of (by decide +kernel)
theorem test_EpochTriggers_4 :
    (sE1.Inv) ∧
    (Served sE1 ra (chRegion (0 : Ch)) 20496) ∧
    ((sE1.chan (0 : Ch)).othState = EpState.free) ∧
    (sE1.epochNum (0 : Ch) (sE1.chan (0 : Ch)).othSlot ≠ sE1.epochNum (0 : Ch) (sE1.chan (0 : Ch)).curSlot) :=
  ⟨inv_sE1, served_of (by decide +kernel), by decide +kernel⟩
end ChannelRows2

/-! Time and the cascade -/
namespace Cascade
def sT3 := tm0 (fun t => {t with setPending := true}) (regs s0 [(modR 0x5014, 7), (modR 0x5018, 9), (modR 0x501C, 2^30-1)])
theorem inv_sT3 : sT3.Inv := inv_of (by decide +kernel)
theorem test_TimeTicks_1 :
    (sT3.Inv) ∧
    (s0.time.setPending = false) ∧
    (s0.time.nanos < 1000000000) ∧
    (sT3.time.setPending = true) :=
  ⟨inv_sT3, by decide +kernel⟩
def fW : Vc2 := .bulkRead 0 0 5 0 0
def sVcW : State := {s0 with vc2 := [fW, fW], egr := {s0.egr with completions := List.replicate 256 ⟨0,0,[1],none⟩}}
def p1 := sTod 100 7
theorem inv_p1 : p1.Inv := inv_of (by decide +kernel)
theorem test_PpsDisciplines_1 :
    (p1.Inv) ∧
    ((∃ at_, p1.todFrame = some (100, at_)) ∨
      p1.todFrame = none ∧
        (p1.time.nanos < 500000000 ∧ 100 = p1.time.seconds ∨
          500000000 < p1.time.nanos ∧ 100 = p1.time.seconds + 1)) ∧
    (s0.bit (modR 20480) 0 = false ∨ true ≠ s0.bit (modR 20480) 3) ∧
    (p1.bit (modR 20480) 0 = true) ∧
    (↑p1.timeNs - ↑(100 * 1000000000 + p1.field (modR 20516) 0 16) < (2 : ℤ) ^ 31) ∧
    (-(2 : ℤ) ^ 31 ≤ ↑p1.timeNs - ↑(100 * 1000000000 + p1.field (modR 20516) 0 16)) :=
  ⟨inv_p1, by first | exact Or.inl ⟨_, rfl⟩ | exact Or.inr (by decide +kernel), by decide +kernel⟩
theorem test_TimeCommands_1 :
    (s0.Inv) ∧
    (p1.Inv) ∧
    (Served p1 ra 0 20512) ∧
    (Served p1 ra 0 20488 false) ∧
    (s0.vc2 = []) ∧
    (sVcW.vc2 = [fW, fW]) ∧
    (sVcW.vc2Waits fW = true) ∧
    (p1.time.tod.getLast? = some (100, 900)) :=
  ⟨inv_s0, inv_p1, served_of (by decide +kernel), served_of (by decide +kernel), by decide +kernel⟩
def c1 := sCas 1
def c2 := sCas 1 [(modR 0x6000, 3)]
def c4 := withPart part0 (sCas 1)
def c5 := { sCas 1 with casc := { (sCas 1).casc with substituted := [7] } }
theorem inv_c1 : c1.Inv := inv_of (by decide +kernel)
theorem inv_c2 : c2.Inv := inv_of (by decide +kernel)
theorem inv_c4 : c4.Inv := inv_of (by decide +kernel)
theorem inv_c5 : c5.Inv := inv_of (by decide +kernel)
theorem test_CascadeFramesArrive_1 :
    (c1.Inv) ∧
    (c2.Inv) ∧
    (c4.Inv) ∧
    (c5.Inv) ∧
    (c1.casc.pos ≠ 0) ∧
    (c1.cascOn = true) ∧
    (c1.bypassing = false) ∧
    (c1.admitsAt (c1.routeOf hdr0.ch) = true) ∧
    ((sCas 0).casc.pos = 0 ∨ (sCas 0).cascOn = false) ∧
    (c2.casc.pos ≠ 0) ∧
    (c2.cascOn = true) ∧
    (c2.bypassing = true ∨ c2.admitsAt (c2.routeOf hdr0.ch) = false) ∧
    (c4.casc.pos ≠ 0) ∧
    (c4.cascOn = true) ∧
    (List.find? (fun p => p.gsn == hdr0.gsn.toNat && p.own.isNone) c4.casc.parts = some part0) ∧
    (c4.casc.substituted.contains hdr0.gsn.toNat = false) ∧
    (c5.casc.substituted.contains hdr0.gsn.toNat = true) :=
  ⟨inv_c1, inv_c2, inv_c4, inv_c5, by decide +kernel⟩
def pm : CascPart := { part0 with own := some (res0, false), below := some (res0, true) }
def c6 := withPart pm (sCas 1)
def c7 := withPart pm {sCas 0 with rels := [{rel0 with gsn := 7, group := true}]}
def c8 := { withPart pm (sCas 1) with casc := { (withPart pm (sCas 1)).casc with merge := ⟨[], [[1,2,3]], [[4],[5]], []⟩, ranks := [2,3,0,1] } }
def rx1 : LookupRec := {rec0 with index := 2}
def mm := (mergeResults res0 res0 false (part0.ownsFlow 1), true)
theorem inv_c8 : c8.Inv := inv_of (by decide +kernel)
theorem test_BackwashMerges_1 :
    (c6.casc.pos = c6.cascLast ∧ pm.own = some mm ∨
      c6.casc.pos ≠ c6.cascLast ∧
        ∃ a b,
          pm.own = some a ∧ pm.below = some b ∧ mm = (mergeResults a.1 b.1 a.2 (pm.ownsFlow c6.casc.pos), a.2 || b.2)) ∧
    (c7.casc.pos = c7.cascLast ∧ pm.own = some mm ∨
      c7.casc.pos ≠ c7.cascLast ∧
        ∃ a b,
          pm.own = some a ∧ pm.below = some b ∧ mm = (mergeResults a.1 b.1 a.2 (pm.ownsFlow c7.casc.pos), a.2 || b.2)) ∧
    (c8.Inv) ∧
    (List.find? (fun p => p.gsn == BitVec.toNat (7 : BitVec 14)) c6.casc.parts = some pm) ∧
    (c6.casc.pos ≠ 0) ∧
    (c6.up.isUp = true) ∧
    (List.find? (fun p => p.gsn == BitVec.toNat (7 : BitVec 14)) c7.casc.parts = some pm) ∧
    (c7.casc.pos = 0) ∧
    ((List.find? (fun q => q.gsn == pm.gsn && q.result.isNone) c7.rels).isSome = true) ∧
    ((rec0, (5 : BitVec 512)).1.hit = true) ∧
    ((rx1, (6 : BitVec 512)).1.hit = true) ∧
    ((rec0, (5 : BitVec 512)).1.prio = (rx1, (6 : BitVec 512)).1.prio) ∧
    (c8.bit (modR 12304) 0 = false) ∧
    ((rotate c8.casc.ranks fun i => !(c8.casc.merge.get (Fin.ofNat 4 i)).isEmpty) =
      some (↑(2 : Ch), [3, 0, 1, 2])) ∧
    (c8.casc.merge.get (2 : Ch) = [[(4 : Byte)], [(5 : Byte)]]) :=
  ⟨Or.inr ⟨by decide +kernel, (res0, false), (res0, true), by decide +kernel⟩, Or.inr ⟨by decide +kernel, (res0, false), (res0, true), by decide +kernel⟩, inv_c8, by decide +kernel⟩
def c9 : State := { sCas 1 with up := LinkPort.reset, dn := LinkPort.reset }
def c10 := withPart {part0 with below := none} (sCas 1)
theorem inv_c9 : c9.Inv := inv_of (by decide +kernel)
theorem inv_c10 : c10.Inv := inv_of (by decide +kernel)
theorem test_CascadePorts_1 :
    (c9.Inv) ∧
    (c10.Inv) ∧
    (Served c10 ra 0 24576) ∧
    (Port.up ≠ Port.host) ∧
    (c9.cascEn = true) ∧
    (c9.connected Port.up = true) ∧
    ((c9.port Port.up).isUp = false) ∧
    (Port.up = Port.up → BitVec.toNat (0 : BitVec 3) + 1 = c9.casc.pos) ∧
    (Port.up = Port.down → BitVec.toNat (0 : BitVec 3) = c9.casc.pos + 1) ∧
    (formWidth (BitVec.zeroExtend 16 (255 : BitVec 8)) c9.cascLanes = some (BitVec.ofNat 16 255)) ∧
    (Port.up = Port.up ∧ BitVec.toNat (5 : BitVec 3) + 1 ≠ c9.casc.pos ∨
      Port.up = Port.down ∧ BitVec.toNat (5 : BitVec 3) ≠ c9.casc.pos + 1) ∧
    (ra.hw = (0 : Word)) :=
  ⟨inv_c9, inv_c10, served_of (by decide +kernel), by decide +kernel⟩
end Cascade

/-! Mailboxes, dispatch and locks -/
namespace Mailboxes
def box0 (st : MbxState) (b : List Byte) (s : State := s0) : State := mg (fun m => { m with boxes := m.boxes.set 0 ⟨st, b⟩ }) s
def sB := box0 .empty [1,2,3,4,5,6,7,8,9]
def sBr := box0 .running [1,2,3,4,5,6,7,8,9]
theorem inv_sB : sB.Inv := inv_of (by decide +kernel)
theorem inv_sBr : sBr.Inv := inv_of (by decide +kernel)
theorem test_MailboxFrames_1 :
    (sB.Inv) ∧
    (sBr.Inv) ∧
    (Served sB ra (chRegion (0 : Ch)) 40960) ∧
    (Served sBr ra (chRegion (0 : Ch)) 40960) ∧
    (sB.host.isUp = true) ∧
    (sB.vc2 = []) ∧
    (sB.egr.completions.length < 256) ∧
    (sB.egr.gone.contains (↑(0 : Ch), ↑(0 : Fin 16)) = false) ∧
    (BitVec.toNat (2 : BitVec 7) ≠ 0) ∧
    (4 * (BitVec.toNat (1 : BitVec 6) + BitVec.toNat (2 : BitVec 7)) ≤ 256) ∧
    (sB.mayMbx (0 : Hf) (0 : Ch) ↑(0 : Fin 16) = true) ∧
    (sB.chDown (0 : Ch) = false) ∧
    (((sB.chan (0 : Ch)).mgr.box ↑(0 : Fin 16)).state = MbxState.empty) ∧
    (sBr.host.isUp = true) ∧
    (sBr.vc2 = []) ∧
    (sBr.egr.completions.length < 256) ∧
    (sBr.egr.gone.contains (↑(0 : Ch), ↑(0 : Fin 16)) = false) ∧
    (sBr.mayMbx (0 : Hf) (0 : Ch) ↑(0 : Fin 16) = true) ∧
    (sBr.chDown (0 : Ch) = false) ∧
    (((sBr.chan (0 : Ch)).mgr.box ↑(0 : Fin 16)).state ≠ MbxState.empty) ∧
    (0 < 16) ∧
    (List.filter (fun k => (BitVec.toNat (1 : BitVec 16)).testBit k) (sB.chan (0 : Ch)).mgr.boxRanks = [0]) ∧
    (sB.mayMbx ra.hf (0 : Ch) 0 = true) ∧
    (((sB.chan (0 : Ch)).mgr.box 0).state = MbxState.empty) ∧
    ((sB.chan (0 : Ch)).mgr.up = true) ∧
    (List.filter (fun k => (BitVec.toNat (1 : BitVec 16)).testBit k) (sBr.chan (0 : Ch)).mgr.boxRanks = [0]) ∧
    (sBr.mayMbx ra.hf (0 : Ch) 0 = false ∨ ((sBr.chan (0 : Ch)).mgr.box 0).state ≠ MbxState.empty) :=
  ⟨inv_sB, inv_sBr, served_of (by decide +kernel), served_of (by decide +kernel), by decide +kernel⟩
def sBd := mg (fun m => {m with up := false}) sB
theorem inv_sBd : sBd.Inv := inv_of (by decide +kernel)
theorem test_MailboxFrames_2 :
    (sBd.Inv) ∧
    (Served sBd ra (chRegion (0 : Ch)) 40960) ∧
    (0 < 16) ∧
    (List.filter (fun k => (BitVec.toNat (1 : BitVec 16)).testBit k) (sBd.chan (0 : Ch)).mgr.boxRanks = [0]) ∧
    (sBd.mayMbx ra.hf (0 : Ch) 0 = true) ∧
    (((sBd.chan (0 : Ch)).mgr.box 0).state = MbxState.empty) ∧
    ((sBd.chan (0 : Ch)).mgr.up = false) :=
  ⟨inv_sBd, served_of (by decide +kernel), by decide +kernel⟩
def sRs : State := {(box0 .responding [1]) with egr := {s0.egr with gone := [(0,0)], }}
theorem test_MailboxFrames_3 :
    (exec (Instr.mbxResponseSent (0 : Ch) (0 : Fin 16)) sRs =
      Host.Outcome.next (nx (exec (Instr.mbxResponseSent (0 : Ch) (0 : Fin 16)) sRs))) ∧
    (sRs.vc2 = []) ∧
    (sRs.egr.completions.length < 256) ∧
    ((nx (exec (Instr.mbxResponseSent (0 : Ch) (0 : Fin 16)) sRs)).egr.gone.contains
        (↑(0 : Ch), ↑(0 : Fin 16)) =
      false) :=
  ⟨nx_eq (by decide +kernel), by decide +kernel⟩
def fW : Vc2 := .bulkRead 0 0 5 0 0
def sVcW : State := {sB with vc2 := [fW, fW], egr := {s0.egr with completions := List.replicate 256 ⟨0,0,[1],none⟩}}
theorem test_MailboxFrames_4 :
    (sVcW.vc2 = [] ∧ 256 ≤ sVcW.egr.completions.length ∨ ∃ f l, sVcW.vc2 = f :: l ∧ sVcW.vc2Waits f = true) :=
  by first | exact Or.inl (by decide +kernel) | exact Or.inr ⟨_, _, rfl, by decide +kernel⟩
def sD1 := mg (fun m => {m with rung := [0, 5]}) (box0 .pending (req0 0x13 [5]))
def sD3 : State := {sBr with egr := {s0.egr with gone := [(0,0)]}}
theorem inv_sD1 : sD1.Inv := inv_of (by decide +kernel)
theorem inv_sD3 : sD3.Inv := inv_of (by decide +kernel)
theorem test_DispatchAndResponse_1 :
    (sD1.Inv) ∧
    (sD3.Inv) ∧
    (s0.Inv) ∧
    ((sD1.chan (0 : Ch)).mgr.rung = [0, 5]) ∧
    (0 < 16) ∧
    (List.find? (fun x => ((sD1.chan (0 : Ch)).mgr.exec? x).isNone) (List.range 8) = some 0) ∧
    ((sD1.chan (0 : Ch)).mgr.up = true) ∧
    ((sD1.chan (0 : Ch)).mgr.upd = none) ∧
    (headerCheck 0 (padTo 256 ((sD1.chan (0 : Ch)).mgr.box 0).buf) = none) ∧
    ((sD1.chan (0 : Ch)).req ≠ some StateReq.off) ∧
    (sD3.egr.gone.contains (↑(0 : Ch), ↑(0 : Fin 16)) = true) ∧
    (s0.egr.gone.contains (↑(0 : Ch), ↑(0 : Fin 16)) = false) :=
  ⟨inv_sD1, inv_sD3, inv_s0, by decide +kernel⟩
def eW : Exec := {exec0 0x13 [5] with want := [9, 10]}
def sL1 := cmd eW
theorem inv_sL1 : sL1.Inv := inv_of (by decide +kernel)
theorem test_LocksOfTheManager_1 :
    (sL1.Inv) ∧
    (JobsKeepSource sL1 (0 : Ch)) ∧
    (sM.Inv) ∧
    (JobsKeepSource sM (0 : Ch)) ∧
    (∀ y ∈ (sM.chan (0 : Ch)).mgr.lockRanks, (sM.chan (0 : Ch)).mgr.asksNothing y) ∧
    (Instr.lockGrant (0 : Ch) = Instr.lockGrant (0 : Ch) ∨ Instr.lockGrant (0 : Ch) = Instr.engineLockGroupGrant (0 : Ch)) ∧
    ((sL1.chan (0 : Ch)).mgr.lockRanks.Nodup) ∧
    (Instr.engineLockGroupGrant (0 : Ch) = Instr.lockGrant (0 : Ch) ∨
      Instr.engineLockGroupGrant (0 : Ch) = Instr.engineLockGroupGrant (0 : Ch)) ∧
    ((sM.chan (0 : Ch)).mgr.lockRanks.Nodup) :=
  ⟨inv_sL1, jobs_of (by decide +kernel) (by decide +kernel), inv_sM, jobs_of (by decide +kernel) (by decide +kernel), asks_of (by decide +kernel), by decide +kernel⟩
def j0 : Job := Job.start 0 4 (some 2)
def sJ := mg (fun m => {m with mig := some {j0 with step := 0}}) sM
def z48 := ({j0 with step := 0})
theorem inv_sJ : sJ.Inv := inv_of (by decide +kernel)
theorem test_LocksOfTheManager_2 :
    (sJ.Inv) ∧
    (JobsKeepSource sJ (0 : Ch)) ∧
    (∀ y ∈ [0, 1, 2, 3, 4, 5, 6, 7], (sJ.chan (0 : Ch)).mgr.asksNothing y) ∧
    (Instr.engineLockGroupGrant (0 : Ch) = Instr.lockGrant (0 : Ch) ∨
      Instr.engineLockGroupGrant (0 : Ch) = Instr.engineLockGroupGrant (0 : Ch)) ∧
    ((sJ.chan (0 : Ch)).mgr.lockRanks.Nodup) ∧
    ((sJ.chan (0 : Ch)).mgr.lockRanks =
      [0, 1, 2, 3, 4, 5, 6, 7] ++ [8, 9]) ∧
    (8 = 8 ∨ 8 = 9) ∧
    ((sJ.chan (0 : Ch)).mgr.job 8 = some z48) ∧
    ((sJ.chan (0 : Ch)).mgr.groupFree (some z48) = true) ∧
    (∀ y ∈ [9], 8 ≤ y → (sJ.chan (0 : Ch)).mgr.groupFree ((sJ.chan (0 : Ch)).mgr.job y) = false) ∧
    (z48.src ≠ z48.dst) :=
  ⟨inv_sJ, jobs_of (by decide +kernel) (by decide +kernel), asks_of (by decide +kernel), by decide +kernel⟩
def jN : Job := {Job.start 30 4 none with step := 0}
def sJn := mg (fun m => {m with mig := some jN}) sM
theorem test_LocksOfTheManager_3 :
    (∀ y ∈ (sJn.chan (0 : Ch)).mgr.lockRanks, y < 8 → (sJn.chan (0 : Ch)).mgr.asksNothing y) ∧
    ((sJn.chan (0 : Ch)).mgr.mig = some jN) ∧
    ((sJn.chan (0 : Ch)).mgr.rep = none) ∧
    (jN.step = 0) ∧
    (jN.owner = none) ∧
    (sJn.bit (blkR (0 : Ch) (jN.src / 33) (jN.src % 33)) 0 = false) ∧
    (Instr.lockGrant (0 : Ch) = Instr.lockGrant (0 : Ch) ∨ Instr.lockGrant (0 : Ch) = Instr.engineLockGroupGrant (0 : Ch)) :=
  ⟨asks_low (by decide +kernel), by decide +kernel⟩
def eA : Exec := {exec0 0x13 [5] with want := [9]}
def eB : Exec := {exec0 0x13 [5] with want := [8], mbx := 1}
def sDl := mg (fun m => {m with execs := [(2, eA), (3, eB)], locks := [(0, ⟨8, 2, 700⟩), (1, ⟨9, 3, 701⟩)]}) sM
theorem inv_sDl : sDl.Inv := inv_of (by decide +kernel)
theorem test_LocksOfTheManager_4 :
    (sDl.Inv) :=
  inv_sDl
def eBr : Exec := {exec0 0x13 [5] with broken := some 500, attempt := 2}
def eBr4 : Exec := {exec0 0x13 [5] with broken := some 500, attempt := 4}
def sR1 := cmd eBr
def sR2 := cmd eBr4
theorem inv_sR1 : sR1.Inv := inv_of (by decide +kernel)
theorem inv_sR2 : sR2.Inv := inv_of (by decide +kernel)
theorem test_LocksOfTheManager_5 :
    (sR1.Inv) ∧
    (sR2.Inv) ∧
    ((sR1.chan (0 : Ch)).mgr.exec? ↑(2 : Fin 8) = some eBr) ∧
    (eBr.mbx < 16 ∨ eBr.code = 35) ∧
    (eBr.broken = some 500) ∧
    (eBr.attempt ≤ 3 ∨ eBr.code = 35) ∧
    ((sR2.chan (0 : Ch)).mgr.exec? ↑(2 : Fin 8) = some eBr4) ∧
    (eBr4.mbx < 16 ∨ eBr4.code = 35) ∧
    (eBr4.broken = some 500) ∧
    (3 < eBr4.attempt) ∧
    (eBr4.code ≠ 35) :=
  ⟨inv_sR1, inv_sR2, by decide +kernel⟩
def eTo : Exec := exec0 0x70 [0,0,0,0] 1
def sTo := ch0 (fun x => {x with charges := [charge0]}) (cmd eTo)
theorem test_LocksOfTheManager_6 :
    ((sTo.chan (0 : Ch)).mgr.exec? ↑(2 : Fin 8) = some eTo) ∧
    (eTo.resp = none) ∧
    ((sTo.chan (0 : Ch)).mgr.up = true) ∧
    (sTo.waitLimit (0 : Ch) eTo = some (msT 100)) :=
  by decide +kernel
def sH := mg (fun m => {m with rung := [3], boxes := m.boxes.set 3 ⟨.pending, req0 0x13 [5]⟩, items := [⟨2, ecfItem 5 3 0⟩, ⟨2, regItem true 0x100000 7⟩]}) (cmd eTo [5, 6])
def sH2 := mg (fun m => {m with up := false, loading := true}) sH
def upd0 : MgrUpd := ⟨0, 0, 0x102, false, false, none⟩
def eU : Exec := exec0 0x72 [0,0,0,0,0,0,0,0] 2
def sH3 := mg (fun m => {m with upd := some upd0}) (cmd eU)
def sH4 := mg (fun m => {m with up := false, loading := true, upd := some {upd0 with haltAt := some 400}, execs := [], boxes := m.boxes.set 0 ⟨.running, eU.req⟩ }) sM
theorem inv_sH : sH.Inv := inv_of (by decide +kernel)
theorem inv_sH2 : sH2.Inv := inv_of (by decide +kernel)
theorem inv_sH3 : sH3.Inv := inv_of (by decide +kernel)
theorem inv_sH4 : sH4.Inv := inv_of (by decide +kernel)
theorem test_ManagerHaltsAndReturns_1 :
    (sH.Inv) ∧
    (sH2.Inv) ∧
    (∀ (h : ℕ) (j : Job), (sH2.chan (0 : Ch)).mgr.job h = some j → j.forOluek = false) ∧
    (sH3.Inv) ∧
    (sH4.Inv) ∧
    ((sH.chan (0 : Ch)).mgr.up = true) ∧
    (sH.bit (chR (0 : Ch) 40972) 1 = true) ∧
    ((sH2.chan (0 : Ch)).mgr.loading = true) ∧
    ((sH2.chan (0 : Ch)).mgr.upd = none) ∧
    ((sH3.chan (0 : Ch)).mgr.upd = some { mbx := 0, hf := 0, seq := 258, noEvent := false, old := false, haltAt := none : MgrUpd }) ∧
    ({ mbx := 0, hf := 0, seq := 258, noEvent := false, old := false, haltAt := none : MgrUpd }.haltAt = none) ∧
    (∃ p ∈ (sH3.chan (0 : Ch)).mgr.execs, p.2.code = 114 ∧ p.2.phase = 2) ∧
    ((sH4.chan (0 : Ch)).mgr.upd = some { mbx := 0, hf := 0, seq := 258, noEvent := false, old := false, haltAt := some 400 : MgrUpd }) ∧
    ({ mbx := 0, hf := 0, seq := 258, noEvent := false, old := false, haltAt := some 400 : MgrUpd }.haltAt = some 400) ∧
    (sH4.host.isUp = true) ∧
    (sH4.now ≤ 400 + msT 200) :=
  ⟨inv_sH, inv_sH2, job_all (by decide +kernel) (by decide +kernel), inv_sH3, inv_sH4, by decide +kernel⟩
end Mailboxes

/-! Rule commands -/
namespace Rules
def eIns (tg : Nat) (ad : Nat) : Exec := exec0 0x10 ([5, tg] ++ nb 3 9 ++ nb 3 0 ++ nb 8 ad ++ nb 10 0xABCD ++ nb 10 0xFFFF)
def sI0 := cmd (eIns 0 0x55) [0]
def sI1 := cmd (eIns 0 0x55)
def sI2 := cmd (eIns 0 0x11223344) [0]
def sI3 := cmd (eIns 1 0x55) [0]
def sStg (s : State) := ch0 (fun x => {x with ep := {x.ep with st1 := .staged}}) s
def z49 := (eIns 0 0x55)
theorem inv_sI0 : sI0.Inv := inv_of (by decide +kernel)
theorem test_RuleCommands_1 :
    (sI0.Inv) ∧
    (Turn sI0 (0 : Ch) (↑(2 : Fin 8)) z49 16) ∧
    (ArrayQueue sI0 (0 : Ch)) ∧
    (Passes (sI0.turn (0 : Ch)) (0 : Ch) ((sI0.turn (0 : Ch)).ruleInsertChecks (0 : Ch) z49)) ∧
    (Inserts (sI0.turn (0 : Ch)) (0 : Ch) (↑(2 : Fin 8)) (z49.par 0 1)
      (z49.par 1 1 % 4) (entOf (List.drop 16 z49.req) (insertWords z49.plen)) [0, 1]
      Track.no 0) :=
  ⟨inv_sI0, turn_of (by decide +kernel), by unfold ArrayQueue Passes Inserts; decide +kernel⟩
def z50 := (eIns 0 0x55)
theorem inv_sI1 : sI1.Inv := inv_of (by decide +kernel)
theorem test_RuleCommands_2 :
    (sI1.Inv) ∧
    (Turn sI1 (0 : Ch) (↑(2 : Fin 8)) z50 16) ∧
    (ArrayQueue sI1 (0 : Ch)) ∧
    (Passes (sI1.turn (0 : Ch)) (0 : Ch) ((sI1.turn (0 : Ch)).ruleInsertChecks (0 : Ch) z50)) ∧
    ((sI1.turn (0 : Ch)).reach (0 : Ch) ((sI1.turn (0 : Ch)).planned (0 : Ch))
        ((sI1.turn (0 : Ch)).tableOf (0 : Ch) (z50.par 0 1)) (z50.par 1 1 % 4)
        ((entOf (List.drop 16 z50.req) (insertWords z50.plen)).ad &&&
          ((sI1.turn (0 : Ch)).tableOf (0 : Ch) (z50.par 0 1)).mask) =
      some ([0, 1], Track.no)) ∧
    (List.find? (fun k => [0, 1].any fun i => ((sI1.turn (0 : Ch)).planned (0 : Ch)).live i k)
        (((sI1.turn (0 : Ch)).planned (0 : Ch)).carriers
          ((sI1.turn (0 : Ch)).tableOf (0 : Ch) (z50.par 0 1))
          ((entOf (List.drop 16 z50.req) (insertWords z50.plen)).ad &&&
            ((sI1.turn (0 : Ch)).tableOf (0 : Ch) (z50.par 0 1)).mask)) =
      none) ∧
    (((sI1.turn (0 : Ch)).planned (0 : Ch)).freeEntry
        ((sI1.turn (0 : Ch)).tableOf (0 : Ch) (z50.par 0 1)).width
        ((sI1.turn (0 : Ch)).tableOf (0 : Ch) (z50.par 0 1)).blocks
        (entOf (List.drop 16 z50.req) (insertWords z50.plen)).ranged =
      some 0) ∧
    ((sI1.turn (0 : Ch)).holds (0 : Ch) ↑(2 : Fin 8) (0 / 4096 : ℕ) = false) ∧
    (sI1.writing (0 : Ch) ↑(2 : Fin 8) = false) :=
  ⟨inv_sI1, turn_of (by decide +kernel), by unfold ArrayQueue Passes; decide +kernel⟩
def z51 := (eIns 0 0x11223344)
theorem inv_sI2 : sI2.Inv := inv_of (by decide +kernel)
theorem test_RuleCommands_3 :
    (sI2.Inv) ∧
    (Turn sI2 (0 : Ch) (↑(2 : Fin 8)) z51 16) ∧
    (ArrayQueue sI2 (0 : Ch)) ∧
    (Passes (sI2.turn (0 : Ch)) (0 : Ch) ((sI2.turn (0 : Ch)).ruleInsertChecks (0 : Ch) z51)) ∧
    ((sI2.turn (0 : Ch)).reach (0 : Ch) ((sI2.turn (0 : Ch)).planned (0 : Ch))
        ((sI2.turn (0 : Ch)).tableOf (0 : Ch) (z51.par 0 1)) (z51.par 1 1 % 4)
        ((entOf (List.drop 16 z51.req) (insertWords z51.plen)).ad &&&
          ((sI2.turn (0 : Ch)).tableOf (0 : Ch) (z51.par 0 1)).mask) =
      some ([0, 1], Track.no)) ∧
    (List.find? (fun k => [0, 1].any fun i => ((sI2.turn (0 : Ch)).planned (0 : Ch)).live i k)
        (((sI2.turn (0 : Ch)).planned (0 : Ch)).carriers
          ((sI2.turn (0 : Ch)).tableOf (0 : Ch) (z51.par 0 1))
          ((entOf (List.drop 16 z51.req) (insertWords z51.plen)).ad &&&
            ((sI2.turn (0 : Ch)).tableOf (0 : Ch) (z51.par 0 1)).mask)) =
      some 3) :=
  ⟨inv_sI2, turn_of (by decide +kernel), by unfold ArrayQueue Passes; decide +kernel⟩
def z52 := (eIns 1 0x55)
theorem inv_sI3 : sI3.Inv := inv_of (by decide +kernel)
theorem test_RuleCommands_4 :
    (sI3.Inv) ∧
    (Turn sI3 (0 : Ch) (↑(2 : Fin 8)) z52 16) ∧
    (ArrayQueue sI3 (0 : Ch)) ∧
    (Passes (sI3.turn (0 : Ch)) (0 : Ch) ((sI3.turn (0 : Ch)).ruleInsertChecks (0 : Ch) z52)) ∧
    ((sI3.turn (0 : Ch)).reach (0 : Ch) ((sI3.turn (0 : Ch)).planned (0 : Ch))
        ((sI3.turn (0 : Ch)).tableOf (0 : Ch) (z52.par 0 1)) (z52.par 1 1 % 4)
        ((entOf (List.drop 16 z52.req) (insertWords z52.plen)).ad &&&
          ((sI3.turn (0 : Ch)).tableOf (0 : Ch) (z52.par 0 1)).mask) =
      none) :=
  ⟨inv_sI3, turn_of (by decide +kernel), by unfold ArrayQueue Passes; decide +kernel⟩
def eDel (tg : Nat) (ad : Nat) : Exec := exec0 0x11 ([5, tg] ++ nb 6 0 ++ nb 8 ad)
def sD0 := cmd (eDel 0 0x11223344) [0]
def sD1 := cmd (eDel 0 0x11223344)
def sD2 := cmd (eDel 0 0x1122) [0]
def z54 := (eDel 0 0x11223344)
theorem inv_sD0 : sD0.Inv := inv_of (by decide +kernel)
theorem test_RuleCommands_5 :
    (sD0.Inv) ∧
    (Turn sD0 (0 : Ch) (↑(2 : Fin 8)) z54 17) ∧
    (ArrayQueue sD0 (0 : Ch)) ∧
    (Passes (sD0.turn (0 : Ch)) (0 : Ch) ((sD0.turn (0 : Ch)).ruleDeleteChecks (0 : Ch) z54)) ∧
    ((sD0.turn (0 : Ch)).keyWay (0 : Ch) z54 = some ([0, 1], Track.no)) ∧
    (List.filter (fun k => [0, 1].any fun i => ((sD0.turn (0 : Ch)).planned (0 : Ch)).live i k)
        (((sD0.turn (0 : Ch)).planned (0 : Ch)).carriers
          ((sD0.turn (0 : Ch)).tableOf (0 : Ch) (z54.par 0 1))
          (BitVec.ofNat 64 (z54.par 8 8) &&&
            ((sD0.turn (0 : Ch)).tableOf (0 : Ch) (z54.par 0 1)).mask)) ≠
      []) ∧
    (HoldsAll (sD0.turn (0 : Ch)) (0 : Ch) (↑(2 : Fin 8))
      (List.map (fun x => x / 4096)
        (List.filter (fun k => [0, 1].any fun i => ((sD0.turn (0 : Ch)).planned (0 : Ch)).live i k)
          (((sD0.turn (0 : Ch)).planned (0 : Ch)).carriers
            ((sD0.turn (0 : Ch)).tableOf (0 : Ch) (z54.par 0 1))
            (BitVec.ofNat 64 (z54.par 8 8) &&&
              ((sD0.turn (0 : Ch)).tableOf (0 : Ch) (z54.par 0 1)).mask))))) ∧
    (List.filter (fun k => [0, 1].any fun i => ((sD0.turn (0 : Ch)).planned (0 : Ch)).live i k)
        (((sD0.turn (0 : Ch)).planned (0 : Ch)).carriers
          ((sD0.turn (0 : Ch)).tableOf (0 : Ch) (z54.par 0 1))
          (BitVec.ofNat 64 (z54.par 8 8) &&&
            ((sD0.turn (0 : Ch)).tableOf (0 : Ch) (z54.par 0 1)).mask)) =
      [3]) ∧
    ((sD0.turn (0 : Ch)).holds (0 : Ch) ↑(2 : Fin 8) (3 / 4096 : ℕ) = true) :=
  ⟨inv_sD0, turn_of (by decide +kernel), by unfold ArrayQueue Passes HoldsAll; decide +kernel⟩
def z55 := (eDel 0 0x11223344)
theorem inv_sD1 : sD1.Inv := inv_of (by decide +kernel)
theorem test_RuleCommands_6 :
    (sD1.Inv) ∧
    (Turn sD1 (0 : Ch) (↑(2 : Fin 8)) z55 17) ∧
    (ArrayQueue sD1 (0 : Ch)) ∧
    (Passes (sD1.turn (0 : Ch)) (0 : Ch) ((sD1.turn (0 : Ch)).ruleDeleteChecks (0 : Ch) z55)) ∧
    ((sD1.turn (0 : Ch)).keyWay (0 : Ch) z55 = some ([0, 1], Track.no)) ∧
    (∃
      k ∈
        List.filter (fun k => [0, 1].any fun i => ((sD1.turn (0 : Ch)).planned (0 : Ch)).live i k)
          (((sD1.turn (0 : Ch)).planned (0 : Ch)).carriers
            ((sD1.turn (0 : Ch)).tableOf (0 : Ch) (z55.par 0 1))
            (BitVec.ofNat 64 (z55.par 8 8) &&&
              ((sD1.turn (0 : Ch)).tableOf (0 : Ch) (z55.par 0 1)).mask)),
      (sD1.turn (0 : Ch)).holds (0 : Ch) (↑(2 : Fin 8)) (k / 4096) = false) :=
  ⟨inv_sD1, turn_of (by decide +kernel), by unfold ArrayQueue Passes; decide +kernel⟩
def z56 := (eDel 0 0x1122)
theorem inv_sD2 : sD2.Inv := inv_of (by decide +kernel)
theorem test_RuleCommands_7 :
    (sD2.Inv) ∧
    (Turn sD2 (0 : Ch) (↑(2 : Fin 8)) z56 17) ∧
    (ArrayQueue sD2 (0 : Ch)) ∧
    (Passes (sD2.turn (0 : Ch)) (0 : Ch) ((sD2.turn (0 : Ch)).ruleDeleteChecks (0 : Ch) z56)) ∧
    ((sD2.turn (0 : Ch)).keyWay (0 : Ch) z56 = some ([0, 1], Track.no)) ∧
    (List.filter (fun k => [0, 1].any fun i => ((sD2.turn (0 : Ch)).planned (0 : Ch)).live i k)
        (((sD2.turn (0 : Ch)).planned (0 : Ch)).carriers
          ((sD2.turn (0 : Ch)).tableOf (0 : Ch) (z56.par 0 1))
          (BitVec.ofNat 64 (z56.par 8 8) &&&
            ((sD2.turn (0 : Ch)).tableOf (0 : Ch) (z56.par 0 1)).mask)) =
      []) :=
  ⟨inv_sD2, turn_of (by decide +kernel), by unfold ArrayQueue Passes; decide +kernel⟩
def eMod (tg : Nat) (ad : Nat) : Exec := exec0 0x12 ([5, tg] ++ nb 6 0 ++ nb 8 ad ++ nb 8 ad)
def sM0 := cmd (eMod 0 0x11223344) [0]
def sM1 := cmd (eMod 0 0x1122334)
def sM3 := sStg (cmd (eMod 1 0x11223344) [0])
def z59 := (eMod 0 0x11223344)
theorem inv_sM0 : sM0.Inv := inv_of (by decide +kernel)
theorem test_RuleCommands_8 :
    (sM0.Inv) ∧
    (Turn sM0 (0 : Ch) (↑(2 : Fin 8)) z59 18) ∧
    (ArrayQueue sM0 (0 : Ch)) ∧
    (Passes (sM0.turn (0 : Ch)) (0 : Ch) ((sM0.turn (0 : Ch)).ruleModifyChecks (0 : Ch) z59)) ∧
    ((sM0.turn (0 : Ch)).keyWay (0 : Ch) z59 = some ([0, 1], Track.no)) ∧
    (List.find? (fun k => [0, 1].any fun i => ((sM0.turn (0 : Ch)).planned (0 : Ch)).live i k)
        (((sM0.turn (0 : Ch)).planned (0 : Ch)).carriers
          ((sM0.turn (0 : Ch)).tableOf (0 : Ch) (z59.par 0 1))
          (BitVec.ofNat 64 (z59.par 8 8) &&&
            ((sM0.turn (0 : Ch)).tableOf (0 : Ch) (z59.par 0 1)).mask)) =
      some 3) ∧
    (([0, 1].any fun i =>
        ((sM0.turn (0 : Ch)).planned (0 : Ch)).live i 3 && ! [0, 1].contains i) =
      false) ∧
    ((sM0.turn (0 : Ch)).holds (0 : Ch) ↑(2 : Fin 8) (3 / 4096 : ℕ) = true) :=
  ⟨inv_sM0, turn_of (by decide +kernel), by unfold ArrayQueue Passes; decide +kernel⟩
def z60 := (eMod 0 0x1122334)
theorem inv_sM1 : sM1.Inv := inv_of (by decide +kernel)
theorem test_RuleCommands_9 :
    (sM1.Inv) ∧
    (Turn sM1 (0 : Ch) (↑(2 : Fin 8)) z60 18) ∧
    (ArrayQueue sM1 (0 : Ch)) ∧
    (Passes (sM1.turn (0 : Ch)) (0 : Ch) ((sM1.turn (0 : Ch)).ruleModifyChecks (0 : Ch) z60)) ∧
    ((sM1.turn (0 : Ch)).keyWay (0 : Ch) z60 = some ([0, 1], Track.no)) ∧
    (List.find? (fun k => [0, 1].any fun i => ((sM1.turn (0 : Ch)).planned (0 : Ch)).live i k)
        (((sM1.turn (0 : Ch)).planned (0 : Ch)).carriers
          ((sM1.turn (0 : Ch)).tableOf (0 : Ch) (z60.par 0 1))
          (BitVec.ofNat 64 (z60.par 8 8) &&&
            ((sM1.turn (0 : Ch)).tableOf (0 : Ch) (z60.par 0 1)).mask)) =
      none) :=
  ⟨inv_sM1, turn_of (by decide +kernel), by unfold ArrayQueue Passes; decide +kernel⟩
def z61 := (eMod 1 0x11223344)
theorem inv_sM3 : sM3.Inv := inv_of (by decide +kernel)
theorem test_RuleCommands_10 :
    (sM3.Inv) ∧
    (Turn sM3 (0 : Ch) (↑(2 : Fin 8)) z61 18) ∧
    (ArrayQueue sM3 (0 : Ch)) ∧
    (Passes (sM3.turn (0 : Ch)) (0 : Ch) ((sM3.turn (0 : Ch)).ruleModifyChecks (0 : Ch) z61)) ∧
    ((sM3.turn (0 : Ch)).keyWay (0 : Ch) z61 = some ([1], Track.staged)) ∧
    (List.find? (fun k => [1].any fun i => ((sM3.turn (0 : Ch)).planned (0 : Ch)).live i k)
        (((sM3.turn (0 : Ch)).planned (0 : Ch)).carriers
          ((sM3.turn (0 : Ch)).tableOf (0 : Ch) (z61.par 0 1))
          (BitVec.ofNat 64 (z61.par 8 8) &&&
            ((sM3.turn (0 : Ch)).tableOf (0 : Ch) (z61.par 0 1)).mask)) =
      some 3) ∧
    (([0, 1].any fun i => ((sM3.turn (0 : Ch)).planned (0 : Ch)).live i 3 && ! [1].contains i) =
      true) ∧
    (((sM3.turn (0 : Ch)).planned (0 : Ch)).freeEntry
        ((sM3.turn (0 : Ch)).tableOf (0 : Ch) (z61.par 0 1)).width
        ((sM3.turn (0 : Ch)).tableOf (0 : Ch) (z61.par 0 1)).blocks
        (((sM3.turn (0 : Ch)).planned (0 : Ch)).ent
            ((sM3.turn (0 : Ch)).tableOf (0 : Ch) (z61.par 0 1)).width 3).ranged =
      some 0) ∧
    (HoldsAll (sM3.turn (0 : Ch)) (0 : Ch) ↑(2 : Fin 8) [(3 / 4096 : ℕ), (0 / 4096 : ℕ)]) :=
  ⟨inv_sM3, turn_of (by decide +kernel), by unfold ArrayQueue Passes HoldsAll; decide +kernel⟩
def eRd (fl key off len : Nat) : Exec := exec0 0x13 ([5, fl] ++ nb 6 0 ++ nb 8 key ++ nb 4 off ++ nb 4 len)
def sR0 := cmd (eRd 0 0x11223344 0 1024)
def sR1 := cmd (eRd 0 0x11223345 0 1024)
def sR2 := cmd (eRd 1 0 64 1024)
def sR4 := cmd (eRd 0 0x11223344 0 16)
def z62 := (eRd 0 0x11223344 0 1024)
theorem inv_sR0 : sR0.Inv := inv_of (by decide +kernel)
theorem test_RuleCommands_11 :
    (sR0.Inv) ∧
    (Turn sR0 (0 : Ch) (↑(2 : Fin 8)) z62 19) ∧
    (ArrayQueue sR0 (0 : Ch)) ∧
    (Passes (sR0.turn (0 : Ch)) (0 : Ch) ((sR0.turn (0 : Ch)).ruleReadChecks (0 : Ch) z62)) ∧
    (z62.par 1 1 % 2 ≠ 1) ∧
    (((sR0.turn (0 : Ch)).planned (0 : Ch)).carriers ((sR0.turn (0 : Ch)).tableOf (0 : Ch) (z62.par 0 1))
        (BitVec.ofNat 64 (z62.par 8 8) &&&
          ((sR0.turn (0 : Ch)).tableOf (0 : Ch) (z62.par 0 1)).mask) ≠
      []) ∧
    (recordSize ((sR0.turn (0 : Ch)).tableOf (0 : Ch) (z62.par 0 1)).width *
        (((sR0.turn (0 : Ch)).planned (0 : Ch)).carriers
            ((sR0.turn (0 : Ch)).tableOf (0 : Ch) (z62.par 0 1))
            (BitVec.ofNat 64 (z62.par 8 8) &&&
              ((sR0.turn (0 : Ch)).tableOf (0 : Ch) (z62.par 0 1)).mask)).length ≤
      z62.stLen 16) :=
  ⟨inv_sR0, turn_of (by decide +kernel), by unfold ArrayQueue Passes; decide +kernel⟩
def z63 := (eRd 0 0x11223345 0 1024)
theorem inv_sR1 : sR1.Inv := inv_of (by decide +kernel)
theorem test_RuleCommands_12 :
    (sR1.Inv) ∧
    (Turn sR1 (0 : Ch) (↑(2 : Fin 8)) z63 19) ∧
    (ArrayQueue sR1 (0 : Ch)) ∧
    (Passes (sR1.turn (0 : Ch)) (0 : Ch) ((sR1.turn (0 : Ch)).ruleReadChecks (0 : Ch) z63)) ∧
    (z63.par 1 1 % 2 ≠ 1) ∧
    (((sR1.turn (0 : Ch)).planned (0 : Ch)).carriers ((sR1.turn (0 : Ch)).tableOf (0 : Ch) (z63.par 0 1))
        (BitVec.ofNat 64 (z63.par 8 8) &&&
          ((sR1.turn (0 : Ch)).tableOf (0 : Ch) (z63.par 0 1)).mask) =
      []) :=
  ⟨inv_sR1, turn_of (by decide +kernel), by unfold ArrayQueue Passes; decide +kernel⟩
def z64 := (eRd 1 0 64 1024)
theorem inv_sR2 : sR2.Inv := inv_of (by decide +kernel)
theorem test_RuleCommands_13 :
    (sR2.Inv) ∧
    (Turn sR2 (0 : Ch) (↑(2 : Fin 8)) z64 19) ∧
    (ArrayQueue sR2 (0 : Ch)) ∧
    (Passes (sR2.turn (0 : Ch)) (0 : Ch) ((sR2.turn (0 : Ch)).ruleReadChecks (0 : Ch) z64)) ∧
    (z64.par 1 1 % 2 = 1) :=
  ⟨inv_sR2, turn_of (by decide +kernel), by unfold ArrayQueue Passes; decide +kernel⟩
def z66 := (eRd 0 0x11223344 0 16)
theorem inv_sR4 : sR4.Inv := inv_of (by decide +kernel)
theorem test_RuleCommands_14 :
    (sR4.Inv) ∧
    (Turn sR4 (0 : Ch) (↑(2 : Fin 8)) z66 19) ∧
    (ArrayQueue sR4 (0 : Ch)) ∧
    (Passes (sR4.turn (0 : Ch)) (0 : Ch) ((sR4.turn (0 : Ch)).ruleReadChecks (0 : Ch) z66)) ∧
    (z66.par 1 1 % 2 ≠ 1) ∧
    (((sR4.turn (0 : Ch)).planned (0 : Ch)).carriers ((sR4.turn (0 : Ch)).tableOf (0 : Ch) (z66.par 0 1))
        (BitVec.ofNat 64 (z66.par 8 8) &&&
          ((sR4.turn (0 : Ch)).tableOf (0 : Ch) (z66.par 0 1)).mask) ≠
      []) ∧
    (z66.stLen 16 <
      recordSize ((sR4.turn (0 : Ch)).tableOf (0 : Ch) (z66.par 0 1)).width *
        (((sR4.turn (0 : Ch)).planned (0 : Ch)).carriers
            ((sR4.turn (0 : Ch)).tableOf (0 : Ch) (z66.par 0 1))
            (BitVec.ofNat 64 (z66.par 8 8) &&&
              ((sR4.turn (0 : Ch)).tableOf (0 : Ch) (z66.par 0 1)).mask)).length) :=
  ⟨inv_sR4, turn_of (by decide +kernel), by unfold ArrayQueue Passes; decide +kernel⟩
def eBk (n off len : Nat) : Exec := exec0 0x14 ([5, 0, 0, 0] ++ nb 4 n ++ nb 4 off ++ nb 4 len)
def prm (ad : Nat) : List Nat := [5, 0] ++ nb 3 9 ++ nb 3 0 ++ nb 8 ad ++ nb 10 0xABCD ++ nb 10 0xFFFF
def stg0 (l : List Nat) (s : State) : State := ch0 (fun x => x.stagePutBytes 0 0 (l.map (BitVec.ofNat 8))) s
def sB0 := stg0 (prm 0x55 ++ List.replicate 28 0) (cmd (eBk 1 0 64) [0])
def sB1 := stg0 (prm 0x55 ++ List.replicate 28 0) (cmd {eBk 1 0 64 with phase := 1, nums := [1, 77]} [0])
def z67 := (eBk 1 0 64)
theorem inv_sB0 : sB0.Inv := inv_of (by decide +kernel)
theorem test_RuleCommands_15 :
    (sB0.Inv) ∧
    (Turn sB0 (0 : Ch) (↑(2 : Fin 8)) z67 20) ∧
    (ArrayQueue sB0 (0 : Ch)) ∧
    (z67.phase = 1 ∨ Passes (sB0.turn (0 : Ch)) (0 : Ch) ((sB0.turn (0 : Ch)).bulkInsertChecks (0 : Ch) z67)) ∧
    (((sB0.turn (0 : Ch)).chan (0 : Ch)).stageBytes z67.hf (z67.stOff 8) (z67.stLen 8) =
      Staged.bytes
        [BitVec.ofNat 8 5, BitVec.ofNat 8 0, BitVec.ofNat 8 0,
          BitVec.ofNat 8 0, BitVec.ofNat 8 9, BitVec.ofNat 8 0,
          BitVec.ofNat 8 0, BitVec.ofNat 8 0, BitVec.ofNat 8 0,
          BitVec.ofNat 8 0, BitVec.ofNat 8 0, BitVec.ofNat 8 0,
          BitVec.ofNat 8 0, BitVec.ofNat 8 0, BitVec.ofNat 8 0,
          BitVec.ofNat 8 85, BitVec.ofNat 8 0, BitVec.ofNat 8 0,
          BitVec.ofNat 8 0, BitVec.ofNat 8 0, BitVec.ofNat 8 0,
          BitVec.ofNat 8 0, BitVec.ofNat 8 0, BitVec.ofNat 8 0,
          BitVec.ofNat 8 171, BitVec.ofNat 8 205, BitVec.ofNat 8 0,
          BitVec.ofNat 8 0, BitVec.ofNat 8 0, BitVec.ofNat 8 0,
          BitVec.ofNat 8 0, BitVec.ofNat 8 0, BitVec.ofNat 8 0,
          BitVec.ofNat 8 0, BitVec.ofNat 8 255, BitVec.ofNat 8 255,
          BitVec.ofNat 8 0, BitVec.ofNat 8 0, BitVec.ofNat 8 0,
          BitVec.ofNat 8 0, BitVec.ofNat 8 0, BitVec.ofNat 8 0,
          BitVec.ofNat 8 0, BitVec.ofNat 8 0, BitVec.ofNat 8 0,
          BitVec.ofNat 8 0, BitVec.ofNat 8 0, BitVec.ofNat 8 0,
          BitVec.ofNat 8 0, BitVec.ofNat 8 0, BitVec.ofNat 8 0,
          BitVec.ofNat 8 0, BitVec.ofNat 8 0, BitVec.ofNat 8 0,
          BitVec.ofNat 8 0, BitVec.ofNat 8 0, BitVec.ofNat 8 0,
          BitVec.ofNat 8 0, BitVec.ofNat 8 0, BitVec.ofNat 8 0,
          BitVec.ofNat 8 0, BitVec.ofNat 8 0, BitVec.ofNat 8 0,
          BitVec.ofNat 8 0]) ∧
    (z67.par 4 4 = z67.nums.getD 0 0 + 1) ∧
    (entChk
        (List.take (bulkSize ((sB0.turn (0 : Ch)).tableOf (0 : Ch) (z67.par 0 1)).width)
          (List.drop
            (z67.nums.getD 0 0 *
              bulkSize ((sB0.turn (0 : Ch)).tableOf (0 : Ch) (z67.par 0 1)).width)
            [BitVec.ofNat 8 5, BitVec.ofNat 8 0, BitVec.ofNat 8 0,
              BitVec.ofNat 8 0, BitVec.ofNat 8 9, BitVec.ofNat 8 0,
              BitVec.ofNat 8 0, BitVec.ofNat 8 0, BitVec.ofNat 8 0,
              BitVec.ofNat 8 0, BitVec.ofNat 8 0, BitVec.ofNat 8 0,
              BitVec.ofNat 8 0, BitVec.ofNat 8 0, BitVec.ofNat 8 0,
              BitVec.ofNat 8 85, BitVec.ofNat 8 0, BitVec.ofNat 8 0,
              BitVec.ofNat 8 0, BitVec.ofNat 8 0, BitVec.ofNat 8 0,
              BitVec.ofNat 8 0, BitVec.ofNat 8 0, BitVec.ofNat 8 0,
              BitVec.ofNat 8 171, BitVec.ofNat 8 205, BitVec.ofNat 8 0,
              BitVec.ofNat 8 0, BitVec.ofNat 8 0, BitVec.ofNat 8 0,
              BitVec.ofNat 8 0, BitVec.ofNat 8 0, BitVec.ofNat 8 0,
              BitVec.ofNat 8 0, BitVec.ofNat 8 255, BitVec.ofNat 8 255,
              BitVec.ofNat 8 0, BitVec.ofNat 8 0, BitVec.ofNat 8 0,
              BitVec.ofNat 8 0, BitVec.ofNat 8 0, BitVec.ofNat 8 0,
              BitVec.ofNat 8 0, BitVec.ofNat 8 0, BitVec.ofNat 8 0,
              BitVec.ofNat 8 0, BitVec.ofNat 8 0, BitVec.ofNat 8 0,
              BitVec.ofNat 8 0, BitVec.ofNat 8 0, BitVec.ofNat 8 0,
              BitVec.ofNat 8 0, BitVec.ofNat 8 0, BitVec.ofNat 8 0,
              BitVec.ofNat 8 0, BitVec.ofNat 8 0, BitVec.ofNat 8 0,
              BitVec.ofNat 8 0, BitVec.ofNat 8 0, BitVec.ofNat 8 0,
              BitVec.ofNat 8 0, BitVec.ofNat 8 0, BitVec.ofNat 8 0,
              BitVec.ofNat 8 0]))
        (widthWords ((sB0.turn (0 : Ch)).tableOf (0 : Ch) (z67.par 0 1)).width) =
      none) ∧
    (Inserts (sB0.turn (0 : Ch)) (0 : Ch) (↑(2 : Fin 8)) (z67.par 0 1)
      (z67.par 1 1 % 4)
      (entOf
        (List.take (bulkSize ((sB0.turn (0 : Ch)).tableOf (0 : Ch) (z67.par 0 1)).width)
          (List.drop
            (z67.nums.getD 0 0 *
              bulkSize ((sB0.turn (0 : Ch)).tableOf (0 : Ch) (z67.par 0 1)).width)
            [BitVec.ofNat 8 5, BitVec.ofNat 8 0, BitVec.ofNat 8 0,
              BitVec.ofNat 8 0, BitVec.ofNat 8 9, BitVec.ofNat 8 0,
              BitVec.ofNat 8 0, BitVec.ofNat 8 0, BitVec.ofNat 8 0,
              BitVec.ofNat 8 0, BitVec.ofNat 8 0, BitVec.ofNat 8 0,
              BitVec.ofNat 8 0, BitVec.ofNat 8 0, BitVec.ofNat 8 0,
              BitVec.ofNat 8 85, BitVec.ofNat 8 0, BitVec.ofNat 8 0,
              BitVec.ofNat 8 0, BitVec.ofNat 8 0, BitVec.ofNat 8 0,
              BitVec.ofNat 8 0, BitVec.ofNat 8 0, BitVec.ofNat 8 0,
              BitVec.ofNat 8 171, BitVec.ofNat 8 205, BitVec.ofNat 8 0,
              BitVec.ofNat 8 0, BitVec.ofNat 8 0, BitVec.ofNat 8 0,
              BitVec.ofNat 8 0, BitVec.ofNat 8 0, BitVec.ofNat 8 0,
              BitVec.ofNat 8 0, BitVec.ofNat 8 255, BitVec.ofNat 8 255,
              BitVec.ofNat 8 0, BitVec.ofNat 8 0, BitVec.ofNat 8 0,
              BitVec.ofNat 8 0, BitVec.ofNat 8 0, BitVec.ofNat 8 0,
              BitVec.ofNat 8 0, BitVec.ofNat 8 0, BitVec.ofNat 8 0,
              BitVec.ofNat 8 0, BitVec.ofNat 8 0, BitVec.ofNat 8 0,
              BitVec.ofNat 8 0, BitVec.ofNat 8 0, BitVec.ofNat 8 0,
              BitVec.ofNat 8 0, BitVec.ofNat 8 0, BitVec.ofNat 8 0,
              BitVec.ofNat 8 0, BitVec.ofNat 8 0, BitVec.ofNat 8 0,
              BitVec.ofNat 8 0, BitVec.ofNat 8 0, BitVec.ofNat 8 0,
              BitVec.ofNat 8 0, BitVec.ofNat 8 0, BitVec.ofNat 8 0,
              BitVec.ofNat 8 0]))
        (widthWords ((sB0.turn (0 : Ch)).tableOf (0 : Ch) (z67.par 0 1)).width))
      [0, 1] Track.no 0) :=
  ⟨inv_sB0, turn_of (by decide +kernel), by unfold ArrayQueue Passes Inserts; decide +kernel⟩
def z68 := ({eBk 1 0 64 with phase := 1, nums := [1, 77]})
theorem inv_sB1 : sB1.Inv := inv_of (by decide +kernel)
theorem test_RuleCommands_16 :
    (sB1.Inv) ∧
    (Turn sB1 (0 : Ch) (↑(2 : Fin 8)) z68 20) ∧
    (ArrayQueue sB1 (0 : Ch)) ∧
    (z68.phase = 1 ∨ Passes (sB1.turn (0 : Ch)) (0 : Ch) ((sB1.turn (0 : Ch)).bulkInsertChecks (0 : Ch) z68)) ∧
    (((sB1.turn (0 : Ch)).chan (0 : Ch)).stageBytes z68.hf (z68.stOff 8) (z68.stLen 8) =
      Staged.bytes
        [BitVec.ofNat 8 5, BitVec.ofNat 8 0, BitVec.ofNat 8 0,
          BitVec.ofNat 8 0, BitVec.ofNat 8 9, BitVec.ofNat 8 0,
          BitVec.ofNat 8 0, BitVec.ofNat 8 0, BitVec.ofNat 8 0,
          BitVec.ofNat 8 0, BitVec.ofNat 8 0, BitVec.ofNat 8 0,
          BitVec.ofNat 8 0, BitVec.ofNat 8 0, BitVec.ofNat 8 0,
          BitVec.ofNat 8 85, BitVec.ofNat 8 0, BitVec.ofNat 8 0,
          BitVec.ofNat 8 0, BitVec.ofNat 8 0, BitVec.ofNat 8 0,
          BitVec.ofNat 8 0, BitVec.ofNat 8 0, BitVec.ofNat 8 0,
          BitVec.ofNat 8 171, BitVec.ofNat 8 205, BitVec.ofNat 8 0,
          BitVec.ofNat 8 0, BitVec.ofNat 8 0, BitVec.ofNat 8 0,
          BitVec.ofNat 8 0, BitVec.ofNat 8 0, BitVec.ofNat 8 0,
          BitVec.ofNat 8 0, BitVec.ofNat 8 255, BitVec.ofNat 8 255,
          BitVec.ofNat 8 0, BitVec.ofNat 8 0, BitVec.ofNat 8 0,
          BitVec.ofNat 8 0, BitVec.ofNat 8 0, BitVec.ofNat 8 0,
          BitVec.ofNat 8 0, BitVec.ofNat 8 0, BitVec.ofNat 8 0,
          BitVec.ofNat 8 0, BitVec.ofNat 8 0, BitVec.ofNat 8 0,
          BitVec.ofNat 8 0, BitVec.ofNat 8 0, BitVec.ofNat 8 0,
          BitVec.ofNat 8 0, BitVec.ofNat 8 0, BitVec.ofNat 8 0,
          BitVec.ofNat 8 0, BitVec.ofNat 8 0, BitVec.ofNat 8 0,
          BitVec.ofNat 8 0, BitVec.ofNat 8 0, BitVec.ofNat 8 0,
          BitVec.ofNat 8 0, BitVec.ofNat 8 0, BitVec.ofNat 8 0,
          BitVec.ofNat 8 0]) ∧
    (z68.par 4 4 ≤ z68.nums.getD 0 0) :=
  ⟨inv_sB1, turn_of (by decide +kernel), by unfold ArrayQueue Passes; decide +kernel⟩
end Rules

/-! Table commands -/
namespace Tables
def eCr (t wd gr n mk : Nat) : Exec := exec0 0x01 ([t, wd, gr, 0] ++ nb 2 n ++ [0,0] ++ nb 8 mk)
def e1 := eCr 9 1 1 4 0xFF
def c1 := cmd e1 [1,2,3,4]
theorem inv_c1 : c1.Inv := inv_of (by decide +kernel)
theorem test_TableCommands_1 :
    (c1.Inv) ∧
    (Turn c1 (0 : Ch) (↑(2 : Fin 8)) e1 1) ∧
    (ArrayQueue c1 (0 : Ch)) ∧
    (Passes (c1.turn (0 : Ch)) (0 : Ch) ((c1.turn (0 : Ch)).tableCreateChecks (0 : Ch) e1)) ∧
    (HoldsAll (c1.turn (0 : Ch)) (0 : Ch) (↑(2 : Fin 8)) ((c1.turn (0 : Ch)).createBlocks (0 : Ch) e1)) :=
  ⟨inv_c1, turn_of (by decide +kernel), by unfold ArrayQueue Passes HoldsAll; decide +kernel⟩
def e2 : Exec := exec0 0x02 [5,0,0,0]
def c2 := regs (cmd e2 [0]) [(profR 0 2, 0), (profR 0 4, 0)]
theorem inv_c2 : c2.Inv := inv_of (by decide +kernel)
theorem test_TableCommands_2 :
    (c2.Inv) ∧
    (Turn c2 (0 : Ch) (↑(2 : Fin 8)) e2 2) ∧
    (ArrayQueue c2 (0 : Ch)) ∧
    (Passes (c2.turn (0 : Ch)) (0 : Ch) ((c2.turn (0 : Ch)).tableDestroyChecks (0 : Ch) e2)) ∧
    (HoldsAll (c2.turn (0 : Ch)) (0 : Ch) (↑(2 : Fin 8))
      ((c2.turn (0 : Ch)).tableOf (0 : Ch) (e2.par 0 1)).blocks) ∧
    (swf (fun x => TableRec.none_) (c2.chan (0 : Ch)).mgr.tables = true) :=
  ⟨inv_c2, turn_of (by decide +kernel), by unfold ArrayQueue Passes HoldsAll; decide +kernel⟩
def e3 (n : Nat) : Exec := exec0 0x03 ([5,0] ++ nb 2 n)
def c3 := cmd (e3 3) [1,2]
def z69 := (e3 3)
theorem inv_c3 : c3.Inv := inv_of (by decide +kernel)
theorem test_TableCommands_3 :
    (c3.Inv) ∧
    (Turn c3 (0 : Ch) (↑(2 : Fin 8)) z69 3) ∧
    (ArrayQueue c3 (0 : Ch)) ∧
    (Passes (c3.turn (0 : Ch)) (0 : Ch) ((c3.turn (0 : Ch)).tableResizeChecks (0 : Ch) z69)) ∧
    (((c3.turn (0 : Ch)).tableOf (0 : Ch) (z69.par 0 1)).mask ≠ (0 : BitVec 64)) ∧
    (((c3.turn (0 : Ch)).tableOf (0 : Ch) (z69.par 0 1)).blocks.length ≤ z69.par 2 2) ∧
    (HoldsAll (c3.turn (0 : Ch)) (0 : Ch) (↑(2 : Fin 8)) ((c3.turn (0 : Ch)).growBlocks (0 : Ch) z69)) :=
  ⟨inv_c3, turn_of (by decide +kernel), by unfold ArrayQueue Passes HoldsAll; decide +kernel⟩
def c4 := ch0 (fun x => {x with arr := {arr0 with words := [], ads := []}}) (cmd (e3 0) [0])
def z70 := (e3 0)
theorem inv_c4 : c4.Inv := inv_of (by decide +kernel)
theorem test_TableCommands_4 :
    (c4.Inv) ∧
    (Turn c4 (0 : Ch) (↑(2 : Fin 8)) z70 3) ∧
    (ArrayQueue c4 (0 : Ch)) ∧
    (Passes (c4.turn (0 : Ch)) (0 : Ch) ((c4.turn (0 : Ch)).tableResizeChecks (0 : Ch) z70)) ∧
    (((c4.turn (0 : Ch)).tableOf (0 : Ch) (z70.par 0 1)).mask ≠ (0 : BitVec 64)) ∧
    (z70.par 2 2 < ((c4.turn (0 : Ch)).tableOf (0 : Ch) (z70.par 0 1)).blocks.length) ∧
    (HoldsAll (c4.turn (0 : Ch)) (0 : Ch) (↑(2 : Fin 8))
      (List.take
        (((c4.turn (0 : Ch)).tableOf (0 : Ch) (z70.par 0 1)).blocks.length - z70.par 2 2)
        ((c4.turn (0 : Ch)).emptyBlocks (0 : Ch) z70))) :=
  ⟨inv_c4, turn_of (by decide +kernel), by unfold ArrayQueue Passes HoldsAll; decide +kernel⟩
def e5 : Exec := exec0 0x42 ([5,0] ++ nb 2 1)
def c5 := cmd e5 [0]
def c6 := ch0 (fun x => {x with arr := {arr0 with words := [], ads := []}}) (cmd e5 [0])
def two := regs (ch0 (fun x => {x with arr := ⟨[(3, w3), (4096, w3)], [], [(1, mkAd 0x1122334455667788), (2048, mkAd 0x99)], []⟩ }) (mg (fun m => { m with tables := [(5, ⟨0, false, 1, 0xFFFFFFFF, [0, 1]⟩)] }))) [(blkR 0 0 1, (s0.reg (blkR 0 0 0)).toNat)]
def c7 := cmd e5 [] two
theorem inv_c5 : c5.Inv := inv_of (by decide +kernel)
theorem test_TableCommands_5 :
    (c5.Inv) ∧
    (Turn c5 (0 : Ch) (↑(2 : Fin 8)) e5 66) ∧
    (ArrayQueue c5 (0 : Ch)) ∧
    (Passes (c5.turn (0 : Ch)) (0 : Ch) ((c5.turn (0 : Ch)).defragChecks (0 : Ch) e5)) ∧
    (e5.phase = 0) ∧
    (e5.nums = []) ∧
    (((c5.turn (0 : Ch)).tableOf (0 : Ch) (e5.par 0 1)).mask ≠ (0 : BitVec 64)) ∧
    (nextDefrag ((c5.turn (0 : Ch)).planned (0 : Ch)) ((c5.turn (0 : Ch)).tableOf (0 : Ch) (e5.par 0 1)) =
      Defrag.done) :=
  ⟨inv_c5, turn_of (by decide +kernel), by unfold ArrayQueue Passes; decide +kernel⟩
theorem inv_c6 : c6.Inv := inv_of (by decide +kernel)
theorem test_TableCommands_6 :
    (c6.Inv) ∧
    (Turn c6 (0 : Ch) (↑(2 : Fin 8)) e5 66) ∧
    (ArrayQueue c6 (0 : Ch)) ∧
    (Passes (c6.turn (0 : Ch)) (0 : Ch) ((c6.turn (0 : Ch)).defragChecks (0 : Ch) e5)) ∧
    (e5.phase = 0) ∧
    (e5.nums = []) ∧
    (((c6.turn (0 : Ch)).tableOf (0 : Ch) (e5.par 0 1)).mask ≠ (0 : BitVec 64)) ∧
    (e5.par 2 2 = 1) ∧
    (nextDefrag ((c6.turn (0 : Ch)).planned (0 : Ch)) ((c6.turn (0 : Ch)).tableOf (0 : Ch) (e5.par 0 1)) =
      Defrag.release 0) ∧
    ((c6.turn (0 : Ch)).holds (0 : Ch) ↑(2 : Fin 8) 0 = true) :=
  ⟨inv_c6, turn_of (by decide +kernel), by unfold ArrayQueue Passes; decide +kernel⟩
theorem inv_c7 : c7.Inv := inv_of (by decide +kernel)
theorem test_TableCommands_7 :
    (c7.Inv) ∧
    (Turn c7 (0 : Ch) (↑(2 : Fin 8)) e5 66) ∧
    (ArrayQueue c7 (0 : Ch)) ∧
    (Passes (c7.turn (0 : Ch)) (0 : Ch) ((c7.turn (0 : Ch)).defragChecks (0 : Ch) e5)) ∧
    (e5.phase = 0) ∧
    (e5.nums = []) ∧
    (((c7.turn (0 : Ch)).tableOf (0 : Ch) (e5.par 0 1)).mask ≠ (0 : BitVec 64)) ∧
    (nextDefrag ((c7.turn (0 : Ch)).planned (0 : Ch)) ((c7.turn (0 : Ch)).tableOf (0 : Ch) (e5.par 0 1)) =
      Defrag.move 4096 0) ∧
    (((c7.turn (0 : Ch)).planned (0 : Ch)).entBad ((c7.turn (0 : Ch)).tableOf (0 : Ch) (e5.par 0 1)).width
        4096 =
      false) ∧
    (c7.writing (0 : Ch) ↑(2 : Fin 8) = false) ∧
    (¬HoldsAll (c7.turn (0 : Ch)) (0 : Ch) ↑(2 : Fin 8) [(4096 / 4096 : ℕ), (0 / 4096 : ℕ)]) :=
  ⟨inv_c7, turn_of (by decide +kernel), by unfold ArrayQueue Passes HoldsAll; decide +kernel⟩
end Tables

/-! What every mailbox command checks first -/
namespace Checks
def eIns (tg : Nat) (ad : Nat) (pl : List Nat := []) : Exec := exec0 0x10 ([5, tg] ++ nb 3 9 ++ nb 3 0 ++ nb 8 ad ++ nb 10 0xABCD ++ nb 10 0xFFFF ++ pl)
def a1 := cmd (eIns 0 0x55 [1])
def z72 := (eIns 0 0x55 [1])
theorem inv_a1 : a1.Inv := inv_of (by decide +kernel)
theorem test_ChecksComeFirst_1 :
    (a1.Inv) ∧
    (Turn a1 (0 : Ch) (↑(2 : Fin 8)) z72 16) ∧
    (z72.phase = 0) ∧
    (firstChk ((a1.turn (0 : Ch)).ruleInsertChecks (0 : Ch) z72).2.1 = some (259, 4)) :=
  ⟨inv_a1, turn_of (by decide +kernel), by decide +kernel⟩
def e2 := (exec0 0x20 (nb 2 5 ++ [0,0]))
def a2 := cmd e2 []
def a3 := ch0 (fun x => {x with ep := {x.ep with st1 := .staged}}) a2
theorem inv_a3 : a3.Inv := inv_of (by decide +kernel)
theorem test_ChecksComeFirst_2 :
    (a3.Inv) ∧
    (Turn a3 (0 : Ch) (↑(2 : Fin 8)) e2 32) ∧
    (e2.phase = 0) ∧
    (firstChk ((a3.turn (0 : Ch)).epochPrepareChecks (0 : Ch) e2).2.1 = none) ∧
    ((((a3.turn (0 : Ch)).epochPrepareChecks (0 : Ch) e2).1 && (a3.flash (0 : Ch)).full) = false) ∧
    (firstChk ((a3.turn (0 : Ch)).epochPrepareChecks (0 : Ch) e2).2.2 = some (261, 0)) :=
  ⟨inv_a3, turn_of (by decide +kernel), by decide +kernel⟩
end Checks

/-! Epoch commands -/
namespace EpochsA
def ep (f : Epochs → Epochs) (s : State) : State := ch0 (fun x => {x with ep := f x.ep}) s
def e20 := (exec0 0x20 (nb 2 5 ++ [0,0]))
def s20 := cmd e20
theorem inv_s20 : s20.Inv := inv_of (by decide +kernel)
theorem test_EpochCommands_1 :
    (s20.Inv) ∧
    (Turn s20 (0 : Ch) (↑(2 : Fin 8)) e20 32) ∧
    (ArrayQueue s20 (0 : Ch)) ∧
    (Passes (s20.turn (0 : Ch)) (0 : Ch) ((s20.turn (0 : Ch)).epochPrepareChecks (0 : Ch) e20)) :=
  ⟨inv_s20, turn_of (by decide +kernel), by unfold ArrayQueue Passes; decide +kernel⟩
def e21 (sch : Nat) (ph : Nat := 0) (nums : List Nat := []) : Exec := exec0 0x21 ([sch,0] ++ nb 2 50 ++ nb 6 101 ++ nb 4 7 ++ [0,0]) ph nums
def s21 := ep (fun e => {e with st1 := .staged}) (cmd (e21 0))
def s21b := ep (fun e => {e with st1 := .staged}) (cmd (e21 1))
def s21c := ep (fun e => {e with st1 := .staged}) (cmd (e21 1 1 [1]))
def s21d := ep (fun e => {e with st1 := .staged}) (cmd (e21 1 1 [0]))
def z73 := (e21 0)
theorem inv_s21 : s21.Inv := inv_of (by decide +kernel)
theorem test_EpochCommands_2 :
    (s21.Inv) ∧
    (Turn s21 (0 : Ch) (↑(2 : Fin 8)) z73 33) ∧
    (ArrayQueue s21 (0 : Ch)) ∧
    (z73.phase = 0) ∧
    (Passes (s21.turn (0 : Ch)) (0 : Ch) ((s21.turn (0 : Ch)).epochCommitChecks (0 : Ch) z73)) ∧
    (z73.par 0 1 % 2 = 0) :=
  ⟨inv_s21, turn_of (by decide +kernel), by unfold ArrayQueue Passes; decide +kernel⟩
def z74 := (e21 1)
theorem inv_s21b : s21b.Inv := inv_of (by decide +kernel)
theorem test_EpochCommands_3 :
    (s21b.Inv) ∧
    (Turn s21b (0 : Ch) (↑(2 : Fin 8)) z74 33) ∧
    (ArrayQueue s21b (0 : Ch)) ∧
    (z74.phase = 0) ∧
    (Passes (s21b.turn (0 : Ch)) (0 : Ch) ((s21b.turn (0 : Ch)).epochCommitChecks (0 : Ch) z74)) ∧
    (z74.par 0 1 % 2 = 1) :=
  ⟨inv_s21b, turn_of (by decide +kernel), by unfold ArrayQueue Passes; decide +kernel⟩
def z75 := (e21 1 1 [1])
theorem inv_s21c : s21c.Inv := inv_of (by decide +kernel)
theorem test_EpochCommands_4 :
    (s21c.Inv) ∧
    (Turn s21c (0 : Ch) (↑(2 : Fin 8)) z75 33) ∧
    (ArrayQueue s21c (0 : Ch)) ∧
    (z75.phase = 1) ∧
    ((s21c.chan (0 : Ch)).ep.pending = false) ∧
    ((s21c.chan (0 : Ch)).curSlot ≠ z75.nums.getD 0 0) :=
  ⟨inv_s21c, turn_of (by decide +kernel), by unfold ArrayQueue; decide +kernel⟩
def z76 := (e21 1 1 [0])
theorem inv_s21d : s21d.Inv := inv_of (by decide +kernel)
theorem test_EpochCommands_5 :
    (s21d.Inv) ∧
    (Turn s21d (0 : Ch) (↑(2 : Fin 8)) z76 33) ∧
    (ArrayQueue s21d (0 : Ch)) ∧
    (z76.phase = 1) ∧
    ((s21d.chan (0 : Ch)).ep.pending = true ∨ (s21d.chan (0 : Ch)).curSlot = z76.nums.getD 0 0) :=
  ⟨inv_s21d, turn_of (by decide +kernel), by unfold ArrayQueue; decide +kernel⟩
def e22 (ph : Nat := 0) : Exec := exec0 0x22 [] ph [4]
def s22 := ep (fun e => {e with st1 := .staged, armed := true}) (cmd (e22))
def s22b := ep (fun e => {e with st1 := .staged, stagedWork := [3]}) (cmd (e22))
def s22c := ep (fun e => {e with st1 := .staged, stagedWork := [3]}) (cmd (e22) [0])
def w3x : WordCell := mkWord 0x1234 (BitVec.allOnes 80) (mkEcf true false true 7)
def s22d := ch0 (fun x => {x with arr := {arr0 with words := [(3, w3x)]}}) s22c
def s22f := cmd (e22 1)
theorem inv_s22 : s22.Inv := inv_of (by decide +kernel)
theorem test_EpochCommands_6 :
    (s22.Inv) ∧
    (Turn s22 (0 : Ch) (↑(2 : Fin 8)) e22 34) ∧
    (ArrayQueue s22 (0 : Ch)) ∧
    (e22.phase = 0) ∧
    (Passes (s22.turn (0 : Ch)) (0 : Ch) ((s22.turn (0 : Ch)).epochAbortChecks (0 : Ch) e22)) ∧
    (s22.schedDue (0 : Ch) = false) ∧
    ((s22.chan (0 : Ch)).ep.stagedWork = []) ∧
    (s22.writing (0 : Ch) ↑(2 : Fin 8) = false) :=
  ⟨inv_s22, turn_of (by decide +kernel), by unfold ArrayQueue Passes; decide +kernel⟩
theorem inv_s22b : s22b.Inv := inv_of (by decide +kernel)
theorem test_EpochCommands_7 :
    (s22b.Inv) ∧
    (Turn s22b (0 : Ch) (↑(2 : Fin 8)) e22 34) ∧
    (ArrayQueue s22b (0 : Ch)) ∧
    (e22.phase = 0) ∧
    (Passes (s22b.turn (0 : Ch)) (0 : Ch) ((s22b.turn (0 : Ch)).epochAbortChecks (0 : Ch) e22)) ∧
    (s22b.schedDue (0 : Ch) = false) ∧
    ((s22b.chan (0 : Ch)).ep.stagedWork = [3]) ∧
    ((s22b.turn (0 : Ch)).holds (0 : Ch) ↑(2 : Fin 8) (3 / 4096 : ℕ) = false) ∧
    (s22b.writing (0 : Ch) ↑(2 : Fin 8) = false) :=
  ⟨inv_s22b, turn_of (by decide +kernel), by unfold ArrayQueue Passes; decide +kernel⟩
theorem inv_s22d : s22d.Inv := inv_of (by decide +kernel)
theorem test_EpochCommands_8 :
    (s22d.Inv) ∧
    (Turn s22d (0 : Ch) (↑(2 : Fin 8)) e22 34) ∧
    (ArrayQueue s22d (0 : Ch)) ∧
    (e22.phase = 0) ∧
    (Passes (s22d.turn (0 : Ch)) (0 : Ch) ((s22d.turn (0 : Ch)).epochAbortChecks (0 : Ch) e22)) ∧
    (s22d.schedDue (0 : Ch) = false) ∧
    ((s22d.chan (0 : Ch)).ep.stagedWork = [3]) ∧
    ((s22d.turn (0 : Ch)).holds (0 : Ch) ↑(2 : Fin 8) (3 / 4096 : ℕ) = true) ∧
    (ecfValid (((s22d.turn (0 : Ch)).planned (0 : Ch)).word 3).ecf = true) ∧
    (((s22d.turn (0 : Ch)).planned (0 : Ch)).live (s22d.chan (0 : Ch)).curSlot 3 ≠
      ((s22d.turn (0 : Ch)).planned (0 : Ch)).live (s22d.chan (0 : Ch)).othSlot 3) :=
  ⟨inv_s22d, turn_of (by decide +kernel), by unfold ArrayQueue Passes; decide +kernel⟩
def z77 := (e22 1)
theorem inv_s22f : s22f.Inv := inv_of (by decide +kernel)
theorem test_EpochCommands_9 :
    (s22f.Inv) ∧
    (Turn s22f (0 : Ch) (↑(2 : Fin 8)) z77 34) ∧
    (ArrayQueue s22f (0 : Ch)) ∧
    (z77.phase = 1) ∧
    ((s22f.chan (0 : Ch)).othState ≠ EpState.staged ∨
      (s22f.chan (0 : Ch)).ep.pending = true ∨ s22f.schedDue (0 : Ch) = true) :=
  ⟨inv_s22f, turn_of (by decide +kernel), by unfold ArrayQueue; decide +kernel⟩
def e23 (ph : Nat := 0) : Exec := exec0 0x23 [] ph []
def s23 := cmd e23
def s23b := ep (fun e => {e with st1 := .slack, slackStart := 700, slackUs := 50}) (cmd e23)
def s23c := ep (fun e => {e with st1 := .retiring, slackStart := 700, slackUs := 50}) (cmd e23)
def s23d := (cmd (e23 1))
def s23e := ep (fun e => {e with st1 := .retiring, slackStart := 700, slackUs := 50}) (cmd (e23 1))
theorem inv_s23 : s23.Inv := inv_of (by decide +kernel)
theorem test_EpochCommands_10 :
    (s23.Inv) ∧
    (Turn s23 (0 : Ch) (↑(2 : Fin 8)) e23 35) ∧
    (ArrayQueue s23 (0 : Ch)) ∧
    (e23.phase = 0) ∧
    (Passes (s23.turn (0 : Ch)) (0 : Ch) ((s23.turn (0 : Ch)).epochRetireChecks (0 : Ch) e23)) ∧
    ((s23.chan (0 : Ch)).othState = EpState.free) :=
  ⟨inv_s23, turn_of (by decide +kernel), by unfold ArrayQueue Passes; decide +kernel⟩
theorem inv_s23b : s23b.Inv := inv_of (by decide +kernel)
theorem test_EpochCommands_11 :
    (s23b.Inv) ∧
    (Turn s23b (0 : Ch) (↑(2 : Fin 8)) e23 35) ∧
    (ArrayQueue s23b (0 : Ch)) ∧
    (e23.phase = 0) ∧
    (Passes (s23b.turn (0 : Ch)) (0 : Ch) ((s23b.turn (0 : Ch)).epochRetireChecks (0 : Ch) e23)) ∧
    ((s23b.chan (0 : Ch)).othState = EpState.slack) :=
  ⟨inv_s23b, turn_of (by decide +kernel), by unfold ArrayQueue Passes; decide +kernel⟩
theorem inv_s23c : s23c.Inv := inv_of (by decide +kernel)
theorem test_EpochCommands_12 :
    (s23c.Inv) ∧
    (Turn s23c (0 : Ch) (↑(2 : Fin 8)) e23 35) ∧
    (ArrayQueue s23c (0 : Ch)) ∧
    (e23.phase = 0) ∧
    (Passes (s23c.turn (0 : Ch)) (0 : Ch) ((s23c.turn (0 : Ch)).epochRetireChecks (0 : Ch) e23)) ∧
    ((s23c.chan (0 : Ch)).othState = EpState.retiring) :=
  ⟨inv_s23c, turn_of (by decide +kernel), by unfold ArrayQueue Passes; decide +kernel⟩
def z78 := (e23 1)
theorem inv_s23d : s23d.Inv := inv_of (by decide +kernel)
theorem test_EpochCommands_13 :
    (s23d.Inv) ∧
    (Turn s23d (0 : Ch) (↑(2 : Fin 8)) z78 35) ∧
    (ArrayQueue s23d (0 : Ch)) ∧
    (z78.phase = 1) ∧
    ((s23d.chan (0 : Ch)).othState = EpState.free ∨ (s23d.chan (0 : Ch)).othState = EpState.staged) :=
  ⟨inv_s23d, turn_of (by decide +kernel), by unfold ArrayQueue; decide +kernel⟩
def z79 := (e23 1)
theorem inv_s23e : s23e.Inv := inv_of (by decide +kernel)
theorem test_EpochCommands_14 :
    (s23e.Inv) ∧
    (Turn s23e (0 : Ch) (↑(2 : Fin 8)) z79 35) ∧
    (ArrayQueue s23e (0 : Ch)) ∧
    (z79.phase = 1) ∧
    ((s23e.chan (0 : Ch)).othState = EpState.slack ∨ (s23e.chan (0 : Ch)).othState = EpState.retiring) :=
  ⟨inv_s23e, turn_of (by decide +kernel), by unfold ArrayQueue; decide +kernel⟩
end EpochsA

/-! Epoch images -/
namespace EpochsB
def b8 (l : List Nat) : List Byte := l.map (BitVec.ofNat 8)
def ehead (n sec ns sl : Nat) : List Byte :=
  let h := b8 (nb 4 0x56455031 ++ nb 2 1 ++ nb 2 0 ++ nb 2 0x8000 ++ [0, 0] ++ nb 2 8 ++ nb 2 0 ++ nb 6 sec ++ nb 4 ns ++ nb 2 sl ++ nb 4 n)
  let h := padTo 60 h
  h ++ toBytes 4 (crc32c h).toNat
def eimg (recs : List (BitVec 256)) (sec ns sl : Nat) : List Byte :=
  let h := ehead recs.length sec ns sl ++ (recs.map (fun r => toBytes 32 r.toNat)).flatten
  h ++ b8 ([0x0F] ++ nb 7 0 ++ nb 4 recs.length) ++ toBytes 4 (crc32c h).toNat ++ b8 (nb 16 0)
def wrec (t k : Nat) : BitVec 256 := keyItem 1 t k (wordImage (mkWord 5 0xFFFF (mkEcf true true false 9)))
def im (sec sl : Nat) : List Byte := eimg [wrec 5 10] sec 7 sl
def e24 (len : Nat) (ph : Nat := 0) (nums : List Nat := []) : Exec := exec0 0x24 (nb 4 0 ++ nb 4 len) ph nums
def stg0 (l : List Byte) (s : State) : State := ch0 (fun x => x.stagePutBytes 0 0 l) s
def L : Nat := (im 0 5).length
def q1 := stg0 (im 0 50) (cmd (e24 L) [0])
theorem inv_q1 : q1.Inv := inv_of (by decide +kernel)
theorem test_EpochCommands_15 :
    (q1.Inv) ∧
    (Turn q1 (0 : Ch) (↑(2 : Fin 8)) (e24 L) 36) ∧
    (ArrayQueue q1 (0 : Ch)) ∧
    ((e24 L).phase = 0) ∧
    (Passes (q1.turn (0 : Ch)) (0 : Ch) ((q1.turn (0 : Ch)).epochImageChecks (0 : Ch) (e24 L))) ∧
    (imgRecs ((q1.turn (0 : Ch)).stagedFor (0 : Ch) (e24 L) 0) ≠ []) ∧
    (HoldsAll (q1.turn (0 : Ch)) (0 : Ch) (↑(2 : Fin 8))
      (List.map (fun it => wordKey (itemBank it) (itemBlock it) (itemWord it) / 4096)
        (imgRecs ((q1.turn (0 : Ch)).stagedFor (0 : Ch) (e24 L) 0)))) :=
  ⟨inv_q1, turn_of (by decide +kernel), by unfold ArrayQueue Passes HoldsAll; decide +kernel⟩
def q2 := stg0 (im 0 50) (ch0 (fun x => {x with ep := {x.ep with st1 := .staged}}) (cmd (e24 L 1 [1]) [0]))
theorem inv_q2 : q2.Inv := inv_of (by decide +kernel)
theorem test_EpochCommands_16 :
    (q2.Inv) ∧
    (Turn q2 (0 : Ch) (↑(2 : Fin 8)) (e24 L 1 [1]) 36) ∧
    (ArrayQueue q2 (0 : Ch)) ∧
    ((e24 L 1 [1]).phase = 1) ∧
    ((q2.turn (0 : Ch)).stagedBad (0 : Ch) (e24 L 1 [1]) 0 = none) ∧
    ((e24 L 1 [1]).nums =
      [(imgRecs ((q2.turn (0 : Ch)).stagedFor (0 : Ch) (e24 L 1 [1]) 0)).length]) ∧
    (q2.writing (0 : Ch) ↑(2 : Fin 8) = false) ∧
    (bytesAt ((q2.turn (0 : Ch)).stagedFor (0 : Ch) (e24 L 1 [1]) 0) 16 10 ≠ 0) ∧
    (bytesAt ((q2.turn (0 : Ch)).stagedFor (0 : Ch) (e24 L 1 [1]) 0) 22 4 <
      1000000000) ∧
    ((q2.chan (0 : Ch)).ep.armed = false) ∧
    ((q2.chan (0 : Ch)).ep.pending = false) ∧
    ((q2.chan (0 : Ch)).othState = EpState.staged) :=
  ⟨inv_q2, turn_of (by decide +kernel), by unfold ArrayQueue; decide +kernel⟩
def im0 : List Byte := eimg [wrec 5 10] 0 0 50
def q4 := stg0 im0 (ch0 (fun x => {x with ep := {x.ep with st1 := .staged}}) (cmd (e24 L 1 [1]) [0]))
theorem inv_q4 : q4.Inv := inv_of (by decide +kernel)
theorem test_EpochCommands_17 :
    (q4.Inv) ∧
    (Turn q4 (0 : Ch) (↑(2 : Fin 8)) (e24 L 1 [1]) 36) ∧
    (ArrayQueue q4 (0 : Ch)) ∧
    ((e24 L 1 [1]).phase = 1) ∧
    ((q4.turn (0 : Ch)).stagedBad (0 : Ch) (e24 L 1 [1]) 0 = none) ∧
    ((e24 L 1 [1]).nums =
      [(imgRecs ((q4.turn (0 : Ch)).stagedFor (0 : Ch) (e24 L 1 [1]) 0)).length]) ∧
    (q4.writing (0 : Ch) ↑(2 : Fin 8) = false) ∧
    (bytesAt ((q4.turn (0 : Ch)).stagedFor (0 : Ch) (e24 L 1 [1]) 0) 16 10 = 0) :=
  ⟨inv_q4, turn_of (by decide +kernel), by unfold ArrayQueue; decide +kernel⟩
end EpochsB

/-! Flow commands -/
namespace FlowCmds
def eF0 : Exec := exec0 0x30 ([4, 10, 5, 0] ++ nb 2 1 ++ [0,0] ++ (List.range 8).flatMap (fun i => nb 4 (i+77)))
def f30 := cmd eF0
def f30b := cmd eF0 [flowKeyLock 4]
theorem inv_f30 : f30.Inv := inv_of (by decide +kernel)
theorem test_FlowCommands_1 :
    (f30.Inv) ∧
    (Turn f30 (0 : Ch) (↑(2 : Fin 8)) eF0 48) ∧
    (Passes (f30.turn (0 : Ch)) (0 : Ch) ((f30.turn (0 : Ch)).flowCreateChecks (0 : Ch) eF0)) ∧
    ((f30.turn (0 : Ch)).holds (0 : Ch) (↑(2 : Fin 8)) (flowKeyLock (eF0.par 0 1)) = false) :=
  ⟨inv_f30, turn_of (by decide +kernel), by unfold Passes; decide +kernel⟩
theorem inv_f30b : f30b.Inv := inv_of (by decide +kernel)
theorem test_FlowCommands_2 :
    (f30b.Inv) ∧
    (Turn f30b (0 : Ch) (↑(2 : Fin 8)) eF0 48) ∧
    (Passes (f30b.turn (0 : Ch)) (0 : Ch) ((f30b.turn (0 : Ch)).flowCreateChecks (0 : Ch) eF0)) ∧
    ((f30b.turn (0 : Ch)).holds (0 : Ch) (↑(2 : Fin 8)) (flowKeyLock (eF0.par 0 1)) = true) :=
  ⟨inv_f30b, turn_of (by decide +kernel), by unfold Passes; decide +kernel⟩
def kb : List Nat := nb 10 (key4.toNat)
def eFi (fl : Nat := 0) (ph : Nat := 0) : Exec := exec0 0x31 ([3, fl, 0x22, 0] ++ nb 8 0xAB ++ kb) ph [0]
def eFd (fl : Nat := 0) (ph : Nat := 0) : Exec := exec0 0x32 ([3, fl, 0, 0] ++ kb) ph [0]
def eFr (fl : Nat := 0) (ph : Nat := 0) : Exec := exec0 0x33 ([3, fl, 0, 0] ++ kb) ph [0]
def g1 := cmd eFi
def g2 := cmd eFd
def g3 := cmd eFr
theorem inv_g1 : g1.Inv := inv_of (by decide +kernel)
theorem test_FlowCommands_3 :
    (g1.Inv) ∧
    (Turn g1 (0 : Ch) (↑(2 : Fin 8)) eFi 49) ∧
    (eFi.phase ≠ 1) ∧
    (Passes (g1.turn (0 : Ch)) (0 : Ch) ((g1.turn (0 : Ch)).flowInsertChecks (0 : Ch) eFi)) :=
  ⟨inv_g1, turn_of (by decide +kernel), by unfold Passes; decide +kernel⟩
theorem inv_g2 : g2.Inv := inv_of (by decide +kernel)
theorem test_FlowCommands_4 :
    (g2.Inv) ∧
    (Turn g2 (0 : Ch) (↑(2 : Fin 8)) eFd 50) ∧
    (eFd.phase ≠ 1) ∧
    (Passes (g2.turn (0 : Ch)) (0 : Ch) ((g2.turn (0 : Ch)).flowDeleteChecks (0 : Ch) eFd)) :=
  ⟨inv_g2, turn_of (by decide +kernel), by unfold Passes; decide +kernel⟩
theorem inv_g3 : g3.Inv := inv_of (by decide +kernel)
theorem test_FlowCommands_5 :
    (g3.Inv) ∧
    (Turn g3 (0 : Ch) (↑(2 : Fin 8)) eFr 51) ∧
    (eFr.phase ≠ 1) ∧
    (Passes (g3.turn (0 : Ch)) (0 : Ch) ((g3.turn (0 : Ch)).flowReadChecks (0 : Ch) eFr)) :=
  ⟨inv_g3, turn_of (by decide +kernel), by unfold Passes; decide +kernel⟩
def tkm : Ticket := { tkG with owner := .mailbox 2 }
def fin (e : Exec) (lines : List CacheLine) : State := cmd e [] (fl0 (fun q => {q with tickets := [tkm], nextTicket := 1, lines := lines}) sM)
def lNew := lines0 (fun i => line i true)
def lHit := lines0 (fun i => if i = s0.bucketSlot 0 3 bks.2 + 1 then line i true recF (mkB6 1 0 false) else line i true)
def lBad := lines0 (fun i => if i = s0.bucketSlot 0 3 bks.2 + 1 then {line i true recF (mkB6 1 0 false) with sb := 0x1234567890ABCDEF} else line i true)
def h1 := fin (eFi 0 1) lNew
def h2 := fin (eFi 0 1) lHit
def h3 := fin (eFi 1 1) lHit
def h5 := fin (eFi 0 1) lBad
def z80 := (eFi 0 1)
theorem inv_h1 : h1.Inv := inv_of (by decide +kernel)
theorem test_FlowCommands_6 :
    (h1.Inv) ∧
    (∀ (l i : ℕ), ((((h1.turn (0 : Ch)).flowDue (0 : Ch)).readPlaces (0 : Ch) (h1.flowKey (0 : Ch) { id := 0, owner := FlowOwner.mailbox 2, table := 3, key := BitVec.ofNat 640 4660, h1 := BitVec.ofNat 32 0, b1 := 339, b2 := 259, extra := [], lines := true, arrivedAt := 1100, granted := some 1150, linesAt := 1200, joined := false : Ticket }.table { id := 0, owner := FlowOwner.mailbox 2, table := 3, key := BitVec.ofNat 640 4660, h1 := BitVec.ofNat 32 0, b1 := 339, b2 := 259, extra := [], lines := true, arrivedAt := 1100, granted := some 1150, linesAt := 1200, joined := false : Ticket }.key.toNat { id := 0, owner := FlowOwner.mailbox 2, table := 3, key := BitVec.ofNat 640 4660, h1 := BitVec.ofNat 32 0, b1 := 339, b2 := 259, extra := [], lines := true, arrivedAt := 1100, granted := some 1150, linesAt := 1200, joined := false : Ticket }.b1 { id := 0, owner := FlowOwner.mailbox 2, table := 3, key := BitVec.ofNat 640 4660, h1 := BitVec.ofNat 32 0, b1 := 339, b2 := 259, extra := [], lines := true, arrivedAt := 1100, granted := some 1150, linesAt := 1200, joined := false : Ticket }.b2)).chan (0 : Ch)).find (h1.flowKey (0 : Ch) { id := 0, owner := FlowOwner.mailbox 2, table := 3, key := BitVec.ofNat 640 4660, h1 := BitVec.ofNat 32 0, b1 := 339, b2 := 259, extra := [], lines := true, arrivedAt := 1100, granted := some 1150, linesAt := 1200, joined := false : Ticket }.table { id := 0, owner := FlowOwner.mailbox 2, table := 3, key := BitVec.ofNat 640 4660, h1 := BitVec.ofNat 32 0, b1 := 339, b2 := 259, extra := [], lines := true, arrivedAt := 1100, granted := some 1150, linesAt := 1200, joined := false : Ticket }.key.toNat { id := 0, owner := FlowOwner.mailbox 2, table := 3, key := BitVec.ofNat 640 4660, h1 := BitVec.ofNat 32 0, b1 := 339, b2 := 259, extra := [], lines := true, arrivedAt := 1100, granted := some 1150, linesAt := 1200, joined := false : Ticket }.b1 { id := 0, owner := FlowOwner.mailbox 2, table := 3, key := BitVec.ofNat 640 4660, h1 := BitVec.ofNat 32 0, b1 := 339, b2 := 259, extra := [], lines := true, arrivedAt := 1100, granted := some 1150, linesAt := 1200, joined := false : Ticket }.b2) = Found.at_ (FPlace.slot l i) → (h1.flowKey (0 : Ch) { id := 0, owner := FlowOwner.mailbox 2, table := 3, key := BitVec.ofNat 640 4660, h1 := BitVec.ofNat 32 0, b1 := 339, b2 := 259, extra := [], lines := true, arrivedAt := 1100, granted := some 1150, linesAt := 1200, joined := false : Ticket }.table { id := 0, owner := FlowOwner.mailbox 2, table := 3, key := BitVec.ofNat 640 4660, h1 := BitVec.ofNat 32 0, b1 := 339, b2 := 259, extra := [], lines := true, arrivedAt := 1100, granted := some 1150, linesAt := 1200, joined := false : Ticket }.key.toNat { id := 0, owner := FlowOwner.mailbox 2, table := 3, key := BitVec.ofNat 640 4660, h1 := BitVec.ofNat 32 0, b1 := 339, b2 := 259, extra := [], lines := true, arrivedAt := 1100, granted := some 1150, linesAt := 1200, joined := false : Ticket }.b1 { id := 0, owner := FlowOwner.mailbox 2, table := 3, key := BitVec.ofNat 640 4660, h1 := BitVec.ofNat 32 0, b1 := 339, b2 := 259, extra := [], lines := true, arrivedAt := 1100, granted := some 1150, linesAt := 1200, joined := false : Ticket }.b2).double = true → i % 2 = 0) ∧
    (Turn h1 (0 : Ch) (↑(2 : Fin 8)) z80 49) ∧
    (z80.phase = 1) ∧
    (List.find? (fun t => t.id == z80.nums.getD 0 0) (((h1.turn (0 : Ch)).flowDue (0 : Ch)).chan (0 : Ch)).flow.tickets = some { id := 0, owner := FlowOwner.mailbox 2, table := 3, key := BitVec.ofNat 640 4660, h1 := BitVec.ofNat 32 0, b1 := 339, b2 := 259, extra := [], lines := true, arrivedAt := 1100, granted := some 1150, linesAt := 1200, joined := false : Ticket }) ∧
    (((h1.turn (0 : Ch)).flowDue (0 : Ch)).ticketReady (0 : Ch) { id := 0, owner := FlowOwner.mailbox 2, table := 3, key := BitVec.ofNat 640 4660, h1 := BitVec.ofNat 32 0, b1 := 339, b2 := 259, extra := [], lines := true, arrivedAt := 1100, granted := some 1150, linesAt := 1200, joined := false : Ticket } = true) ∧
    ({ id := 0, owner := FlowOwner.mailbox 2, table := 3, key := BitVec.ofNat 640 4660, h1 := BitVec.ofNat 32 0, b1 := 339, b2 := 259, extra := [], lines := true, arrivedAt := 1100, granted := some 1150, linesAt := 1200, joined := false : Ticket }.table < 16) ∧
    ((List.map (fun x => x.slot) (h1.chan (0 : Ch)).flow.lines).Nodup) ∧
    (swf (fun x => penNone) (h1.chan (0 : Ch)).flow.pen = true) ∧
    (((((h1.turn (0 : Ch)).flowDue (0 : Ch)).readPlaces (0 : Ch) (h1.flowKey (0 : Ch) { id := 0, owner := FlowOwner.mailbox 2, table := 3, key := BitVec.ofNat 640 4660, h1 := BitVec.ofNat 32 0, b1 := 339, b2 := 259, extra := [], lines := true, arrivedAt := 1100, granted := some 1150, linesAt := 1200, joined := false : Ticket }.table { id := 0, owner := FlowOwner.mailbox 2, table := 3, key := BitVec.ofNat 640 4660, h1 := BitVec.ofNat 32 0, b1 := 339, b2 := 259, extra := [], lines := true, arrivedAt := 1100, granted := some 1150, linesAt := 1200, joined := false : Ticket }.key.toNat { id := 0, owner := FlowOwner.mailbox 2, table := 3, key := BitVec.ofNat 640 4660, h1 := BitVec.ofNat 32 0, b1 := 339, b2 := 259, extra := [], lines := true, arrivedAt := 1100, granted := some 1150, linesAt := 1200, joined := false : Ticket }.b1 { id := 0, owner := FlowOwner.mailbox 2, table := 3, key := BitVec.ofNat 640 4660, h1 := BitVec.ofNat 32 0, b1 := 339, b2 := 259, extra := [], lines := true, arrivedAt := 1100, granted := some 1150, linesAt := 1200, joined := false : Ticket }.b2)).chan (0 : Ch)).find (h1.flowKey (0 : Ch) { id := 0, owner := FlowOwner.mailbox 2, table := 3, key := BitVec.ofNat 640 4660, h1 := BitVec.ofNat 32 0, b1 := 339, b2 := 259, extra := [], lines := true, arrivedAt := 1100, granted := some 1150, linesAt := 1200, joined := false : Ticket }.table { id := 0, owner := FlowOwner.mailbox 2, table := 3, key := BitVec.ofNat 640 4660, h1 := BitVec.ofNat 32 0, b1 := 339, b2 := 259, extra := [], lines := true, arrivedAt := 1100, granted := some 1150, linesAt := 1200, joined := false : Ticket }.key.toNat { id := 0, owner := FlowOwner.mailbox 2, table := 3, key := BitVec.ofNat 640 4660, h1 := BitVec.ofNat 32 0, b1 := 339, b2 := 259, extra := [], lines := true, arrivedAt := 1100, granted := some 1150, linesAt := 1200, joined := false : Ticket }.b1 { id := 0, owner := FlowOwner.mailbox 2, table := 3, key := BitVec.ofNat 640 4660, h1 := BitVec.ofNat 32 0, b1 := 339, b2 := 259, extra := [], lines := true, arrivedAt := 1100, granted := some 1150, linesAt := 1200, joined := false : Ticket }.b2) = Found.absent) ∧
    (((((h1.turn (0 : Ch)).flowDue (0 : Ch)).readPlaces (0 : Ch) (h1.flowKey (0 : Ch) { id := 0, owner := FlowOwner.mailbox 2, table := 3, key := BitVec.ofNat 640 4660, h1 := BitVec.ofNat 32 0, b1 := 339, b2 := 259, extra := [], lines := true, arrivedAt := 1100, granted := some 1150, linesAt := 1200, joined := false : Ticket }.table { id := 0, owner := FlowOwner.mailbox 2, table := 3, key := BitVec.ofNat 640 4660, h1 := BitVec.ofNat 32 0, b1 := 339, b2 := 259, extra := [], lines := true, arrivedAt := 1100, granted := some 1150, linesAt := 1200, joined := false : Ticket }.key.toNat { id := 0, owner := FlowOwner.mailbox 2, table := 3, key := BitVec.ofNat 640 4660, h1 := BitVec.ofNat 32 0, b1 := 339, b2 := 259, extra := [], lines := true, arrivedAt := 1100, granted := some 1150, linesAt := 1200, joined := false : Ticket }.b1 { id := 0, owner := FlowOwner.mailbox 2, table := 3, key := BitVec.ofNat 640 4660, h1 := BitVec.ofNat 32 0, b1 := 339, b2 := 259, extra := [], lines := true, arrivedAt := 1100, granted := some 1150, linesAt := 1200, joined := false : Ticket }.b2)).chan (0 : Ch)).freePlace (h1.flowKey (0 : Ch) { id := 0, owner := FlowOwner.mailbox 2, table := 3, key := BitVec.ofNat 640 4660, h1 := BitVec.ofNat 32 0, b1 := 339, b2 := 259, extra := [], lines := true, arrivedAt := 1100, granted := some 1150, linesAt := 1200, joined := false : Ticket }.table { id := 0, owner := FlowOwner.mailbox 2, table := 3, key := BitVec.ofNat 640 4660, h1 := BitVec.ofNat 32 0, b1 := 339, b2 := 259, extra := [], lines := true, arrivedAt := 1100, granted := some 1150, linesAt := 1200, joined := false : Ticket }.key.toNat { id := 0, owner := FlowOwner.mailbox 2, table := 3, key := BitVec.ofNat 640 4660, h1 := BitVec.ofNat 32 0, b1 := 339, b2 := 259, extra := [], lines := true, arrivedAt := 1100, granted := some 1150, linesAt := 1200, joined := false : Ticket }.b1 { id := 0, owner := FlowOwner.mailbox 2, table := 3, key := BitVec.ofNat 640 4660, h1 := BitVec.ofNat 32 0, b1 := 339, b2 := 259, extra := [], lines := true, arrivedAt := 1100, granted := some 1150, linesAt := 1200, joined := false : Ticket }.b2) = some (FPlace.slot 1 1356)) :=
  ⟨inv_h1, fun _ _ _ h => absurd h (by decide +kernel), turn_of (by decide +kernel), by decide +kernel⟩
def z81 := (eFi 0 1)
theorem inv_h2 : h2.Inv := inv_of (by decide +kernel)
theorem test_FlowCommands_7 :
    (h2.Inv) ∧
    (∀ (l i : ℕ), ((((h2.turn (0 : Ch)).flowDue (0 : Ch)).readPlaces (0 : Ch) (h2.flowKey (0 : Ch) { id := 0, owner := FlowOwner.mailbox 2, table := 3, key := BitVec.ofNat 640 4660, h1 := BitVec.ofNat 32 0, b1 := 339, b2 := 259, extra := [], lines := true, arrivedAt := 1100, granted := some 1150, linesAt := 1200, joined := false : Ticket }.table { id := 0, owner := FlowOwner.mailbox 2, table := 3, key := BitVec.ofNat 640 4660, h1 := BitVec.ofNat 32 0, b1 := 339, b2 := 259, extra := [], lines := true, arrivedAt := 1100, granted := some 1150, linesAt := 1200, joined := false : Ticket }.key.toNat { id := 0, owner := FlowOwner.mailbox 2, table := 3, key := BitVec.ofNat 640 4660, h1 := BitVec.ofNat 32 0, b1 := 339, b2 := 259, extra := [], lines := true, arrivedAt := 1100, granted := some 1150, linesAt := 1200, joined := false : Ticket }.b1 { id := 0, owner := FlowOwner.mailbox 2, table := 3, key := BitVec.ofNat 640 4660, h1 := BitVec.ofNat 32 0, b1 := 339, b2 := 259, extra := [], lines := true, arrivedAt := 1100, granted := some 1150, linesAt := 1200, joined := false : Ticket }.b2)).chan (0 : Ch)).find (h2.flowKey (0 : Ch) { id := 0, owner := FlowOwner.mailbox 2, table := 3, key := BitVec.ofNat 640 4660, h1 := BitVec.ofNat 32 0, b1 := 339, b2 := 259, extra := [], lines := true, arrivedAt := 1100, granted := some 1150, linesAt := 1200, joined := false : Ticket }.table { id := 0, owner := FlowOwner.mailbox 2, table := 3, key := BitVec.ofNat 640 4660, h1 := BitVec.ofNat 32 0, b1 := 339, b2 := 259, extra := [], lines := true, arrivedAt := 1100, granted := some 1150, linesAt := 1200, joined := false : Ticket }.key.toNat { id := 0, owner := FlowOwner.mailbox 2, table := 3, key := BitVec.ofNat 640 4660, h1 := BitVec.ofNat 32 0, b1 := 339, b2 := 259, extra := [], lines := true, arrivedAt := 1100, granted := some 1150, linesAt := 1200, joined := false : Ticket }.b1 { id := 0, owner := FlowOwner.mailbox 2, table := 3, key := BitVec.ofNat 640 4660, h1 := BitVec.ofNat 32 0, b1 := 339, b2 := 259, extra := [], lines := true, arrivedAt := 1100, granted := some 1150, linesAt := 1200, joined := false : Ticket }.b2) = Found.at_ (FPlace.slot l i) → (h2.flowKey (0 : Ch) { id := 0, owner := FlowOwner.mailbox 2, table := 3, key := BitVec.ofNat 640 4660, h1 := BitVec.ofNat 32 0, b1 := 339, b2 := 259, extra := [], lines := true, arrivedAt := 1100, granted := some 1150, linesAt := 1200, joined := false : Ticket }.table { id := 0, owner := FlowOwner.mailbox 2, table := 3, key := BitVec.ofNat 640 4660, h1 := BitVec.ofNat 32 0, b1 := 339, b2 := 259, extra := [], lines := true, arrivedAt := 1100, granted := some 1150, linesAt := 1200, joined := false : Ticket }.key.toNat { id := 0, owner := FlowOwner.mailbox 2, table := 3, key := BitVec.ofNat 640 4660, h1 := BitVec.ofNat 32 0, b1 := 339, b2 := 259, extra := [], lines := true, arrivedAt := 1100, granted := some 1150, linesAt := 1200, joined := false : Ticket }.b1 { id := 0, owner := FlowOwner.mailbox 2, table := 3, key := BitVec.ofNat 640 4660, h1 := BitVec.ofNat 32 0, b1 := 339, b2 := 259, extra := [], lines := true, arrivedAt := 1100, granted := some 1150, linesAt := 1200, joined := false : Ticket }.b2).double = true → i % 2 = 0) ∧
    (Turn h2 (0 : Ch) (↑(2 : Fin 8)) z81 49) ∧
    (z81.phase = 1) ∧
    (List.find? (fun t => t.id == z81.nums.getD 0 0) (((h2.turn (0 : Ch)).flowDue (0 : Ch)).chan (0 : Ch)).flow.tickets = some { id := 0, owner := FlowOwner.mailbox 2, table := 3, key := BitVec.ofNat 640 4660, h1 := BitVec.ofNat 32 0, b1 := 339, b2 := 259, extra := [], lines := true, arrivedAt := 1100, granted := some 1150, linesAt := 1200, joined := false : Ticket }) ∧
    (((h2.turn (0 : Ch)).flowDue (0 : Ch)).ticketReady (0 : Ch) { id := 0, owner := FlowOwner.mailbox 2, table := 3, key := BitVec.ofNat 640 4660, h1 := BitVec.ofNat 32 0, b1 := 339, b2 := 259, extra := [], lines := true, arrivedAt := 1100, granted := some 1150, linesAt := 1200, joined := false : Ticket } = true) ∧
    ({ id := 0, owner := FlowOwner.mailbox 2, table := 3, key := BitVec.ofNat 640 4660, h1 := BitVec.ofNat 32 0, b1 := 339, b2 := 259, extra := [], lines := true, arrivedAt := 1100, granted := some 1150, linesAt := 1200, joined := false : Ticket }.table < 16) ∧
    ((List.map (fun x => x.slot) (h2.chan (0 : Ch)).flow.lines).Nodup) ∧
    (swf (fun x => penNone) (h2.chan (0 : Ch)).flow.pen = true) ∧
    (((((h2.turn (0 : Ch)).flowDue (0 : Ch)).readPlaces (0 : Ch) (h2.flowKey (0 : Ch) { id := 0, owner := FlowOwner.mailbox 2, table := 3, key := BitVec.ofNat 640 4660, h1 := BitVec.ofNat 32 0, b1 := 339, b2 := 259, extra := [], lines := true, arrivedAt := 1100, granted := some 1150, linesAt := 1200, joined := false : Ticket }.table { id := 0, owner := FlowOwner.mailbox 2, table := 3, key := BitVec.ofNat 640 4660, h1 := BitVec.ofNat 32 0, b1 := 339, b2 := 259, extra := [], lines := true, arrivedAt := 1100, granted := some 1150, linesAt := 1200, joined := false : Ticket }.key.toNat { id := 0, owner := FlowOwner.mailbox 2, table := 3, key := BitVec.ofNat 640 4660, h1 := BitVec.ofNat 32 0, b1 := 339, b2 := 259, extra := [], lines := true, arrivedAt := 1100, granted := some 1150, linesAt := 1200, joined := false : Ticket }.b1 { id := 0, owner := FlowOwner.mailbox 2, table := 3, key := BitVec.ofNat 640 4660, h1 := BitVec.ofNat 32 0, b1 := 339, b2 := 259, extra := [], lines := true, arrivedAt := 1100, granted := some 1150, linesAt := 1200, joined := false : Ticket }.b2)).chan (0 : Ch)).find (h2.flowKey (0 : Ch) { id := 0, owner := FlowOwner.mailbox 2, table := 3, key := BitVec.ofNat 640 4660, h1 := BitVec.ofNat 32 0, b1 := 339, b2 := 259, extra := [], lines := true, arrivedAt := 1100, granted := some 1150, linesAt := 1200, joined := false : Ticket }.table { id := 0, owner := FlowOwner.mailbox 2, table := 3, key := BitVec.ofNat 640 4660, h1 := BitVec.ofNat 32 0, b1 := 339, b2 := 259, extra := [], lines := true, arrivedAt := 1100, granted := some 1150, linesAt := 1200, joined := false : Ticket }.key.toNat { id := 0, owner := FlowOwner.mailbox 2, table := 3, key := BitVec.ofNat 640 4660, h1 := BitVec.ofNat 32 0, b1 := 339, b2 := 259, extra := [], lines := true, arrivedAt := 1100, granted := some 1150, linesAt := 1200, joined := false : Ticket }.b1 { id := 0, owner := FlowOwner.mailbox 2, table := 3, key := BitVec.ofNat 640 4660, h1 := BitVec.ofNat 32 0, b1 := 339, b2 := 259, extra := [], lines := true, arrivedAt := 1100, granted := some 1150, linesAt := 1200, joined := false : Ticket }.b2) = Found.at_ (FPlace.slot 2 1037)) ∧
    (z81.par 1 1 % 2 = 0) :=
  ⟨inv_h2, fun _ _ _ h => absurd h (by decide +kernel), turn_of (by decide +kernel), by decide +kernel⟩
def z82 := (eFi 1 1)
theorem inv_h3 : h3.Inv := inv_of (by decide +kernel)
theorem test_FlowCommands_8 :
    (h3.Inv) ∧
    (∀ (l i : ℕ), ((((h3.turn (0 : Ch)).flowDue (0 : Ch)).readPlaces (0 : Ch) (h3.flowKey (0 : Ch) { id := 0, owner := FlowOwner.mailbox 2, table := 3, key := BitVec.ofNat 640 4660, h1 := BitVec.ofNat 32 0, b1 := 339, b2 := 259, extra := [], lines := true, arrivedAt := 1100, granted := some 1150, linesAt := 1200, joined := false : Ticket }.table { id := 0, owner := FlowOwner.mailbox 2, table := 3, key := BitVec.ofNat 640 4660, h1 := BitVec.ofNat 32 0, b1 := 339, b2 := 259, extra := [], lines := true, arrivedAt := 1100, granted := some 1150, linesAt := 1200, joined := false : Ticket }.key.toNat { id := 0, owner := FlowOwner.mailbox 2, table := 3, key := BitVec.ofNat 640 4660, h1 := BitVec.ofNat 32 0, b1 := 339, b2 := 259, extra := [], lines := true, arrivedAt := 1100, granted := some 1150, linesAt := 1200, joined := false : Ticket }.b1 { id := 0, owner := FlowOwner.mailbox 2, table := 3, key := BitVec.ofNat 640 4660, h1 := BitVec.ofNat 32 0, b1 := 339, b2 := 259, extra := [], lines := true, arrivedAt := 1100, granted := some 1150, linesAt := 1200, joined := false : Ticket }.b2)).chan (0 : Ch)).find (h3.flowKey (0 : Ch) { id := 0, owner := FlowOwner.mailbox 2, table := 3, key := BitVec.ofNat 640 4660, h1 := BitVec.ofNat 32 0, b1 := 339, b2 := 259, extra := [], lines := true, arrivedAt := 1100, granted := some 1150, linesAt := 1200, joined := false : Ticket }.table { id := 0, owner := FlowOwner.mailbox 2, table := 3, key := BitVec.ofNat 640 4660, h1 := BitVec.ofNat 32 0, b1 := 339, b2 := 259, extra := [], lines := true, arrivedAt := 1100, granted := some 1150, linesAt := 1200, joined := false : Ticket }.key.toNat { id := 0, owner := FlowOwner.mailbox 2, table := 3, key := BitVec.ofNat 640 4660, h1 := BitVec.ofNat 32 0, b1 := 339, b2 := 259, extra := [], lines := true, arrivedAt := 1100, granted := some 1150, linesAt := 1200, joined := false : Ticket }.b1 { id := 0, owner := FlowOwner.mailbox 2, table := 3, key := BitVec.ofNat 640 4660, h1 := BitVec.ofNat 32 0, b1 := 339, b2 := 259, extra := [], lines := true, arrivedAt := 1100, granted := some 1150, linesAt := 1200, joined := false : Ticket }.b2) = Found.at_ (FPlace.slot l i) → (h3.flowKey (0 : Ch) { id := 0, owner := FlowOwner.mailbox 2, table := 3, key := BitVec.ofNat 640 4660, h1 := BitVec.ofNat 32 0, b1 := 339, b2 := 259, extra := [], lines := true, arrivedAt := 1100, granted := some 1150, linesAt := 1200, joined := false : Ticket }.table { id := 0, owner := FlowOwner.mailbox 2, table := 3, key := BitVec.ofNat 640 4660, h1 := BitVec.ofNat 32 0, b1 := 339, b2 := 259, extra := [], lines := true, arrivedAt := 1100, granted := some 1150, linesAt := 1200, joined := false : Ticket }.key.toNat { id := 0, owner := FlowOwner.mailbox 2, table := 3, key := BitVec.ofNat 640 4660, h1 := BitVec.ofNat 32 0, b1 := 339, b2 := 259, extra := [], lines := true, arrivedAt := 1100, granted := some 1150, linesAt := 1200, joined := false : Ticket }.b1 { id := 0, owner := FlowOwner.mailbox 2, table := 3, key := BitVec.ofNat 640 4660, h1 := BitVec.ofNat 32 0, b1 := 339, b2 := 259, extra := [], lines := true, arrivedAt := 1100, granted := some 1150, linesAt := 1200, joined := false : Ticket }.b2).double = true → i % 2 = 0) ∧
    (Turn h3 (0 : Ch) (↑(2 : Fin 8)) z82 49) ∧
    (z82.phase = 1) ∧
    (List.find? (fun t => t.id == z82.nums.getD 0 0) (((h3.turn (0 : Ch)).flowDue (0 : Ch)).chan (0 : Ch)).flow.tickets = some { id := 0, owner := FlowOwner.mailbox 2, table := 3, key := BitVec.ofNat 640 4660, h1 := BitVec.ofNat 32 0, b1 := 339, b2 := 259, extra := [], lines := true, arrivedAt := 1100, granted := some 1150, linesAt := 1200, joined := false : Ticket }) ∧
    (((h3.turn (0 : Ch)).flowDue (0 : Ch)).ticketReady (0 : Ch) { id := 0, owner := FlowOwner.mailbox 2, table := 3, key := BitVec.ofNat 640 4660, h1 := BitVec.ofNat 32 0, b1 := 339, b2 := 259, extra := [], lines := true, arrivedAt := 1100, granted := some 1150, linesAt := 1200, joined := false : Ticket } = true) ∧
    ({ id := 0, owner := FlowOwner.mailbox 2, table := 3, key := BitVec.ofNat 640 4660, h1 := BitVec.ofNat 32 0, b1 := 339, b2 := 259, extra := [], lines := true, arrivedAt := 1100, granted := some 1150, linesAt := 1200, joined := false : Ticket }.table < 16) ∧
    ((List.map (fun x => x.slot) (h3.chan (0 : Ch)).flow.lines).Nodup) ∧
    (swf (fun x => penNone) (h3.chan (0 : Ch)).flow.pen = true) ∧
    (((((h3.turn (0 : Ch)).flowDue (0 : Ch)).readPlaces (0 : Ch) (h3.flowKey (0 : Ch) { id := 0, owner := FlowOwner.mailbox 2, table := 3, key := BitVec.ofNat 640 4660, h1 := BitVec.ofNat 32 0, b1 := 339, b2 := 259, extra := [], lines := true, arrivedAt := 1100, granted := some 1150, linesAt := 1200, joined := false : Ticket }.table { id := 0, owner := FlowOwner.mailbox 2, table := 3, key := BitVec.ofNat 640 4660, h1 := BitVec.ofNat 32 0, b1 := 339, b2 := 259, extra := [], lines := true, arrivedAt := 1100, granted := some 1150, linesAt := 1200, joined := false : Ticket }.key.toNat { id := 0, owner := FlowOwner.mailbox 2, table := 3, key := BitVec.ofNat 640 4660, h1 := BitVec.ofNat 32 0, b1 := 339, b2 := 259, extra := [], lines := true, arrivedAt := 1100, granted := some 1150, linesAt := 1200, joined := false : Ticket }.b1 { id := 0, owner := FlowOwner.mailbox 2, table := 3, key := BitVec.ofNat 640 4660, h1 := BitVec.ofNat 32 0, b1 := 339, b2 := 259, extra := [], lines := true, arrivedAt := 1100, granted := some 1150, linesAt := 1200, joined := false : Ticket }.b2)).chan (0 : Ch)).find (h3.flowKey (0 : Ch) { id := 0, owner := FlowOwner.mailbox 2, table := 3, key := BitVec.ofNat 640 4660, h1 := BitVec.ofNat 32 0, b1 := 339, b2 := 259, extra := [], lines := true, arrivedAt := 1100, granted := some 1150, linesAt := 1200, joined := false : Ticket }.table { id := 0, owner := FlowOwner.mailbox 2, table := 3, key := BitVec.ofNat 640 4660, h1 := BitVec.ofNat 32 0, b1 := 339, b2 := 259, extra := [], lines := true, arrivedAt := 1100, granted := some 1150, linesAt := 1200, joined := false : Ticket }.key.toNat { id := 0, owner := FlowOwner.mailbox 2, table := 3, key := BitVec.ofNat 640 4660, h1 := BitVec.ofNat 32 0, b1 := 339, b2 := 259, extra := [], lines := true, arrivedAt := 1100, granted := some 1150, linesAt := 1200, joined := false : Ticket }.b1 { id := 0, owner := FlowOwner.mailbox 2, table := 3, key := BitVec.ofNat 640 4660, h1 := BitVec.ofNat 32 0, b1 := 339, b2 := 259, extra := [], lines := true, arrivedAt := 1100, granted := some 1150, linesAt := 1200, joined := false : Ticket }.b2) = Found.at_ (FPlace.slot 2 1037)) ∧
    (z82.par 1 1 % 2 = 1) :=
  ⟨inv_h3, fun _ _ _ h => absurd h (by decide +kernel), turn_of (by decide +kernel), by decide +kernel⟩
def z84 := (eFi 0 1)
theorem inv_h5 : h5.Inv := inv_of (by decide +kernel)
theorem test_FlowCommands_9 :
    (h5.Inv) ∧
    (∀ (l i : ℕ), ((((h5.turn (0 : Ch)).flowDue (0 : Ch)).readPlaces (0 : Ch) (h5.flowKey (0 : Ch) { id := 0, owner := FlowOwner.mailbox 2, table := 3, key := BitVec.ofNat 640 4660, h1 := BitVec.ofNat 32 0, b1 := 339, b2 := 259, extra := [], lines := true, arrivedAt := 1100, granted := some 1150, linesAt := 1200, joined := false : Ticket }.table { id := 0, owner := FlowOwner.mailbox 2, table := 3, key := BitVec.ofNat 640 4660, h1 := BitVec.ofNat 32 0, b1 := 339, b2 := 259, extra := [], lines := true, arrivedAt := 1100, granted := some 1150, linesAt := 1200, joined := false : Ticket }.key.toNat { id := 0, owner := FlowOwner.mailbox 2, table := 3, key := BitVec.ofNat 640 4660, h1 := BitVec.ofNat 32 0, b1 := 339, b2 := 259, extra := [], lines := true, arrivedAt := 1100, granted := some 1150, linesAt := 1200, joined := false : Ticket }.b1 { id := 0, owner := FlowOwner.mailbox 2, table := 3, key := BitVec.ofNat 640 4660, h1 := BitVec.ofNat 32 0, b1 := 339, b2 := 259, extra := [], lines := true, arrivedAt := 1100, granted := some 1150, linesAt := 1200, joined := false : Ticket }.b2)).chan (0 : Ch)).find (h5.flowKey (0 : Ch) { id := 0, owner := FlowOwner.mailbox 2, table := 3, key := BitVec.ofNat 640 4660, h1 := BitVec.ofNat 32 0, b1 := 339, b2 := 259, extra := [], lines := true, arrivedAt := 1100, granted := some 1150, linesAt := 1200, joined := false : Ticket }.table { id := 0, owner := FlowOwner.mailbox 2, table := 3, key := BitVec.ofNat 640 4660, h1 := BitVec.ofNat 32 0, b1 := 339, b2 := 259, extra := [], lines := true, arrivedAt := 1100, granted := some 1150, linesAt := 1200, joined := false : Ticket }.key.toNat { id := 0, owner := FlowOwner.mailbox 2, table := 3, key := BitVec.ofNat 640 4660, h1 := BitVec.ofNat 32 0, b1 := 339, b2 := 259, extra := [], lines := true, arrivedAt := 1100, granted := some 1150, linesAt := 1200, joined := false : Ticket }.b1 { id := 0, owner := FlowOwner.mailbox 2, table := 3, key := BitVec.ofNat 640 4660, h1 := BitVec.ofNat 32 0, b1 := 339, b2 := 259, extra := [], lines := true, arrivedAt := 1100, granted := some 1150, linesAt := 1200, joined := false : Ticket }.b2) = Found.at_ (FPlace.slot l i) → (h5.flowKey (0 : Ch) { id := 0, owner := FlowOwner.mailbox 2, table := 3, key := BitVec.ofNat 640 4660, h1 := BitVec.ofNat 32 0, b1 := 339, b2 := 259, extra := [], lines := true, arrivedAt := 1100, granted := some 1150, linesAt := 1200, joined := false : Ticket }.table { id := 0, owner := FlowOwner.mailbox 2, table := 3, key := BitVec.ofNat 640 4660, h1 := BitVec.ofNat 32 0, b1 := 339, b2 := 259, extra := [], lines := true, arrivedAt := 1100, granted := some 1150, linesAt := 1200, joined := false : Ticket }.key.toNat { id := 0, owner := FlowOwner.mailbox 2, table := 3, key := BitVec.ofNat 640 4660, h1 := BitVec.ofNat 32 0, b1 := 339, b2 := 259, extra := [], lines := true, arrivedAt := 1100, granted := some 1150, linesAt := 1200, joined := false : Ticket }.b1 { id := 0, owner := FlowOwner.mailbox 2, table := 3, key := BitVec.ofNat 640 4660, h1 := BitVec.ofNat 32 0, b1 := 339, b2 := 259, extra := [], lines := true, arrivedAt := 1100, granted := some 1150, linesAt := 1200, joined := false : Ticket }.b2).double = true → i % 2 = 0) ∧
    (Turn h5 (0 : Ch) (↑(2 : Fin 8)) z84 49) ∧
    (z84.phase = 1) ∧
    (List.find? (fun t => t.id == z84.nums.getD 0 0) (((h5.turn (0 : Ch)).flowDue (0 : Ch)).chan (0 : Ch)).flow.tickets = some { id := 0, owner := FlowOwner.mailbox 2, table := 3, key := BitVec.ofNat 640 4660, h1 := BitVec.ofNat 32 0, b1 := 339, b2 := 259, extra := [], lines := true, arrivedAt := 1100, granted := some 1150, linesAt := 1200, joined := false : Ticket }) ∧
    (((h5.turn (0 : Ch)).flowDue (0 : Ch)).ticketReady (0 : Ch) { id := 0, owner := FlowOwner.mailbox 2, table := 3, key := BitVec.ofNat 640 4660, h1 := BitVec.ofNat 32 0, b1 := 339, b2 := 259, extra := [], lines := true, arrivedAt := 1100, granted := some 1150, linesAt := 1200, joined := false : Ticket } = true) ∧
    ({ id := 0, owner := FlowOwner.mailbox 2, table := 3, key := BitVec.ofNat 640 4660, h1 := BitVec.ofNat 32 0, b1 := 339, b2 := 259, extra := [], lines := true, arrivedAt := 1100, granted := some 1150, linesAt := 1200, joined := false : Ticket }.table < 16) ∧
    ((List.map (fun x => x.slot) (h5.chan (0 : Ch)).flow.lines).Nodup) ∧
    (swf (fun x => penNone) (h5.chan (0 : Ch)).flow.pen = true) ∧
    (((((h5.turn (0 : Ch)).flowDue (0 : Ch)).readPlaces (0 : Ch) (h5.flowKey (0 : Ch) { id := 0, owner := FlowOwner.mailbox 2, table := 3, key := BitVec.ofNat 640 4660, h1 := BitVec.ofNat 32 0, b1 := 339, b2 := 259, extra := [], lines := true, arrivedAt := 1100, granted := some 1150, linesAt := 1200, joined := false : Ticket }.table { id := 0, owner := FlowOwner.mailbox 2, table := 3, key := BitVec.ofNat 640 4660, h1 := BitVec.ofNat 32 0, b1 := 339, b2 := 259, extra := [], lines := true, arrivedAt := 1100, granted := some 1150, linesAt := 1200, joined := false : Ticket }.key.toNat { id := 0, owner := FlowOwner.mailbox 2, table := 3, key := BitVec.ofNat 640 4660, h1 := BitVec.ofNat 32 0, b1 := 339, b2 := 259, extra := [], lines := true, arrivedAt := 1100, granted := some 1150, linesAt := 1200, joined := false : Ticket }.b1 { id := 0, owner := FlowOwner.mailbox 2, table := 3, key := BitVec.ofNat 640 4660, h1 := BitVec.ofNat 32 0, b1 := 339, b2 := 259, extra := [], lines := true, arrivedAt := 1100, granted := some 1150, linesAt := 1200, joined := false : Ticket }.b2)).chan (0 : Ch)).find (h5.flowKey (0 : Ch) { id := 0, owner := FlowOwner.mailbox 2, table := 3, key := BitVec.ofNat 640 4660, h1 := BitVec.ofNat 32 0, b1 := 339, b2 := 259, extra := [], lines := true, arrivedAt := 1100, granted := some 1150, linesAt := 1200, joined := false : Ticket }.table { id := 0, owner := FlowOwner.mailbox 2, table := 3, key := BitVec.ofNat 640 4660, h1 := BitVec.ofNat 32 0, b1 := 339, b2 := 259, extra := [], lines := true, arrivedAt := 1100, granted := some 1150, linesAt := 1200, joined := false : Ticket }.key.toNat { id := 0, owner := FlowOwner.mailbox 2, table := 3, key := BitVec.ofNat 640 4660, h1 := BitVec.ofNat 32 0, b1 := 339, b2 := 259, extra := [], lines := true, arrivedAt := 1100, granted := some 1150, linesAt := 1200, joined := false : Ticket }.b1 { id := 0, owner := FlowOwner.mailbox 2, table := 3, key := BitVec.ofNat 640 4660, h1 := BitVec.ofNat 32 0, b1 := 339, b2 := 259, extra := [], lines := true, arrivedAt := 1100, granted := some 1150, linesAt := 1200, joined := false : Ticket }.b2) = Found.eccErr) :=
  ⟨inv_h5, fun _ _ _ h => absurd h (by decide +kernel), turn_of (by decide +kernel), by decide +kernel⟩
def i1 := fin (eFd 0 1) lNew
def i2 := fin (eFd 0 1) lHit
def i4 := fl0 (fun q => {q with exports := List.replicate 2048 []}) (fin (eFd 1 1) lHit)
def i5 := fin (eFd 0 1) lBad
def z85 := (eFd 0 1)
theorem inv_i1 : i1.Inv := inv_of (by decide +kernel)
theorem test_FlowCommands_10 :
    (i1.Inv) ∧
    (∀ (l i : ℕ), ((((i1.turn (0 : Ch)).flowDue (0 : Ch)).readPlaces (0 : Ch) (i1.flowKey (0 : Ch) { id := 0, owner := FlowOwner.mailbox 2, table := 3, key := BitVec.ofNat 640 4660, h1 := BitVec.ofNat 32 0, b1 := 339, b2 := 259, extra := [], lines := true, arrivedAt := 1100, granted := some 1150, linesAt := 1200, joined := false : Ticket }.table { id := 0, owner := FlowOwner.mailbox 2, table := 3, key := BitVec.ofNat 640 4660, h1 := BitVec.ofNat 32 0, b1 := 339, b2 := 259, extra := [], lines := true, arrivedAt := 1100, granted := some 1150, linesAt := 1200, joined := false : Ticket }.key.toNat { id := 0, owner := FlowOwner.mailbox 2, table := 3, key := BitVec.ofNat 640 4660, h1 := BitVec.ofNat 32 0, b1 := 339, b2 := 259, extra := [], lines := true, arrivedAt := 1100, granted := some 1150, linesAt := 1200, joined := false : Ticket }.b1 { id := 0, owner := FlowOwner.mailbox 2, table := 3, key := BitVec.ofNat 640 4660, h1 := BitVec.ofNat 32 0, b1 := 339, b2 := 259, extra := [], lines := true, arrivedAt := 1100, granted := some 1150, linesAt := 1200, joined := false : Ticket }.b2)).chan (0 : Ch)).find (i1.flowKey (0 : Ch) { id := 0, owner := FlowOwner.mailbox 2, table := 3, key := BitVec.ofNat 640 4660, h1 := BitVec.ofNat 32 0, b1 := 339, b2 := 259, extra := [], lines := true, arrivedAt := 1100, granted := some 1150, linesAt := 1200, joined := false : Ticket }.table { id := 0, owner := FlowOwner.mailbox 2, table := 3, key := BitVec.ofNat 640 4660, h1 := BitVec.ofNat 32 0, b1 := 339, b2 := 259, extra := [], lines := true, arrivedAt := 1100, granted := some 1150, linesAt := 1200, joined := false : Ticket }.key.toNat { id := 0, owner := FlowOwner.mailbox 2, table := 3, key := BitVec.ofNat 640 4660, h1 := BitVec.ofNat 32 0, b1 := 339, b2 := 259, extra := [], lines := true, arrivedAt := 1100, granted := some 1150, linesAt := 1200, joined := false : Ticket }.b1 { id := 0, owner := FlowOwner.mailbox 2, table := 3, key := BitVec.ofNat 640 4660, h1 := BitVec.ofNat 32 0, b1 := 339, b2 := 259, extra := [], lines := true, arrivedAt := 1100, granted := some 1150, linesAt := 1200, joined := false : Ticket }.b2) = Found.at_ (FPlace.slot l i) → (i1.flowKey (0 : Ch) { id := 0, owner := FlowOwner.mailbox 2, table := 3, key := BitVec.ofNat 640 4660, h1 := BitVec.ofNat 32 0, b1 := 339, b2 := 259, extra := [], lines := true, arrivedAt := 1100, granted := some 1150, linesAt := 1200, joined := false : Ticket }.table { id := 0, owner := FlowOwner.mailbox 2, table := 3, key := BitVec.ofNat 640 4660, h1 := BitVec.ofNat 32 0, b1 := 339, b2 := 259, extra := [], lines := true, arrivedAt := 1100, granted := some 1150, linesAt := 1200, joined := false : Ticket }.key.toNat { id := 0, owner := FlowOwner.mailbox 2, table := 3, key := BitVec.ofNat 640 4660, h1 := BitVec.ofNat 32 0, b1 := 339, b2 := 259, extra := [], lines := true, arrivedAt := 1100, granted := some 1150, linesAt := 1200, joined := false : Ticket }.b1 { id := 0, owner := FlowOwner.mailbox 2, table := 3, key := BitVec.ofNat 640 4660, h1 := BitVec.ofNat 32 0, b1 := 339, b2 := 259, extra := [], lines := true, arrivedAt := 1100, granted := some 1150, linesAt := 1200, joined := false : Ticket }.b2).double = true → i % 2 = 0) ∧
    (Turn i1 (0 : Ch) (↑(2 : Fin 8)) z85 50) ∧
    (z85.phase = 1) ∧
    (List.find? (fun t => t.id == z85.nums.getD 0 0) (((i1.turn (0 : Ch)).flowDue (0 : Ch)).chan (0 : Ch)).flow.tickets = some { id := 0, owner := FlowOwner.mailbox 2, table := 3, key := BitVec.ofNat 640 4660, h1 := BitVec.ofNat 32 0, b1 := 339, b2 := 259, extra := [], lines := true, arrivedAt := 1100, granted := some 1150, linesAt := 1200, joined := false : Ticket }) ∧
    (((i1.turn (0 : Ch)).flowDue (0 : Ch)).ticketReady (0 : Ch) { id := 0, owner := FlowOwner.mailbox 2, table := 3, key := BitVec.ofNat 640 4660, h1 := BitVec.ofNat 32 0, b1 := 339, b2 := 259, extra := [], lines := true, arrivedAt := 1100, granted := some 1150, linesAt := 1200, joined := false : Ticket } = true) ∧
    ({ id := 0, owner := FlowOwner.mailbox 2, table := 3, key := BitVec.ofNat 640 4660, h1 := BitVec.ofNat 32 0, b1 := 339, b2 := 259, extra := [], lines := true, arrivedAt := 1100, granted := some 1150, linesAt := 1200, joined := false : Ticket }.table < 16) ∧
    ((List.map (fun x => x.slot) (i1.chan (0 : Ch)).flow.lines).Nodup) ∧
    (swf (fun x => penNone) (i1.chan (0 : Ch)).flow.pen = true) ∧
    (((((i1.turn (0 : Ch)).flowDue (0 : Ch)).readPlaces (0 : Ch) (i1.flowKey (0 : Ch) { id := 0, owner := FlowOwner.mailbox 2, table := 3, key := BitVec.ofNat 640 4660, h1 := BitVec.ofNat 32 0, b1 := 339, b2 := 259, extra := [], lines := true, arrivedAt := 1100, granted := some 1150, linesAt := 1200, joined := false : Ticket }.table { id := 0, owner := FlowOwner.mailbox 2, table := 3, key := BitVec.ofNat 640 4660, h1 := BitVec.ofNat 32 0, b1 := 339, b2 := 259, extra := [], lines := true, arrivedAt := 1100, granted := some 1150, linesAt := 1200, joined := false : Ticket }.key.toNat { id := 0, owner := FlowOwner.mailbox 2, table := 3, key := BitVec.ofNat 640 4660, h1 := BitVec.ofNat 32 0, b1 := 339, b2 := 259, extra := [], lines := true, arrivedAt := 1100, granted := some 1150, linesAt := 1200, joined := false : Ticket }.b1 { id := 0, owner := FlowOwner.mailbox 2, table := 3, key := BitVec.ofNat 640 4660, h1 := BitVec.ofNat 32 0, b1 := 339, b2 := 259, extra := [], lines := true, arrivedAt := 1100, granted := some 1150, linesAt := 1200, joined := false : Ticket }.b2)).chan (0 : Ch)).find (i1.flowKey (0 : Ch) { id := 0, owner := FlowOwner.mailbox 2, table := 3, key := BitVec.ofNat 640 4660, h1 := BitVec.ofNat 32 0, b1 := 339, b2 := 259, extra := [], lines := true, arrivedAt := 1100, granted := some 1150, linesAt := 1200, joined := false : Ticket }.table { id := 0, owner := FlowOwner.mailbox 2, table := 3, key := BitVec.ofNat 640 4660, h1 := BitVec.ofNat 32 0, b1 := 339, b2 := 259, extra := [], lines := true, arrivedAt := 1100, granted := some 1150, linesAt := 1200, joined := false : Ticket }.key.toNat { id := 0, owner := FlowOwner.mailbox 2, table := 3, key := BitVec.ofNat 640 4660, h1 := BitVec.ofNat 32 0, b1 := 339, b2 := 259, extra := [], lines := true, arrivedAt := 1100, granted := some 1150, linesAt := 1200, joined := false : Ticket }.b1 { id := 0, owner := FlowOwner.mailbox 2, table := 3, key := BitVec.ofNat 640 4660, h1 := BitVec.ofNat 32 0, b1 := 339, b2 := 259, extra := [], lines := true, arrivedAt := 1100, granted := some 1150, linesAt := 1200, joined := false : Ticket }.b2) = Found.absent) :=
  ⟨inv_i1, fun _ _ _ h => absurd h (by decide +kernel), turn_of (by decide +kernel), by decide +kernel⟩
def z86 := (eFd 0 1)
theorem inv_i2 : i2.Inv := inv_of (by decide +kernel)
theorem test_FlowCommands_11 :
    (i2.Inv) ∧
    (∀ (l i : ℕ), ((((i2.turn (0 : Ch)).flowDue (0 : Ch)).readPlaces (0 : Ch) (i2.flowKey (0 : Ch) { id := 0, owner := FlowOwner.mailbox 2, table := 3, key := BitVec.ofNat 640 4660, h1 := BitVec.ofNat 32 0, b1 := 339, b2 := 259, extra := [], lines := true, arrivedAt := 1100, granted := some 1150, linesAt := 1200, joined := false : Ticket }.table { id := 0, owner := FlowOwner.mailbox 2, table := 3, key := BitVec.ofNat 640 4660, h1 := BitVec.ofNat 32 0, b1 := 339, b2 := 259, extra := [], lines := true, arrivedAt := 1100, granted := some 1150, linesAt := 1200, joined := false : Ticket }.key.toNat { id := 0, owner := FlowOwner.mailbox 2, table := 3, key := BitVec.ofNat 640 4660, h1 := BitVec.ofNat 32 0, b1 := 339, b2 := 259, extra := [], lines := true, arrivedAt := 1100, granted := some 1150, linesAt := 1200, joined := false : Ticket }.b1 { id := 0, owner := FlowOwner.mailbox 2, table := 3, key := BitVec.ofNat 640 4660, h1 := BitVec.ofNat 32 0, b1 := 339, b2 := 259, extra := [], lines := true, arrivedAt := 1100, granted := some 1150, linesAt := 1200, joined := false : Ticket }.b2)).chan (0 : Ch)).find (i2.flowKey (0 : Ch) { id := 0, owner := FlowOwner.mailbox 2, table := 3, key := BitVec.ofNat 640 4660, h1 := BitVec.ofNat 32 0, b1 := 339, b2 := 259, extra := [], lines := true, arrivedAt := 1100, granted := some 1150, linesAt := 1200, joined := false : Ticket }.table { id := 0, owner := FlowOwner.mailbox 2, table := 3, key := BitVec.ofNat 640 4660, h1 := BitVec.ofNat 32 0, b1 := 339, b2 := 259, extra := [], lines := true, arrivedAt := 1100, granted := some 1150, linesAt := 1200, joined := false : Ticket }.key.toNat { id := 0, owner := FlowOwner.mailbox 2, table := 3, key := BitVec.ofNat 640 4660, h1 := BitVec.ofNat 32 0, b1 := 339, b2 := 259, extra := [], lines := true, arrivedAt := 1100, granted := some 1150, linesAt := 1200, joined := false : Ticket }.b1 { id := 0, owner := FlowOwner.mailbox 2, table := 3, key := BitVec.ofNat 640 4660, h1 := BitVec.ofNat 32 0, b1 := 339, b2 := 259, extra := [], lines := true, arrivedAt := 1100, granted := some 1150, linesAt := 1200, joined := false : Ticket }.b2) = Found.at_ (FPlace.slot l i) → (i2.flowKey (0 : Ch) { id := 0, owner := FlowOwner.mailbox 2, table := 3, key := BitVec.ofNat 640 4660, h1 := BitVec.ofNat 32 0, b1 := 339, b2 := 259, extra := [], lines := true, arrivedAt := 1100, granted := some 1150, linesAt := 1200, joined := false : Ticket }.table { id := 0, owner := FlowOwner.mailbox 2, table := 3, key := BitVec.ofNat 640 4660, h1 := BitVec.ofNat 32 0, b1 := 339, b2 := 259, extra := [], lines := true, arrivedAt := 1100, granted := some 1150, linesAt := 1200, joined := false : Ticket }.key.toNat { id := 0, owner := FlowOwner.mailbox 2, table := 3, key := BitVec.ofNat 640 4660, h1 := BitVec.ofNat 32 0, b1 := 339, b2 := 259, extra := [], lines := true, arrivedAt := 1100, granted := some 1150, linesAt := 1200, joined := false : Ticket }.b1 { id := 0, owner := FlowOwner.mailbox 2, table := 3, key := BitVec.ofNat 640 4660, h1 := BitVec.ofNat 32 0, b1 := 339, b2 := 259, extra := [], lines := true, arrivedAt := 1100, granted := some 1150, linesAt := 1200, joined := false : Ticket }.b2).double = true → i % 2 = 0) ∧
    (Turn i2 (0 : Ch) (↑(2 : Fin 8)) z86 50) ∧
    (z86.phase = 1) ∧
    (List.find? (fun t => t.id == z86.nums.getD 0 0) (((i2.turn (0 : Ch)).flowDue (0 : Ch)).chan (0 : Ch)).flow.tickets = some { id := 0, owner := FlowOwner.mailbox 2, table := 3, key := BitVec.ofNat 640 4660, h1 := BitVec.ofNat 32 0, b1 := 339, b2 := 259, extra := [], lines := true, arrivedAt := 1100, granted := some 1150, linesAt := 1200, joined := false : Ticket }) ∧
    (((i2.turn (0 : Ch)).flowDue (0 : Ch)).ticketReady (0 : Ch) { id := 0, owner := FlowOwner.mailbox 2, table := 3, key := BitVec.ofNat 640 4660, h1 := BitVec.ofNat 32 0, b1 := 339, b2 := 259, extra := [], lines := true, arrivedAt := 1100, granted := some 1150, linesAt := 1200, joined := false : Ticket } = true) ∧
    ({ id := 0, owner := FlowOwner.mailbox 2, table := 3, key := BitVec.ofNat 640 4660, h1 := BitVec.ofNat 32 0, b1 := 339, b2 := 259, extra := [], lines := true, arrivedAt := 1100, granted := some 1150, linesAt := 1200, joined := false : Ticket }.table < 16) ∧
    ((List.map (fun x => x.slot) (i2.chan (0 : Ch)).flow.lines).Nodup) ∧
    (swf (fun x => penNone) (i2.chan (0 : Ch)).flow.pen = true) ∧
    (((((i2.turn (0 : Ch)).flowDue (0 : Ch)).readPlaces (0 : Ch) (i2.flowKey (0 : Ch) { id := 0, owner := FlowOwner.mailbox 2, table := 3, key := BitVec.ofNat 640 4660, h1 := BitVec.ofNat 32 0, b1 := 339, b2 := 259, extra := [], lines := true, arrivedAt := 1100, granted := some 1150, linesAt := 1200, joined := false : Ticket }.table { id := 0, owner := FlowOwner.mailbox 2, table := 3, key := BitVec.ofNat 640 4660, h1 := BitVec.ofNat 32 0, b1 := 339, b2 := 259, extra := [], lines := true, arrivedAt := 1100, granted := some 1150, linesAt := 1200, joined := false : Ticket }.key.toNat { id := 0, owner := FlowOwner.mailbox 2, table := 3, key := BitVec.ofNat 640 4660, h1 := BitVec.ofNat 32 0, b1 := 339, b2 := 259, extra := [], lines := true, arrivedAt := 1100, granted := some 1150, linesAt := 1200, joined := false : Ticket }.b1 { id := 0, owner := FlowOwner.mailbox 2, table := 3, key := BitVec.ofNat 640 4660, h1 := BitVec.ofNat 32 0, b1 := 339, b2 := 259, extra := [], lines := true, arrivedAt := 1100, granted := some 1150, linesAt := 1200, joined := false : Ticket }.b2)).chan (0 : Ch)).find (i2.flowKey (0 : Ch) { id := 0, owner := FlowOwner.mailbox 2, table := 3, key := BitVec.ofNat 640 4660, h1 := BitVec.ofNat 32 0, b1 := 339, b2 := 259, extra := [], lines := true, arrivedAt := 1100, granted := some 1150, linesAt := 1200, joined := false : Ticket }.table { id := 0, owner := FlowOwner.mailbox 2, table := 3, key := BitVec.ofNat 640 4660, h1 := BitVec.ofNat 32 0, b1 := 339, b2 := 259, extra := [], lines := true, arrivedAt := 1100, granted := some 1150, linesAt := 1200, joined := false : Ticket }.key.toNat { id := 0, owner := FlowOwner.mailbox 2, table := 3, key := BitVec.ofNat 640 4660, h1 := BitVec.ofNat 32 0, b1 := 339, b2 := 259, extra := [], lines := true, arrivedAt := 1100, granted := some 1150, linesAt := 1200, joined := false : Ticket }.b1 { id := 0, owner := FlowOwner.mailbox 2, table := 3, key := BitVec.ofNat 640 4660, h1 := BitVec.ofNat 32 0, b1 := 339, b2 := 259, extra := [], lines := true, arrivedAt := 1100, granted := some 1150, linesAt := 1200, joined := false : Ticket }.b2) = Found.at_ (FPlace.slot 2 1037)) ∧
    (z86.par 1 1 % 2 = 0 ∨
      i2.host.isUp = false ∨ (((i2.turn (0 : Ch)).flowDue (0 : Ch)).chan (0 : Ch)).flow.exports.length < 2048) :=
  ⟨inv_i2, fun _ _ _ h => absurd h (by decide +kernel), turn_of (by decide +kernel), by decide +kernel⟩
def z88 := (eFd 0 1)
theorem inv_i5 : i5.Inv := inv_of (by decide +kernel)
theorem test_FlowCommands_12 :
    (i5.Inv) ∧
    (∀ (l i : ℕ), ((((i5.turn (0 : Ch)).flowDue (0 : Ch)).readPlaces (0 : Ch) (i5.flowKey (0 : Ch) { id := 0, owner := FlowOwner.mailbox 2, table := 3, key := BitVec.ofNat 640 4660, h1 := BitVec.ofNat 32 0, b1 := 339, b2 := 259, extra := [], lines := true, arrivedAt := 1100, granted := some 1150, linesAt := 1200, joined := false : Ticket }.table { id := 0, owner := FlowOwner.mailbox 2, table := 3, key := BitVec.ofNat 640 4660, h1 := BitVec.ofNat 32 0, b1 := 339, b2 := 259, extra := [], lines := true, arrivedAt := 1100, granted := some 1150, linesAt := 1200, joined := false : Ticket }.key.toNat { id := 0, owner := FlowOwner.mailbox 2, table := 3, key := BitVec.ofNat 640 4660, h1 := BitVec.ofNat 32 0, b1 := 339, b2 := 259, extra := [], lines := true, arrivedAt := 1100, granted := some 1150, linesAt := 1200, joined := false : Ticket }.b1 { id := 0, owner := FlowOwner.mailbox 2, table := 3, key := BitVec.ofNat 640 4660, h1 := BitVec.ofNat 32 0, b1 := 339, b2 := 259, extra := [], lines := true, arrivedAt := 1100, granted := some 1150, linesAt := 1200, joined := false : Ticket }.b2)).chan (0 : Ch)).find (i5.flowKey (0 : Ch) { id := 0, owner := FlowOwner.mailbox 2, table := 3, key := BitVec.ofNat 640 4660, h1 := BitVec.ofNat 32 0, b1 := 339, b2 := 259, extra := [], lines := true, arrivedAt := 1100, granted := some 1150, linesAt := 1200, joined := false : Ticket }.table { id := 0, owner := FlowOwner.mailbox 2, table := 3, key := BitVec.ofNat 640 4660, h1 := BitVec.ofNat 32 0, b1 := 339, b2 := 259, extra := [], lines := true, arrivedAt := 1100, granted := some 1150, linesAt := 1200, joined := false : Ticket }.key.toNat { id := 0, owner := FlowOwner.mailbox 2, table := 3, key := BitVec.ofNat 640 4660, h1 := BitVec.ofNat 32 0, b1 := 339, b2 := 259, extra := [], lines := true, arrivedAt := 1100, granted := some 1150, linesAt := 1200, joined := false : Ticket }.b1 { id := 0, owner := FlowOwner.mailbox 2, table := 3, key := BitVec.ofNat 640 4660, h1 := BitVec.ofNat 32 0, b1 := 339, b2 := 259, extra := [], lines := true, arrivedAt := 1100, granted := some 1150, linesAt := 1200, joined := false : Ticket }.b2) = Found.at_ (FPlace.slot l i) → (i5.flowKey (0 : Ch) { id := 0, owner := FlowOwner.mailbox 2, table := 3, key := BitVec.ofNat 640 4660, h1 := BitVec.ofNat 32 0, b1 := 339, b2 := 259, extra := [], lines := true, arrivedAt := 1100, granted := some 1150, linesAt := 1200, joined := false : Ticket }.table { id := 0, owner := FlowOwner.mailbox 2, table := 3, key := BitVec.ofNat 640 4660, h1 := BitVec.ofNat 32 0, b1 := 339, b2 := 259, extra := [], lines := true, arrivedAt := 1100, granted := some 1150, linesAt := 1200, joined := false : Ticket }.key.toNat { id := 0, owner := FlowOwner.mailbox 2, table := 3, key := BitVec.ofNat 640 4660, h1 := BitVec.ofNat 32 0, b1 := 339, b2 := 259, extra := [], lines := true, arrivedAt := 1100, granted := some 1150, linesAt := 1200, joined := false : Ticket }.b1 { id := 0, owner := FlowOwner.mailbox 2, table := 3, key := BitVec.ofNat 640 4660, h1 := BitVec.ofNat 32 0, b1 := 339, b2 := 259, extra := [], lines := true, arrivedAt := 1100, granted := some 1150, linesAt := 1200, joined := false : Ticket }.b2).double = true → i % 2 = 0) ∧
    (Turn i5 (0 : Ch) (↑(2 : Fin 8)) z88 50) ∧
    (z88.phase = 1) ∧
    (List.find? (fun t => t.id == z88.nums.getD 0 0) (((i5.turn (0 : Ch)).flowDue (0 : Ch)).chan (0 : Ch)).flow.tickets = some { id := 0, owner := FlowOwner.mailbox 2, table := 3, key := BitVec.ofNat 640 4660, h1 := BitVec.ofNat 32 0, b1 := 339, b2 := 259, extra := [], lines := true, arrivedAt := 1100, granted := some 1150, linesAt := 1200, joined := false : Ticket }) ∧
    (((i5.turn (0 : Ch)).flowDue (0 : Ch)).ticketReady (0 : Ch) { id := 0, owner := FlowOwner.mailbox 2, table := 3, key := BitVec.ofNat 640 4660, h1 := BitVec.ofNat 32 0, b1 := 339, b2 := 259, extra := [], lines := true, arrivedAt := 1100, granted := some 1150, linesAt := 1200, joined := false : Ticket } = true) ∧
    ({ id := 0, owner := FlowOwner.mailbox 2, table := 3, key := BitVec.ofNat 640 4660, h1 := BitVec.ofNat 32 0, b1 := 339, b2 := 259, extra := [], lines := true, arrivedAt := 1100, granted := some 1150, linesAt := 1200, joined := false : Ticket }.table < 16) ∧
    ((List.map (fun x => x.slot) (i5.chan (0 : Ch)).flow.lines).Nodup) ∧
    (swf (fun x => penNone) (i5.chan (0 : Ch)).flow.pen = true) ∧
    (((((i5.turn (0 : Ch)).flowDue (0 : Ch)).readPlaces (0 : Ch) (i5.flowKey (0 : Ch) { id := 0, owner := FlowOwner.mailbox 2, table := 3, key := BitVec.ofNat 640 4660, h1 := BitVec.ofNat 32 0, b1 := 339, b2 := 259, extra := [], lines := true, arrivedAt := 1100, granted := some 1150, linesAt := 1200, joined := false : Ticket }.table { id := 0, owner := FlowOwner.mailbox 2, table := 3, key := BitVec.ofNat 640 4660, h1 := BitVec.ofNat 32 0, b1 := 339, b2 := 259, extra := [], lines := true, arrivedAt := 1100, granted := some 1150, linesAt := 1200, joined := false : Ticket }.key.toNat { id := 0, owner := FlowOwner.mailbox 2, table := 3, key := BitVec.ofNat 640 4660, h1 := BitVec.ofNat 32 0, b1 := 339, b2 := 259, extra := [], lines := true, arrivedAt := 1100, granted := some 1150, linesAt := 1200, joined := false : Ticket }.b1 { id := 0, owner := FlowOwner.mailbox 2, table := 3, key := BitVec.ofNat 640 4660, h1 := BitVec.ofNat 32 0, b1 := 339, b2 := 259, extra := [], lines := true, arrivedAt := 1100, granted := some 1150, linesAt := 1200, joined := false : Ticket }.b2)).chan (0 : Ch)).find (i5.flowKey (0 : Ch) { id := 0, owner := FlowOwner.mailbox 2, table := 3, key := BitVec.ofNat 640 4660, h1 := BitVec.ofNat 32 0, b1 := 339, b2 := 259, extra := [], lines := true, arrivedAt := 1100, granted := some 1150, linesAt := 1200, joined := false : Ticket }.table { id := 0, owner := FlowOwner.mailbox 2, table := 3, key := BitVec.ofNat 640 4660, h1 := BitVec.ofNat 32 0, b1 := 339, b2 := 259, extra := [], lines := true, arrivedAt := 1100, granted := some 1150, linesAt := 1200, joined := false : Ticket }.key.toNat { id := 0, owner := FlowOwner.mailbox 2, table := 3, key := BitVec.ofNat 640 4660, h1 := BitVec.ofNat 32 0, b1 := 339, b2 := 259, extra := [], lines := true, arrivedAt := 1100, granted := some 1150, linesAt := 1200, joined := false : Ticket }.b1 { id := 0, owner := FlowOwner.mailbox 2, table := 3, key := BitVec.ofNat 640 4660, h1 := BitVec.ofNat 32 0, b1 := 339, b2 := 259, extra := [], lines := true, arrivedAt := 1100, granted := some 1150, linesAt := 1200, joined := false : Ticket }.b2) = Found.eccErr) :=
  ⟨inv_i5, fun _ _ _ h => absurd h (by decide +kernel), turn_of (by decide +kernel), by decide +kernel⟩
def z89 := (eFd 1 1)
theorem inv_i4 : i4.Inv := inv_of (by decide +kernel)
theorem test_FlowCommands_13 :
    (i4.Inv) ∧
    (∀ (l i : ℕ), ((((i4.turn (0 : Ch)).flowDue (0 : Ch)).readPlaces (0 : Ch) (i4.flowKey (0 : Ch) { id := 0, owner := FlowOwner.mailbox 2, table := 3, key := BitVec.ofNat 640 4660, h1 := BitVec.ofNat 32 0, b1 := 339, b2 := 259, extra := [], lines := true, arrivedAt := 1100, granted := some 1150, linesAt := 1200, joined := false : Ticket }.table { id := 0, owner := FlowOwner.mailbox 2, table := 3, key := BitVec.ofNat 640 4660, h1 := BitVec.ofNat 32 0, b1 := 339, b2 := 259, extra := [], lines := true, arrivedAt := 1100, granted := some 1150, linesAt := 1200, joined := false : Ticket }.key.toNat { id := 0, owner := FlowOwner.mailbox 2, table := 3, key := BitVec.ofNat 640 4660, h1 := BitVec.ofNat 32 0, b1 := 339, b2 := 259, extra := [], lines := true, arrivedAt := 1100, granted := some 1150, linesAt := 1200, joined := false : Ticket }.b1 { id := 0, owner := FlowOwner.mailbox 2, table := 3, key := BitVec.ofNat 640 4660, h1 := BitVec.ofNat 32 0, b1 := 339, b2 := 259, extra := [], lines := true, arrivedAt := 1100, granted := some 1150, linesAt := 1200, joined := false : Ticket }.b2)).chan (0 : Ch)).find (i4.flowKey (0 : Ch) { id := 0, owner := FlowOwner.mailbox 2, table := 3, key := BitVec.ofNat 640 4660, h1 := BitVec.ofNat 32 0, b1 := 339, b2 := 259, extra := [], lines := true, arrivedAt := 1100, granted := some 1150, linesAt := 1200, joined := false : Ticket }.table { id := 0, owner := FlowOwner.mailbox 2, table := 3, key := BitVec.ofNat 640 4660, h1 := BitVec.ofNat 32 0, b1 := 339, b2 := 259, extra := [], lines := true, arrivedAt := 1100, granted := some 1150, linesAt := 1200, joined := false : Ticket }.key.toNat { id := 0, owner := FlowOwner.mailbox 2, table := 3, key := BitVec.ofNat 640 4660, h1 := BitVec.ofNat 32 0, b1 := 339, b2 := 259, extra := [], lines := true, arrivedAt := 1100, granted := some 1150, linesAt := 1200, joined := false : Ticket }.b1 { id := 0, owner := FlowOwner.mailbox 2, table := 3, key := BitVec.ofNat 640 4660, h1 := BitVec.ofNat 32 0, b1 := 339, b2 := 259, extra := [], lines := true, arrivedAt := 1100, granted := some 1150, linesAt := 1200, joined := false : Ticket }.b2) = Found.at_ (FPlace.slot l i) → (i4.flowKey (0 : Ch) { id := 0, owner := FlowOwner.mailbox 2, table := 3, key := BitVec.ofNat 640 4660, h1 := BitVec.ofNat 32 0, b1 := 339, b2 := 259, extra := [], lines := true, arrivedAt := 1100, granted := some 1150, linesAt := 1200, joined := false : Ticket }.table { id := 0, owner := FlowOwner.mailbox 2, table := 3, key := BitVec.ofNat 640 4660, h1 := BitVec.ofNat 32 0, b1 := 339, b2 := 259, extra := [], lines := true, arrivedAt := 1100, granted := some 1150, linesAt := 1200, joined := false : Ticket }.key.toNat { id := 0, owner := FlowOwner.mailbox 2, table := 3, key := BitVec.ofNat 640 4660, h1 := BitVec.ofNat 32 0, b1 := 339, b2 := 259, extra := [], lines := true, arrivedAt := 1100, granted := some 1150, linesAt := 1200, joined := false : Ticket }.b1 { id := 0, owner := FlowOwner.mailbox 2, table := 3, key := BitVec.ofNat 640 4660, h1 := BitVec.ofNat 32 0, b1 := 339, b2 := 259, extra := [], lines := true, arrivedAt := 1100, granted := some 1150, linesAt := 1200, joined := false : Ticket }.b2).double = true → i % 2 = 0) ∧
    (Turn i4 (0 : Ch) (↑(2 : Fin 8)) z89 50) ∧
    (z89.phase = 1) ∧
    (List.find? (fun t => t.id == z89.nums.getD 0 0) (((i4.turn (0 : Ch)).flowDue (0 : Ch)).chan (0 : Ch)).flow.tickets = some { id := 0, owner := FlowOwner.mailbox 2, table := 3, key := BitVec.ofNat 640 4660, h1 := BitVec.ofNat 32 0, b1 := 339, b2 := 259, extra := [], lines := true, arrivedAt := 1100, granted := some 1150, linesAt := 1200, joined := false : Ticket }) ∧
    (((i4.turn (0 : Ch)).flowDue (0 : Ch)).ticketReady (0 : Ch) { id := 0, owner := FlowOwner.mailbox 2, table := 3, key := BitVec.ofNat 640 4660, h1 := BitVec.ofNat 32 0, b1 := 339, b2 := 259, extra := [], lines := true, arrivedAt := 1100, granted := some 1150, linesAt := 1200, joined := false : Ticket } = true) ∧
    ({ id := 0, owner := FlowOwner.mailbox 2, table := 3, key := BitVec.ofNat 640 4660, h1 := BitVec.ofNat 32 0, b1 := 339, b2 := 259, extra := [], lines := true, arrivedAt := 1100, granted := some 1150, linesAt := 1200, joined := false : Ticket }.table < 16) ∧
    ((List.map (fun x => x.slot) (i4.chan (0 : Ch)).flow.lines).Nodup) ∧
    (swf (fun x => penNone) (i4.chan (0 : Ch)).flow.pen = true) ∧
    (((((i4.turn (0 : Ch)).flowDue (0 : Ch)).readPlaces (0 : Ch) (i4.flowKey (0 : Ch) { id := 0, owner := FlowOwner.mailbox 2, table := 3, key := BitVec.ofNat 640 4660, h1 := BitVec.ofNat 32 0, b1 := 339, b2 := 259, extra := [], lines := true, arrivedAt := 1100, granted := some 1150, linesAt := 1200, joined := false : Ticket }.table { id := 0, owner := FlowOwner.mailbox 2, table := 3, key := BitVec.ofNat 640 4660, h1 := BitVec.ofNat 32 0, b1 := 339, b2 := 259, extra := [], lines := true, arrivedAt := 1100, granted := some 1150, linesAt := 1200, joined := false : Ticket }.key.toNat { id := 0, owner := FlowOwner.mailbox 2, table := 3, key := BitVec.ofNat 640 4660, h1 := BitVec.ofNat 32 0, b1 := 339, b2 := 259, extra := [], lines := true, arrivedAt := 1100, granted := some 1150, linesAt := 1200, joined := false : Ticket }.b1 { id := 0, owner := FlowOwner.mailbox 2, table := 3, key := BitVec.ofNat 640 4660, h1 := BitVec.ofNat 32 0, b1 := 339, b2 := 259, extra := [], lines := true, arrivedAt := 1100, granted := some 1150, linesAt := 1200, joined := false : Ticket }.b2)).chan (0 : Ch)).find (i4.flowKey (0 : Ch) { id := 0, owner := FlowOwner.mailbox 2, table := 3, key := BitVec.ofNat 640 4660, h1 := BitVec.ofNat 32 0, b1 := 339, b2 := 259, extra := [], lines := true, arrivedAt := 1100, granted := some 1150, linesAt := 1200, joined := false : Ticket }.table { id := 0, owner := FlowOwner.mailbox 2, table := 3, key := BitVec.ofNat 640 4660, h1 := BitVec.ofNat 32 0, b1 := 339, b2 := 259, extra := [], lines := true, arrivedAt := 1100, granted := some 1150, linesAt := 1200, joined := false : Ticket }.key.toNat { id := 0, owner := FlowOwner.mailbox 2, table := 3, key := BitVec.ofNat 640 4660, h1 := BitVec.ofNat 32 0, b1 := 339, b2 := 259, extra := [], lines := true, arrivedAt := 1100, granted := some 1150, linesAt := 1200, joined := false : Ticket }.b1 { id := 0, owner := FlowOwner.mailbox 2, table := 3, key := BitVec.ofNat 640 4660, h1 := BitVec.ofNat 32 0, b1 := 339, b2 := 259, extra := [], lines := true, arrivedAt := 1100, granted := some 1150, linesAt := 1200, joined := false : Ticket }.b2) = Found.at_ (FPlace.slot 2 1037)) ∧
    (z89.par 1 1 % 2 = 1) ∧
    (i4.host.isUp = true) ∧
    (2048 ≤ (((i4.turn (0 : Ch)).flowDue (0 : Ch)).chan (0 : Ch)).flow.exports.length) :=
  ⟨inv_i4, fun _ _ _ h => absurd h (by decide +kernel), turn_of (by decide +kernel), by decide +kernel⟩
def j1 := fin (eFr 0 1) lNew
def j2 := fin (eFr 0 1) lHit
def j5 := fin (eFr 0 1) lBad
def z90 := (eFr 0 1)
theorem inv_j1 : j1.Inv := inv_of (by decide +kernel)
theorem test_FlowCommands_14 :
    (j1.Inv) ∧
    (∀ (l i : ℕ), ((((j1.turn (0 : Ch)).flowDue (0 : Ch)).readPlaces (0 : Ch) (j1.flowKey (0 : Ch) { id := 0, owner := FlowOwner.mailbox 2, table := 3, key := BitVec.ofNat 640 4660, h1 := BitVec.ofNat 32 0, b1 := 339, b2 := 259, extra := [], lines := true, arrivedAt := 1100, granted := some 1150, linesAt := 1200, joined := false : Ticket }.table { id := 0, owner := FlowOwner.mailbox 2, table := 3, key := BitVec.ofNat 640 4660, h1 := BitVec.ofNat 32 0, b1 := 339, b2 := 259, extra := [], lines := true, arrivedAt := 1100, granted := some 1150, linesAt := 1200, joined := false : Ticket }.key.toNat { id := 0, owner := FlowOwner.mailbox 2, table := 3, key := BitVec.ofNat 640 4660, h1 := BitVec.ofNat 32 0, b1 := 339, b2 := 259, extra := [], lines := true, arrivedAt := 1100, granted := some 1150, linesAt := 1200, joined := false : Ticket }.b1 { id := 0, owner := FlowOwner.mailbox 2, table := 3, key := BitVec.ofNat 640 4660, h1 := BitVec.ofNat 32 0, b1 := 339, b2 := 259, extra := [], lines := true, arrivedAt := 1100, granted := some 1150, linesAt := 1200, joined := false : Ticket }.b2)).chan (0 : Ch)).find (j1.flowKey (0 : Ch) { id := 0, owner := FlowOwner.mailbox 2, table := 3, key := BitVec.ofNat 640 4660, h1 := BitVec.ofNat 32 0, b1 := 339, b2 := 259, extra := [], lines := true, arrivedAt := 1100, granted := some 1150, linesAt := 1200, joined := false : Ticket }.table { id := 0, owner := FlowOwner.mailbox 2, table := 3, key := BitVec.ofNat 640 4660, h1 := BitVec.ofNat 32 0, b1 := 339, b2 := 259, extra := [], lines := true, arrivedAt := 1100, granted := some 1150, linesAt := 1200, joined := false : Ticket }.key.toNat { id := 0, owner := FlowOwner.mailbox 2, table := 3, key := BitVec.ofNat 640 4660, h1 := BitVec.ofNat 32 0, b1 := 339, b2 := 259, extra := [], lines := true, arrivedAt := 1100, granted := some 1150, linesAt := 1200, joined := false : Ticket }.b1 { id := 0, owner := FlowOwner.mailbox 2, table := 3, key := BitVec.ofNat 640 4660, h1 := BitVec.ofNat 32 0, b1 := 339, b2 := 259, extra := [], lines := true, arrivedAt := 1100, granted := some 1150, linesAt := 1200, joined := false : Ticket }.b2) = Found.at_ (FPlace.slot l i) → (j1.flowKey (0 : Ch) { id := 0, owner := FlowOwner.mailbox 2, table := 3, key := BitVec.ofNat 640 4660, h1 := BitVec.ofNat 32 0, b1 := 339, b2 := 259, extra := [], lines := true, arrivedAt := 1100, granted := some 1150, linesAt := 1200, joined := false : Ticket }.table { id := 0, owner := FlowOwner.mailbox 2, table := 3, key := BitVec.ofNat 640 4660, h1 := BitVec.ofNat 32 0, b1 := 339, b2 := 259, extra := [], lines := true, arrivedAt := 1100, granted := some 1150, linesAt := 1200, joined := false : Ticket }.key.toNat { id := 0, owner := FlowOwner.mailbox 2, table := 3, key := BitVec.ofNat 640 4660, h1 := BitVec.ofNat 32 0, b1 := 339, b2 := 259, extra := [], lines := true, arrivedAt := 1100, granted := some 1150, linesAt := 1200, joined := false : Ticket }.b1 { id := 0, owner := FlowOwner.mailbox 2, table := 3, key := BitVec.ofNat 640 4660, h1 := BitVec.ofNat 32 0, b1 := 339, b2 := 259, extra := [], lines := true, arrivedAt := 1100, granted := some 1150, linesAt := 1200, joined := false : Ticket }.b2).double = true → i % 2 = 0) ∧
    (Turn j1 (0 : Ch) (↑(2 : Fin 8)) z90 51) ∧
    (z90.phase = 1) ∧
    (List.find? (fun t => t.id == z90.nums.getD 0 0) (((j1.turn (0 : Ch)).flowDue (0 : Ch)).chan (0 : Ch)).flow.tickets = some { id := 0, owner := FlowOwner.mailbox 2, table := 3, key := BitVec.ofNat 640 4660, h1 := BitVec.ofNat 32 0, b1 := 339, b2 := 259, extra := [], lines := true, arrivedAt := 1100, granted := some 1150, linesAt := 1200, joined := false : Ticket }) ∧
    (((j1.turn (0 : Ch)).flowDue (0 : Ch)).ticketReady (0 : Ch) { id := 0, owner := FlowOwner.mailbox 2, table := 3, key := BitVec.ofNat 640 4660, h1 := BitVec.ofNat 32 0, b1 := 339, b2 := 259, extra := [], lines := true, arrivedAt := 1100, granted := some 1150, linesAt := 1200, joined := false : Ticket } = true) ∧
    ({ id := 0, owner := FlowOwner.mailbox 2, table := 3, key := BitVec.ofNat 640 4660, h1 := BitVec.ofNat 32 0, b1 := 339, b2 := 259, extra := [], lines := true, arrivedAt := 1100, granted := some 1150, linesAt := 1200, joined := false : Ticket }.table < 16) ∧
    ((List.map (fun x => x.slot) (j1.chan (0 : Ch)).flow.lines).Nodup) ∧
    (swf (fun x => penNone) (j1.chan (0 : Ch)).flow.pen = true) ∧
    (((((j1.turn (0 : Ch)).flowDue (0 : Ch)).readPlaces (0 : Ch) (j1.flowKey (0 : Ch) { id := 0, owner := FlowOwner.mailbox 2, table := 3, key := BitVec.ofNat 640 4660, h1 := BitVec.ofNat 32 0, b1 := 339, b2 := 259, extra := [], lines := true, arrivedAt := 1100, granted := some 1150, linesAt := 1200, joined := false : Ticket }.table { id := 0, owner := FlowOwner.mailbox 2, table := 3, key := BitVec.ofNat 640 4660, h1 := BitVec.ofNat 32 0, b1 := 339, b2 := 259, extra := [], lines := true, arrivedAt := 1100, granted := some 1150, linesAt := 1200, joined := false : Ticket }.key.toNat { id := 0, owner := FlowOwner.mailbox 2, table := 3, key := BitVec.ofNat 640 4660, h1 := BitVec.ofNat 32 0, b1 := 339, b2 := 259, extra := [], lines := true, arrivedAt := 1100, granted := some 1150, linesAt := 1200, joined := false : Ticket }.b1 { id := 0, owner := FlowOwner.mailbox 2, table := 3, key := BitVec.ofNat 640 4660, h1 := BitVec.ofNat 32 0, b1 := 339, b2 := 259, extra := [], lines := true, arrivedAt := 1100, granted := some 1150, linesAt := 1200, joined := false : Ticket }.b2)).chan (0 : Ch)).find (j1.flowKey (0 : Ch) { id := 0, owner := FlowOwner.mailbox 2, table := 3, key := BitVec.ofNat 640 4660, h1 := BitVec.ofNat 32 0, b1 := 339, b2 := 259, extra := [], lines := true, arrivedAt := 1100, granted := some 1150, linesAt := 1200, joined := false : Ticket }.table { id := 0, owner := FlowOwner.mailbox 2, table := 3, key := BitVec.ofNat 640 4660, h1 := BitVec.ofNat 32 0, b1 := 339, b2 := 259, extra := [], lines := true, arrivedAt := 1100, granted := some 1150, linesAt := 1200, joined := false : Ticket }.key.toNat { id := 0, owner := FlowOwner.mailbox 2, table := 3, key := BitVec.ofNat 640 4660, h1 := BitVec.ofNat 32 0, b1 := 339, b2 := 259, extra := [], lines := true, arrivedAt := 1100, granted := some 1150, linesAt := 1200, joined := false : Ticket }.b1 { id := 0, owner := FlowOwner.mailbox 2, table := 3, key := BitVec.ofNat 640 4660, h1 := BitVec.ofNat 32 0, b1 := 339, b2 := 259, extra := [], lines := true, arrivedAt := 1100, granted := some 1150, linesAt := 1200, joined := false : Ticket }.b2) = Found.absent) :=
  ⟨inv_j1, fun _ _ _ h => absurd h (by decide +kernel), turn_of (by decide +kernel), by decide +kernel⟩
def z91 := (eFr 0 1)
theorem inv_j2 : j2.Inv := inv_of (by decide +kernel)
theorem test_FlowCommands_15 :
    (j2.Inv) ∧
    (∀ (l i : ℕ), ((((j2.turn (0 : Ch)).flowDue (0 : Ch)).readPlaces (0 : Ch) (j2.flowKey (0 : Ch) { id := 0, owner := FlowOwner.mailbox 2, table := 3, key := BitVec.ofNat 640 4660, h1 := BitVec.ofNat 32 0, b1 := 339, b2 := 259, extra := [], lines := true, arrivedAt := 1100, granted := some 1150, linesAt := 1200, joined := false : Ticket }.table { id := 0, owner := FlowOwner.mailbox 2, table := 3, key := BitVec.ofNat 640 4660, h1 := BitVec.ofNat 32 0, b1 := 339, b2 := 259, extra := [], lines := true, arrivedAt := 1100, granted := some 1150, linesAt := 1200, joined := false : Ticket }.key.toNat { id := 0, owner := FlowOwner.mailbox 2, table := 3, key := BitVec.ofNat 640 4660, h1 := BitVec.ofNat 32 0, b1 := 339, b2 := 259, extra := [], lines := true, arrivedAt := 1100, granted := some 1150, linesAt := 1200, joined := false : Ticket }.b1 { id := 0, owner := FlowOwner.mailbox 2, table := 3, key := BitVec.ofNat 640 4660, h1 := BitVec.ofNat 32 0, b1 := 339, b2 := 259, extra := [], lines := true, arrivedAt := 1100, granted := some 1150, linesAt := 1200, joined := false : Ticket }.b2)).chan (0 : Ch)).find (j2.flowKey (0 : Ch) { id := 0, owner := FlowOwner.mailbox 2, table := 3, key := BitVec.ofNat 640 4660, h1 := BitVec.ofNat 32 0, b1 := 339, b2 := 259, extra := [], lines := true, arrivedAt := 1100, granted := some 1150, linesAt := 1200, joined := false : Ticket }.table { id := 0, owner := FlowOwner.mailbox 2, table := 3, key := BitVec.ofNat 640 4660, h1 := BitVec.ofNat 32 0, b1 := 339, b2 := 259, extra := [], lines := true, arrivedAt := 1100, granted := some 1150, linesAt := 1200, joined := false : Ticket }.key.toNat { id := 0, owner := FlowOwner.mailbox 2, table := 3, key := BitVec.ofNat 640 4660, h1 := BitVec.ofNat 32 0, b1 := 339, b2 := 259, extra := [], lines := true, arrivedAt := 1100, granted := some 1150, linesAt := 1200, joined := false : Ticket }.b1 { id := 0, owner := FlowOwner.mailbox 2, table := 3, key := BitVec.ofNat 640 4660, h1 := BitVec.ofNat 32 0, b1 := 339, b2 := 259, extra := [], lines := true, arrivedAt := 1100, granted := some 1150, linesAt := 1200, joined := false : Ticket }.b2) = Found.at_ (FPlace.slot l i) → (j2.flowKey (0 : Ch) { id := 0, owner := FlowOwner.mailbox 2, table := 3, key := BitVec.ofNat 640 4660, h1 := BitVec.ofNat 32 0, b1 := 339, b2 := 259, extra := [], lines := true, arrivedAt := 1100, granted := some 1150, linesAt := 1200, joined := false : Ticket }.table { id := 0, owner := FlowOwner.mailbox 2, table := 3, key := BitVec.ofNat 640 4660, h1 := BitVec.ofNat 32 0, b1 := 339, b2 := 259, extra := [], lines := true, arrivedAt := 1100, granted := some 1150, linesAt := 1200, joined := false : Ticket }.key.toNat { id := 0, owner := FlowOwner.mailbox 2, table := 3, key := BitVec.ofNat 640 4660, h1 := BitVec.ofNat 32 0, b1 := 339, b2 := 259, extra := [], lines := true, arrivedAt := 1100, granted := some 1150, linesAt := 1200, joined := false : Ticket }.b1 { id := 0, owner := FlowOwner.mailbox 2, table := 3, key := BitVec.ofNat 640 4660, h1 := BitVec.ofNat 32 0, b1 := 339, b2 := 259, extra := [], lines := true, arrivedAt := 1100, granted := some 1150, linesAt := 1200, joined := false : Ticket }.b2).double = true → i % 2 = 0) ∧
    (Turn j2 (0 : Ch) (↑(2 : Fin 8)) z91 51) ∧
    (z91.phase = 1) ∧
    (List.find? (fun t => t.id == z91.nums.getD 0 0) (((j2.turn (0 : Ch)).flowDue (0 : Ch)).chan (0 : Ch)).flow.tickets = some { id := 0, owner := FlowOwner.mailbox 2, table := 3, key := BitVec.ofNat 640 4660, h1 := BitVec.ofNat 32 0, b1 := 339, b2 := 259, extra := [], lines := true, arrivedAt := 1100, granted := some 1150, linesAt := 1200, joined := false : Ticket }) ∧
    (((j2.turn (0 : Ch)).flowDue (0 : Ch)).ticketReady (0 : Ch) { id := 0, owner := FlowOwner.mailbox 2, table := 3, key := BitVec.ofNat 640 4660, h1 := BitVec.ofNat 32 0, b1 := 339, b2 := 259, extra := [], lines := true, arrivedAt := 1100, granted := some 1150, linesAt := 1200, joined := false : Ticket } = true) ∧
    ({ id := 0, owner := FlowOwner.mailbox 2, table := 3, key := BitVec.ofNat 640 4660, h1 := BitVec.ofNat 32 0, b1 := 339, b2 := 259, extra := [], lines := true, arrivedAt := 1100, granted := some 1150, linesAt := 1200, joined := false : Ticket }.table < 16) ∧
    ((List.map (fun x => x.slot) (j2.chan (0 : Ch)).flow.lines).Nodup) ∧
    (swf (fun x => penNone) (j2.chan (0 : Ch)).flow.pen = true) ∧
    (((((j2.turn (0 : Ch)).flowDue (0 : Ch)).readPlaces (0 : Ch) (j2.flowKey (0 : Ch) { id := 0, owner := FlowOwner.mailbox 2, table := 3, key := BitVec.ofNat 640 4660, h1 := BitVec.ofNat 32 0, b1 := 339, b2 := 259, extra := [], lines := true, arrivedAt := 1100, granted := some 1150, linesAt := 1200, joined := false : Ticket }.table { id := 0, owner := FlowOwner.mailbox 2, table := 3, key := BitVec.ofNat 640 4660, h1 := BitVec.ofNat 32 0, b1 := 339, b2 := 259, extra := [], lines := true, arrivedAt := 1100, granted := some 1150, linesAt := 1200, joined := false : Ticket }.key.toNat { id := 0, owner := FlowOwner.mailbox 2, table := 3, key := BitVec.ofNat 640 4660, h1 := BitVec.ofNat 32 0, b1 := 339, b2 := 259, extra := [], lines := true, arrivedAt := 1100, granted := some 1150, linesAt := 1200, joined := false : Ticket }.b1 { id := 0, owner := FlowOwner.mailbox 2, table := 3, key := BitVec.ofNat 640 4660, h1 := BitVec.ofNat 32 0, b1 := 339, b2 := 259, extra := [], lines := true, arrivedAt := 1100, granted := some 1150, linesAt := 1200, joined := false : Ticket }.b2)).chan (0 : Ch)).find (j2.flowKey (0 : Ch) { id := 0, owner := FlowOwner.mailbox 2, table := 3, key := BitVec.ofNat 640 4660, h1 := BitVec.ofNat 32 0, b1 := 339, b2 := 259, extra := [], lines := true, arrivedAt := 1100, granted := some 1150, linesAt := 1200, joined := false : Ticket }.table { id := 0, owner := FlowOwner.mailbox 2, table := 3, key := BitVec.ofNat 640 4660, h1 := BitVec.ofNat 32 0, b1 := 339, b2 := 259, extra := [], lines := true, arrivedAt := 1100, granted := some 1150, linesAt := 1200, joined := false : Ticket }.key.toNat { id := 0, owner := FlowOwner.mailbox 2, table := 3, key := BitVec.ofNat 640 4660, h1 := BitVec.ofNat 32 0, b1 := 339, b2 := 259, extra := [], lines := true, arrivedAt := 1100, granted := some 1150, linesAt := 1200, joined := false : Ticket }.b1 { id := 0, owner := FlowOwner.mailbox 2, table := 3, key := BitVec.ofNat 640 4660, h1 := BitVec.ofNat 32 0, b1 := 339, b2 := 259, extra := [], lines := true, arrivedAt := 1100, granted := some 1150, linesAt := 1200, joined := false : Ticket }.b2) = Found.at_ (FPlace.slot 2 1037)) :=
  ⟨inv_j2, fun _ _ _ h => absurd h (by decide +kernel), turn_of (by decide +kernel), by decide +kernel⟩
def z92 := (eFr 0 1)
theorem inv_j5 : j5.Inv := inv_of (by decide +kernel)
theorem test_FlowCommands_16 :
    (j5.Inv) ∧
    (∀ (l i : ℕ), ((((j5.turn (0 : Ch)).flowDue (0 : Ch)).readPlaces (0 : Ch) (j5.flowKey (0 : Ch) { id := 0, owner := FlowOwner.mailbox 2, table := 3, key := BitVec.ofNat 640 4660, h1 := BitVec.ofNat 32 0, b1 := 339, b2 := 259, extra := [], lines := true, arrivedAt := 1100, granted := some 1150, linesAt := 1200, joined := false : Ticket }.table { id := 0, owner := FlowOwner.mailbox 2, table := 3, key := BitVec.ofNat 640 4660, h1 := BitVec.ofNat 32 0, b1 := 339, b2 := 259, extra := [], lines := true, arrivedAt := 1100, granted := some 1150, linesAt := 1200, joined := false : Ticket }.key.toNat { id := 0, owner := FlowOwner.mailbox 2, table := 3, key := BitVec.ofNat 640 4660, h1 := BitVec.ofNat 32 0, b1 := 339, b2 := 259, extra := [], lines := true, arrivedAt := 1100, granted := some 1150, linesAt := 1200, joined := false : Ticket }.b1 { id := 0, owner := FlowOwner.mailbox 2, table := 3, key := BitVec.ofNat 640 4660, h1 := BitVec.ofNat 32 0, b1 := 339, b2 := 259, extra := [], lines := true, arrivedAt := 1100, granted := some 1150, linesAt := 1200, joined := false : Ticket }.b2)).chan (0 : Ch)).find (j5.flowKey (0 : Ch) { id := 0, owner := FlowOwner.mailbox 2, table := 3, key := BitVec.ofNat 640 4660, h1 := BitVec.ofNat 32 0, b1 := 339, b2 := 259, extra := [], lines := true, arrivedAt := 1100, granted := some 1150, linesAt := 1200, joined := false : Ticket }.table { id := 0, owner := FlowOwner.mailbox 2, table := 3, key := BitVec.ofNat 640 4660, h1 := BitVec.ofNat 32 0, b1 := 339, b2 := 259, extra := [], lines := true, arrivedAt := 1100, granted := some 1150, linesAt := 1200, joined := false : Ticket }.key.toNat { id := 0, owner := FlowOwner.mailbox 2, table := 3, key := BitVec.ofNat 640 4660, h1 := BitVec.ofNat 32 0, b1 := 339, b2 := 259, extra := [], lines := true, arrivedAt := 1100, granted := some 1150, linesAt := 1200, joined := false : Ticket }.b1 { id := 0, owner := FlowOwner.mailbox 2, table := 3, key := BitVec.ofNat 640 4660, h1 := BitVec.ofNat 32 0, b1 := 339, b2 := 259, extra := [], lines := true, arrivedAt := 1100, granted := some 1150, linesAt := 1200, joined := false : Ticket }.b2) = Found.at_ (FPlace.slot l i) → (j5.flowKey (0 : Ch) { id := 0, owner := FlowOwner.mailbox 2, table := 3, key := BitVec.ofNat 640 4660, h1 := BitVec.ofNat 32 0, b1 := 339, b2 := 259, extra := [], lines := true, arrivedAt := 1100, granted := some 1150, linesAt := 1200, joined := false : Ticket }.table { id := 0, owner := FlowOwner.mailbox 2, table := 3, key := BitVec.ofNat 640 4660, h1 := BitVec.ofNat 32 0, b1 := 339, b2 := 259, extra := [], lines := true, arrivedAt := 1100, granted := some 1150, linesAt := 1200, joined := false : Ticket }.key.toNat { id := 0, owner := FlowOwner.mailbox 2, table := 3, key := BitVec.ofNat 640 4660, h1 := BitVec.ofNat 32 0, b1 := 339, b2 := 259, extra := [], lines := true, arrivedAt := 1100, granted := some 1150, linesAt := 1200, joined := false : Ticket }.b1 { id := 0, owner := FlowOwner.mailbox 2, table := 3, key := BitVec.ofNat 640 4660, h1 := BitVec.ofNat 32 0, b1 := 339, b2 := 259, extra := [], lines := true, arrivedAt := 1100, granted := some 1150, linesAt := 1200, joined := false : Ticket }.b2).double = true → i % 2 = 0) ∧
    (Turn j5 (0 : Ch) (↑(2 : Fin 8)) z92 51) ∧
    (z92.phase = 1) ∧
    (List.find? (fun t => t.id == z92.nums.getD 0 0) (((j5.turn (0 : Ch)).flowDue (0 : Ch)).chan (0 : Ch)).flow.tickets = some { id := 0, owner := FlowOwner.mailbox 2, table := 3, key := BitVec.ofNat 640 4660, h1 := BitVec.ofNat 32 0, b1 := 339, b2 := 259, extra := [], lines := true, arrivedAt := 1100, granted := some 1150, linesAt := 1200, joined := false : Ticket }) ∧
    (((j5.turn (0 : Ch)).flowDue (0 : Ch)).ticketReady (0 : Ch) { id := 0, owner := FlowOwner.mailbox 2, table := 3, key := BitVec.ofNat 640 4660, h1 := BitVec.ofNat 32 0, b1 := 339, b2 := 259, extra := [], lines := true, arrivedAt := 1100, granted := some 1150, linesAt := 1200, joined := false : Ticket } = true) ∧
    ({ id := 0, owner := FlowOwner.mailbox 2, table := 3, key := BitVec.ofNat 640 4660, h1 := BitVec.ofNat 32 0, b1 := 339, b2 := 259, extra := [], lines := true, arrivedAt := 1100, granted := some 1150, linesAt := 1200, joined := false : Ticket }.table < 16) ∧
    ((List.map (fun x => x.slot) (j5.chan (0 : Ch)).flow.lines).Nodup) ∧
    (swf (fun x => penNone) (j5.chan (0 : Ch)).flow.pen = true) ∧
    (((((j5.turn (0 : Ch)).flowDue (0 : Ch)).readPlaces (0 : Ch) (j5.flowKey (0 : Ch) { id := 0, owner := FlowOwner.mailbox 2, table := 3, key := BitVec.ofNat 640 4660, h1 := BitVec.ofNat 32 0, b1 := 339, b2 := 259, extra := [], lines := true, arrivedAt := 1100, granted := some 1150, linesAt := 1200, joined := false : Ticket }.table { id := 0, owner := FlowOwner.mailbox 2, table := 3, key := BitVec.ofNat 640 4660, h1 := BitVec.ofNat 32 0, b1 := 339, b2 := 259, extra := [], lines := true, arrivedAt := 1100, granted := some 1150, linesAt := 1200, joined := false : Ticket }.key.toNat { id := 0, owner := FlowOwner.mailbox 2, table := 3, key := BitVec.ofNat 640 4660, h1 := BitVec.ofNat 32 0, b1 := 339, b2 := 259, extra := [], lines := true, arrivedAt := 1100, granted := some 1150, linesAt := 1200, joined := false : Ticket }.b1 { id := 0, owner := FlowOwner.mailbox 2, table := 3, key := BitVec.ofNat 640 4660, h1 := BitVec.ofNat 32 0, b1 := 339, b2 := 259, extra := [], lines := true, arrivedAt := 1100, granted := some 1150, linesAt := 1200, joined := false : Ticket }.b2)).chan (0 : Ch)).find (j5.flowKey (0 : Ch) { id := 0, owner := FlowOwner.mailbox 2, table := 3, key := BitVec.ofNat 640 4660, h1 := BitVec.ofNat 32 0, b1 := 339, b2 := 259, extra := [], lines := true, arrivedAt := 1100, granted := some 1150, linesAt := 1200, joined := false : Ticket }.table { id := 0, owner := FlowOwner.mailbox 2, table := 3, key := BitVec.ofNat 640 4660, h1 := BitVec.ofNat 32 0, b1 := 339, b2 := 259, extra := [], lines := true, arrivedAt := 1100, granted := some 1150, linesAt := 1200, joined := false : Ticket }.key.toNat { id := 0, owner := FlowOwner.mailbox 2, table := 3, key := BitVec.ofNat 640 4660, h1 := BitVec.ofNat 32 0, b1 := 339, b2 := 259, extra := [], lines := true, arrivedAt := 1100, granted := some 1150, linesAt := 1200, joined := false : Ticket }.b1 { id := 0, owner := FlowOwner.mailbox 2, table := 3, key := BitVec.ofNat 640 4660, h1 := BitVec.ofNat 32 0, b1 := 339, b2 := 259, extra := [], lines := true, arrivedAt := 1100, granted := some 1150, linesAt := 1200, joined := false : Ticket }.b2) = Found.eccErr) :=
  ⟨inv_j5, fun _ _ _ h => absurd h (by decide +kernel), turn_of (by decide +kernel), by decide +kernel⟩
end FlowCmds

/-! The steps of a flush and of a relocation command -/
namespace FlowSteps
def eFf (m : Nat) : Exec := exec0 0x34 ([3, m, 0, 0] ++ nb 4 0)
def k1 := cmd (eFf 0) [flowKeyLock 3] (mg (fun m => sM.chan 0 |>.mgr) (ch0 (fun x => { x with hbm := slotsFull }) sPen))
def z93 := (eFf 0)
theorem inv_k1 : k1.Inv := inv_of (by decide +kernel)
theorem test_FlowCommands_17 :
    (k1.Inv) ∧
    (Turn k1 (0 : Ch) (↑(2 : Fin 8)) z93 52) ∧
    (z93.phase ≠ 1) ∧
    (Passes (k1.turn (0 : Ch)) (0 : Ch) ((k1.turn (0 : Ch)).flowFlushChecks (0 : Ch) z93)) ∧
    ((k1.turn (0 : Ch)).holds (0 : Ch) (↑(2 : Fin 8)) (flowKeyLock (z93.par 0 1)) = true) ∧
    ((k1.turn (0 : Ch)).usedBuckets (0 : Ch) (z93.par 0 1) 0 = [1036, 1356]) :=
  ⟨inv_k1, turn_of (by decide +kernel), by unfold Passes; decide +kernel⟩
def eFl : Exec := exec0 0x35 [3, 3, 0, 0]
def l1 := cmd eFl [flowKeyLock 3] (mg (fun m => sM.chan 0 |>.mgr) (ch0 (fun x => { x with hbm := slotsFull }) sPen))
def l2 := cmd eFl [flowKeyLock 3] 
theorem inv_l1 : l1.Inv := inv_of (by decide +kernel)
theorem test_FlowCommands_18 :
    (l1.Inv) ∧
    (Turn l1 (0 : Ch) (↑(2 : Fin 8)) eFl 53) ∧
    (eFl.phase ≠ 1) ∧
    (Passes (l1.turn (0 : Ch)) (0 : Ch) ((l1.turn (0 : Ch)).flowRelocateChecks (0 : Ch) eFl)) ∧
    ((l1.turn (0 : Ch)).holds (0 : Ch) (↑(2 : Fin 8)) (flowKeyLock (eFl.par 0 1)) = true) ∧
    (((l1.turn (0 : Ch)).chan (0 : Ch)).penOf (eFl.par 0 1) = [7]) ∧
    ((((l1.turn (0 : Ch)).fixPenRecord (0 : Ch) (((l1.turn (0 : Ch)).chan (0 : Ch)).penPlace 7)).chan
            (0 : Ch)).recordBad
        (((l1.turn (0 : Ch)).chan (0 : Ch)).penPlace 7,
          (((l1.turn (0 : Ch)).chan (0 : Ch)).penEntry 7).occ == (2 : BitVec 2)) =
      false) ∧
    ((State.chainReads (0 : Ch) (eFl.par 0 1) ((((l1.turn (0 : Ch)).chan (0 : Ch)).penEntry 7).occ == (2 : BitVec 2)) (eFl.par 1 1) (((l1.turn (0 : Ch)).chan (0 : Ch)).penEntry 7).b2 (State.chainReads (0 : Ch) (eFl.par 0 1) ((((l1.turn (0 : Ch)).chan (0 : Ch)).penEntry 7).occ == (2 : BitVec 2)) (eFl.par 1 1) (((l1.turn (0 : Ch)).chan (0 : Ch)).penEntry 7).b1 ((l1.turn (0 : Ch)).fixPenRecord (0 : Ch) (((l1.turn (0 : Ch)).chan (0 : Ch)).penPlace 7)))).bestChain (0 : Ch) (eFl.par 0 1) ((((l1.turn (0 : Ch)).chan (0 : Ch)).penEntry 7).occ == (2 : BitVec 2)) (((l1.turn (0 : Ch)).chan (0 : Ch)).penEntry 7).b1 (((l1.turn (0 : Ch)).chan (0 : Ch)).penEntry 7).b2 (eFl.par 1 1) = some (1, 1356, [{ src := 1356, dst := 2392 : Move }])) :=
  ⟨inv_l1, turn_of (by decide +kernel), by unfold Passes; decide +kernel⟩
theorem inv_l2 : l2.Inv := inv_of (by decide +kernel)
theorem test_FlowCommands_19 :
    (l2.Inv) ∧
    (Turn l2 (0 : Ch) (↑(2 : Fin 8)) eFl 53) ∧
    (eFl.phase ≠ 1) ∧
    (Passes (l2.turn (0 : Ch)) (0 : Ch) ((l2.turn (0 : Ch)).flowRelocateChecks (0 : Ch) eFl)) ∧
    ((l2.turn (0 : Ch)).holds (0 : Ch) (↑(2 : Fin 8)) (flowKeyLock (eFl.par 0 1)) = true) ∧
    (((l2.turn (0 : Ch)).chan (0 : Ch)).penOf (eFl.par 0 1) = []) :=
  ⟨inv_l2, turn_of (by decide +kernel), by unfold Passes; decide +kernel⟩
/-- The waiting step has its lines. -/
def rdy (s : State) : State := ch0 (fun x => match x.flow.tickets with
  | [] => x
  | tk :: l => {x with flow := {x.flow with
      tickets := {tk with granted := some 900, linesAt := 950} :: l,
      lines := (s.ticketSlots 0 tk).dedup.map (fun i => let v := x.hbmSlot i; ⟨i, v.data, v.sb, true, false, 900, 900⟩)}}) s
def r1 := rdy (nx (exec (.flowFlush 0 2) k1))
def exOf (s : State) : Exec := ((s.chan 0).mgr.exec? 2).getD Exec.none
def tkOf (s : State) : Ticket := (s.chan 0).flow.tickets.headD tk0
theorem inv_r1 : r1.Inv := inv_of (by decide +kernel)
theorem test_FlowCommands_20 :
    (r1.Inv) ∧
    (Turn r1 (0 : Ch) (↑(2 : Fin 8)) (exOf r1) 52) ∧
    ((exOf r1).phase = 1) ∧
    ((exOf r1).nums.getD 2 0 = (tkOf r1).id + 1) ∧
    (List.find? (fun k => k.id == (tkOf r1).id) (((r1.turn (0 : Ch)).flowDue (0 : Ch)).chan (0 : Ch)).flow.tickets =
      some (tkOf r1)) ∧
    ((tkOf r1).table = (exOf r1).par 0 1) ∧
    ((exOf r1).par 0 1 < 16) ∧
    ((List.map (fun x => x.slot) (r1.chan (0 : Ch)).flow.lines).Nodup) ∧
    (swf (fun x => penNone) (r1.chan (0 : Ch)).flow.pen = true) ∧
    (((r1.turn (0 : Ch)).flowDue (0 : Ch)).ticketReady (0 : Ch) (tkOf r1) = true) ∧
    ((exOf r1).nums.getD 0 0 < 2 ^ 25) ∧
    (((exOf r1).par 1 1).testBit 2 = false ∨
      r1.host.isUp = false ∨
        (((r1.turn (0 : Ch)).flowDue (0 : Ch)).chan (0 : Ch)).flow.exports.length +
            (List.filter
                (fun r =>
                  !((((r1.turn (0 : Ch)).flowDue (0 : Ch)).fixBucket (0 : Ch)
                              (((r1.turn (0 : Ch)).flowDue (0 : Ch)).bucketSlot (0 : Ch) ((exOf r1).par 0 1)
                                ((exOf r1).nums.getD 0 0))).chan
                          (0 : Ch)).recordBad
                      r)
                (((((r1.turn (0 : Ch)).flowDue (0 : Ch)).fixBucket (0 : Ch)
                          (((r1.turn (0 : Ch)).flowDue (0 : Ch)).bucketSlot (0 : Ch) ((exOf r1).par 0 1)
                            ((exOf r1).nums.getD 0 0))).chan
                      (0 : Ch)).flushPick
                  ((exOf r1).par 1 1 % 4) ((exOf r1).par 2 1)
                  ((exOf r1).par 3 1)
                  (((((r1.turn (0 : Ch)).flowDue (0 : Ch)).fixBucket (0 : Ch)
                            (((r1.turn (0 : Ch)).flowDue (0 : Ch)).bucketSlot (0 : Ch) ((exOf r1).par 0 1)
                              ((exOf r1).nums.getD 0 0))).chan
                        (0 : Ch)).bucketRecords
                    (r1.ftDouble (0 : Ch) ((exOf r1).par 0 1))
                    (((r1.turn (0 : Ch)).flowDue (0 : Ch)).bucketSlot (0 : Ch) ((exOf r1).par 0 1)
                      ((exOf r1).nums.getD 0 0))))).length ≤
          2048) :=
  ⟨inv_r1, turn_of (by decide +kernel), by decide +kernel⟩
def k1x := cmd (eFf 4) [flowKeyLock 3] k1
def r1x := rdy (nx (exec (.flowFlush 0 2) k1x))
def r1f := ch0 (fun x => {x with flow := {x.flow with exports := List.replicate 2048 []}}) r1x
theorem inv_r1f : r1f.Inv := inv_of (by decide +kernel)
theorem test_FlowCommands_21 :
    (r1f.Inv) ∧
    (Turn r1f (0 : Ch) (↑(2 : Fin 8)) (exOf r1f) 52) ∧
    ((exOf r1f).phase = 1) ∧
    ((exOf r1f).nums.getD 2 0 = (tkOf r1f).id + 1) ∧
    (List.find? (fun k => k.id == (tkOf r1f).id) (((r1f.turn (0 : Ch)).flowDue (0 : Ch)).chan (0 : Ch)).flow.tickets =
      some (tkOf r1f)) ∧
    ((tkOf r1f).table = (exOf r1f).par 0 1) ∧
    ((exOf r1f).par 0 1 < 16) ∧
    ((List.map (fun x => x.slot) (r1f.chan (0 : Ch)).flow.lines).Nodup) ∧
    (swf (fun x => penNone) (r1f.chan (0 : Ch)).flow.pen = true) ∧
    (((r1f.turn (0 : Ch)).flowDue (0 : Ch)).ticketReady (0 : Ch) (tkOf r1f) = true) ∧
    ((exOf r1f).nums.getD 0 0 < 2 ^ 25) ∧
    (¬(((exOf r1f).par 1 1).testBit 2 = false ∨
        r1f.host.isUp = false ∨
          (((r1f.turn (0 : Ch)).flowDue (0 : Ch)).chan (0 : Ch)).flow.exports.length +
              (List.filter
                  (fun r =>
                    !((((r1f.turn (0 : Ch)).flowDue (0 : Ch)).fixBucket (0 : Ch)
                                (((r1f.turn (0 : Ch)).flowDue (0 : Ch)).bucketSlot (0 : Ch)
                                  ((exOf r1f).par 0 1) ((exOf r1f).nums.getD 0 0))).chan
                            (0 : Ch)).recordBad
                        r)
                  (((((r1f.turn (0 : Ch)).flowDue (0 : Ch)).fixBucket (0 : Ch)
                            (((r1f.turn (0 : Ch)).flowDue (0 : Ch)).bucketSlot (0 : Ch) ((exOf r1f).par 0 1)
                              ((exOf r1f).nums.getD 0 0))).chan
                        (0 : Ch)).flushPick
                    ((exOf r1f).par 1 1 % 4) ((exOf r1f).par 2 1)
                    ((exOf r1f).par 3 1)
                    (((((r1f.turn (0 : Ch)).flowDue (0 : Ch)).fixBucket (0 : Ch)
                              (((r1f.turn (0 : Ch)).flowDue (0 : Ch)).bucketSlot (0 : Ch)
                                ((exOf r1f).par 0 1) ((exOf r1f).nums.getD 0 0))).chan
                          (0 : Ch)).bucketRecords
                      (r1f.ftDouble (0 : Ch) ((exOf r1f).par 0 1))
                      (((r1f.turn (0 : Ch)).flowDue (0 : Ch)).bucketSlot (0 : Ch) ((exOf r1f).par 0 1)
                        ((exOf r1f).nums.getD 0 0))))).length ≤
            2048)) :=
  ⟨inv_r1f, turn_of (by decide +kernel), by decide +kernel⟩
def r1w := nx (exec (.flowFlush 0 2) k1)
theorem inv_r1w : r1w.Inv := inv_of (by decide +kernel)
theorem test_FlowCommands_22 :
    (r1w.Inv) ∧
    (Turn r1w (0 : Ch) (↑(2 : Fin 8)) (exOf r1w) 52) ∧
    ((exOf r1w).phase = 1) ∧
    ((exOf r1w).nums.getD 2 0 = (tkOf r1w).id + 1) ∧
    (List.find? (fun k => k.id == (tkOf r1w).id) (((r1w.turn (0 : Ch)).flowDue (0 : Ch)).chan (0 : Ch)).flow.tickets =
      some (tkOf r1w)) ∧
    ((tkOf r1w).table = (exOf r1w).par 0 1) ∧
    ((exOf r1w).par 0 1 < 16) ∧
    ((List.map (fun x => x.slot) (r1w.chan (0 : Ch)).flow.lines).Nodup) ∧
    (swf (fun x => penNone) (r1w.chan (0 : Ch)).flow.pen = true) ∧
    (((r1w.turn (0 : Ch)).flowDue (0 : Ch)).ticketReady (0 : Ch) (tkOf r1w) = false) :=
  ⟨inv_r1w, turn_of (by decide +kernel), by decide +kernel⟩
def kp := cmd (eFf 0) [flowKeyLock 3] (mg (fun m => sM.chan 0 |>.mgr) sPen)
def z96 := (eFf 0)
theorem inv_kp : kp.Inv := inv_of (by decide +kernel)
theorem test_FlowCommands_23 :
    (kp.Inv) ∧
    (Turn kp (0 : Ch) (↑(2 : Fin 8)) z96 52) ∧
    (z96.phase ≠ 1) ∧
    (Passes (kp.turn (0 : Ch)) (0 : Ch) ((kp.turn (0 : Ch)).flowFlushChecks (0 : Ch) z96)) ∧
    ((kp.turn (0 : Ch)).holds (0 : Ch) (↑(2 : Fin 8)) (flowKeyLock (z96.par 0 1)) = true) ∧
    ((kp.turn (0 : Ch)).usedBuckets (0 : Ch) (z96.par 0 1) 0 = []) ∧
    (((kp.turn (0 : Ch)).chan (0 : Ch)).penOf (z96.par 0 1) = [7]) :=
  ⟨inv_kp, turn_of (by decide +kernel), by unfold Passes; decide +kernel⟩
def rp := rdy (nx (exec (.flowFlush 0 2) kp))
theorem inv_rp : rp.Inv := inv_of (by decide +kernel)
theorem test_FlowCommands_24 :
    (rp.Inv) ∧
    (Turn rp (0 : Ch) (↑(2 : Fin 8)) (exOf rp) 52) ∧
    ((exOf rp).phase = 1) ∧
    ((exOf rp).nums.getD 2 0 = (tkOf rp).id + 1) ∧
    (List.find? (fun k => k.id == (tkOf rp).id) (((rp.turn (0 : Ch)).flowDue (0 : Ch)).chan (0 : Ch)).flow.tickets =
      some (tkOf rp)) ∧
    ((tkOf rp).table = (exOf rp).par 0 1) ∧
    ((exOf rp).par 0 1 < 16) ∧
    ((List.map (fun x => x.slot) (rp.chan (0 : Ch)).flow.lines).Nodup) ∧
    (swf (fun x => penNone) (rp.chan (0 : Ch)).flow.pen = true) ∧
    (((rp.turn (0 : Ch)).flowDue (0 : Ch)).ticketReady (0 : Ch) (tkOf rp) = true) ∧
    (2 ^ 25 ≤ (exOf rp).nums.getD 0 0) ∧
    ((((((rp.turn (0 : Ch)).flowDue (0 : Ch)).chan (0 : Ch)).penEntry
                  ((exOf rp).nums.getD 0 0 - 2 ^ 25)).occ ==
              (0 : BitVec 2) ||
            ((((rp.turn (0 : Ch)).flowDue (0 : Ch)).chan (0 : Ch)).penEntry
                  ((exOf rp).nums.getD 0 0 - 2 ^ 25)).occ ==
              (3 : BitVec 2) ||
          ((((rp.turn (0 : Ch)).flowDue (0 : Ch)).chan (0 : Ch)).penEntry
                ((exOf rp).nums.getD 0 0 - 2 ^ 25)).table !=
            (exOf rp).par 0 1) =
        true ∨
      ((exOf rp).par 1 1).testBit 2 = false ∨
        rp.host.isUp = false ∨
          (((rp.turn (0 : Ch)).flowDue (0 : Ch)).chan (0 : Ch)).flow.exports.length +
              (List.filter
                  (fun r =>
                    !((((rp.turn (0 : Ch)).flowDue (0 : Ch)).fixPenRecord (0 : Ch)
                                ((((rp.turn (0 : Ch)).flowDue (0 : Ch)).chan (0 : Ch)).penPlace
                                  ((exOf rp).nums.getD 0 0 - 2 ^ 25))).chan
                            (0 : Ch)).recordBad
                        r)
                  (if
                      (((((rp.turn (0 : Ch)).flowDue (0 : Ch)).chan (0 : Ch)).penEntry
                                  ((exOf rp).nums.getD 0 0 - 2 ^ 25)).occ ==
                              (0 : BitVec 2) ||
                            ((((rp.turn (0 : Ch)).flowDue (0 : Ch)).chan (0 : Ch)).penEntry
                                  ((exOf rp).nums.getD 0 0 - 2 ^ 25)).occ ==
                              (3 : BitVec 2) ||
                          ((((rp.turn (0 : Ch)).flowDue (0 : Ch)).chan (0 : Ch)).penEntry
                                ((exOf rp).nums.getD 0 0 - 2 ^ 25)).table !=
                            (exOf rp).par 0 1) =
                        true then
                    []
                  else
                    ((((rp.turn (0 : Ch)).flowDue (0 : Ch)).fixPenRecord (0 : Ch)
                              ((((rp.turn (0 : Ch)).flowDue (0 : Ch)).chan (0 : Ch)).penPlace
                                ((exOf rp).nums.getD 0 0 - 2 ^ 25))).chan
                          (0 : Ch)).flushPick
                      ((exOf rp).par 1 1 % 4) ((exOf rp).par 2 1)
                      ((exOf rp).par 3 1)
                      [((((rp.turn (0 : Ch)).flowDue (0 : Ch)).chan (0 : Ch)).penPlace
                            ((exOf rp).nums.getD 0 0 - 2 ^ 25),
                          ((((rp.turn (0 : Ch)).flowDue (0 : Ch)).chan (0 : Ch)).penEntry
                                ((exOf rp).nums.getD 0 0 - 2 ^ 25)).occ ==
                            (2 : BitVec 2))])).length ≤
            2048) :=
  ⟨inv_rp, turn_of (by decide +kernel), by decide +kernel⟩
def ke := cmd (eFf 0) [flowKeyLock 3]
def z97 := (eFf 0)
theorem inv_ke : ke.Inv := inv_of (by decide +kernel)
theorem test_FlowCommands_25 :
    (ke.Inv) ∧
    (Turn ke (0 : Ch) (↑(2 : Fin 8)) z97 52) ∧
    (z97.phase ≠ 1) ∧
    (Passes (ke.turn (0 : Ch)) (0 : Ch) ((ke.turn (0 : Ch)).flowFlushChecks (0 : Ch) z97)) ∧
    ((ke.turn (0 : Ch)).holds (0 : Ch) (↑(2 : Fin 8)) (flowKeyLock (z97.par 0 1)) = true) ∧
    ((ke.turn (0 : Ch)).usedBuckets (0 : Ch) (z97.par 0 1) 0 = []) ∧
    (((ke.turn (0 : Ch)).chan (0 : Ch)).penOf (z97.par 0 1) = []) :=
  ⟨inv_ke, turn_of (by decide +kernel), by unfold Passes; decide +kernel⟩
def y1 := rdy (nx (exec (.flowRelocate 0 2) l1))
def y0 := rdy (nx (exec (.flowRelocate 0 2) (cmd eFl [flowKeyLock 3] (mg (fun m => sM.chan 0 |>.mgr) sPen))))
theorem inv_y1 : y1.Inv := inv_of (by decide +kernel)
theorem test_FlowCommands_26 :
    (y1.Inv) ∧
    (Turn y1 (0 : Ch) (↑(2 : Fin 8)) (exOf y1) 53) ∧
    ((exOf y1).phase = 1) ∧
    ((exOf y1).nums =
      [7, 0, (tkOf y1).id + 1, (exOf y1).nums.getD 3 0] ++
        flatMoves (readMoves (List.drop 4 (exOf y1).nums))) ∧
    (List.find? (fun k => k.id == (tkOf y1).id) (((y1.turn (0 : Ch)).flowDue (0 : Ch)).chan (0 : Ch)).flow.tickets =
      some (tkOf y1)) ∧
    ((List.map (fun x => x.slot) (y1.chan (0 : Ch)).flow.lines).Nodup) ∧
    (swf (fun x => penNone) (y1.chan (0 : Ch)).flow.pen = true) ∧
    (((y1.turn (0 : Ch)).flowDue (0 : Ch)).ticketReady (0 : Ch) (tkOf y1) = true) ∧
    (((((y1.turn (0 : Ch)).flowDue (0 : Ch)).chan (0 : Ch)).penEntry 7).occ ≠ (0 : BitVec 2)) ∧
    (((((y1.turn (0 : Ch)).flowDue (0 : Ch)).chan (0 : Ch)).penEntry 7).occ ≠ (3 : BitVec 2)) ∧
    (((((y1.turn (0 : Ch)).flowDue (0 : Ch)).chan (0 : Ch)).penEntry 7).table = (exOf y1).par 0 1) ∧
    (readMoves (List.drop 4 (exOf y1).nums) = [{ src := 1356, dst := 2392 : Move }]) ∧
    ((List.foldl (fun s b => s.fixBucket (0 : Ch) (s.bucketSlot (0 : Ch) ((exOf y1).par 0 1) b)) ((y1.turn (0 : Ch)).flowDue (0 : Ch)) (tkOf y1).buckets).moveHolds (0 : Ch) ((exOf y1).par 0 1) (((((y1.turn (0 : Ch)).flowDue (0 : Ch)).chan (0 : Ch)).penEntry 7).occ == (2 : BitVec 2)) { src := 1356, dst := 2392 : Move } = true) :=
  ⟨inv_y1, turn_of (by decide +kernel), by decide +kernel⟩
theorem inv_y0 : y0.Inv := inv_of (by decide +kernel)
theorem test_FlowCommands_27 :
    (y0.Inv) ∧
    (Turn y0 (0 : Ch) (↑(2 : Fin 8)) (exOf y0) 53) ∧
    ((exOf y0).phase = 1) ∧
    ((exOf y0).nums =
      [7, 0, (tkOf y0).id + 1, (exOf y0).nums.getD 3 0] ++
        flatMoves (readMoves (List.drop 4 (exOf y0).nums))) ∧
    (List.find? (fun k => k.id == (tkOf y0).id) (((y0.turn (0 : Ch)).flowDue (0 : Ch)).chan (0 : Ch)).flow.tickets =
      some (tkOf y0)) ∧
    ((List.map (fun x => x.slot) (y0.chan (0 : Ch)).flow.lines).Nodup) ∧
    (swf (fun x => penNone) (y0.chan (0 : Ch)).flow.pen = true) ∧
    (((y0.turn (0 : Ch)).flowDue (0 : Ch)).ticketReady (0 : Ch) (tkOf y0) = true) ∧
    (((((y0.turn (0 : Ch)).flowDue (0 : Ch)).chan (0 : Ch)).penEntry 7).occ ≠ (0 : BitVec 2)) ∧
    (((((y0.turn (0 : Ch)).flowDue (0 : Ch)).chan (0 : Ch)).penEntry 7).occ ≠ (3 : BitVec 2)) ∧
    (((((y0.turn (0 : Ch)).flowDue (0 : Ch)).chan (0 : Ch)).penEntry 7).table = (exOf y0).par 0 1) ∧
    (readMoves (List.drop 4 (exOf y0).nums) = []) ∧
    ((((List.foldl (fun s b => s.fixBucket (0 : Ch) (s.bucketSlot (0 : Ch) ((exOf y0).par 0 1) b))
                  ((y0.turn (0 : Ch)).flowDue (0 : Ch)) (tkOf y0).buckets).chan
              (0 : Ch)).flowSlot
          ((exOf y0).nums.getD 3 0)).free =
      true) ∧
    ((((((y0.turn (0 : Ch)).flowDue (0 : Ch)).chan (0 : Ch)).penEntry 7).occ == (2 : BitVec 2)) = true →
      (((List.foldl (fun s b => s.fixBucket (0 : Ch) (s.bucketSlot (0 : Ch) ((exOf y0).par 0 1) b))
                    ((y0.turn (0 : Ch)).flowDue (0 : Ch)) (tkOf y0).buckets).chan
                (0 : Ch)).flowSlot
            ((exOf y0).nums.getD 3 0 + 1)).free =
        true) ∧
    ((tkOf y0).b1 = ((((y0.turn (0 : Ch)).flowDue (0 : Ch)).chan (0 : Ch)).penEntry 7).b1) ∧
    ((tkOf y0).b2 = ((((y0.turn (0 : Ch)).flowDue (0 : Ch)).chan (0 : Ch)).penEntry 7).b2) ∧
    ({ data := ((((y0.turn (0 : Ch)).flowDue (0 : Ch)).chan (0 : Ch)).penEntry 7).data, sb := ((((y0.turn (0 : Ch)).flowDue (0 : Ch)).chan (0 : Ch)).penEntry 7).sb : HbmSlot }.fixed.2 = 0) ∧
    ((((((y0.turn (0 : Ch)).flowDue (0 : Ch)).chan (0 : Ch)).penEntry 7).occ == (2 : BitVec 2)) = true →
      ((((y0.turn (0 : Ch)).flowDue (0 : Ch)).chan (0 : Ch)).at
              ((((y0.turn (0 : Ch)).flowDue (0 : Ch)).chan (0 : Ch)).penPlace 7).tailOf).fixed.2 =
        0) :=
  ⟨inv_y0, turn_of (by decide +kernel), by decide +kernel⟩
def y1w := nx (exec (.flowRelocate 0 2) l1)
theorem inv_y1w : y1w.Inv := inv_of (by decide +kernel)
theorem test_FlowCommands_28 :
    (y1w.Inv) ∧
    (Turn y1w (0 : Ch) (↑(2 : Fin 8)) (exOf y1w) 53) ∧
    ((exOf y1w).phase = 1) ∧
    ((exOf y1w).nums =
      [7, 0, (tkOf y1w).id + 1, (exOf y1w).nums.getD 3 0] ++
        flatMoves (readMoves (List.drop 4 (exOf y1w).nums))) ∧
    (List.find? (fun k => k.id == (tkOf y1w).id) (((y1w.turn (0 : Ch)).flowDue (0 : Ch)).chan (0 : Ch)).flow.tickets =
      some (tkOf y1w)) ∧
    ((List.map (fun x => x.slot) (y1w.chan (0 : Ch)).flow.lines).Nodup) ∧
    (swf (fun x => penNone) (y1w.chan (0 : Ch)).flow.pen = true) ∧
    (((y1w.turn (0 : Ch)).flowDue (0 : Ch)).ticketReady (0 : Ch) (tkOf y1w) = false) :=
  ⟨inv_y1w, turn_of (by decide +kernel), by decide +kernel⟩
end FlowSteps

/-! Placement commands -/
namespace Place
def eM1 (d : Nat := 0xFFFF) (ph : Nat := 0) : Exec := exec0 0x40 ([0, 0] ++ nb 2 d ++ nb 4 0) ph
def m1 := cmd (eM1)
def m3 := cmd (eM1 5 1)
theorem inv_m1 : m1.Inv := inv_of (by decide +kernel)
theorem test_PlacementAndProfiles_1 :
    (m1.Inv) ∧
    (Turn m1 (0 : Ch) (↑(2 : Fin 8)) eM1 64) ∧
    (eM1.phase ≠ 1) ∧
    (Passes (m1.turn (0 : Ch)) (0 : Ch) ((m1.turn (0 : Ch)).migrateChecks (0 : Ch) eM1)) :=
  ⟨inv_m1, turn_of (by decide +kernel), by unfold Passes; decide +kernel⟩
def z99 := (eM1 5 1)
theorem inv_m3 : m3.Inv := inv_of (by decide +kernel)
theorem test_PlacementAndProfiles_2 :
    (m3.Inv) ∧
    (Turn m3 (0 : Ch) (↑(2 : Fin 8)) z99 64) ∧
    (z99.phase = 1) :=
  ⟨inv_m3, turn_of (by decide +kernel), by decide +kernel⟩
def eR : Exec := exec0 0x41 [0,0,0,0]
def n1 := cmd eR
theorem inv_n1 : n1.Inv := inv_of (by decide +kernel)
theorem test_PlacementAndProfiles_3 :
    (n1.Inv) ∧
    (Turn n1 (0 : Ch) (↑(2 : Fin 8)) eR 65) ∧
    (eR.phase ≠ 1) ∧
    (Passes (n1.turn (0 : Ch)) (0 : Ch) ((n1.turn (0 : Ch)).repairChecks (0 : Ch) eR)) :=
  ⟨inv_n1, turn_of (by decide +kernel), by unfold Passes; decide +kernel⟩
def body : List Byte := ((List.range 96).map (fun i => toBytes 4 (if i = 8 then 5 + 2048 else if i = 0 then 1 else 0))).flatten
def stg0 (l : List Byte) (s : State) : State := ch0 (fun x => x.stagePutBytes 0 0 l) s
def eP (p ph : Nat) : Exec := exec0 0x50 ([p, 1, 0, 0] ++ nb 4 0 ++ nb 4 384) ph
def q1 := stg0 body (cmd (eP 9 0))
def q2 := stg0 body (cmd (eP 9 1))
def q3 := stg0 body (cmd (eP 2 1) [] (ch0 (fun x => {x with ctxs := [k0]}) sM))
def z101 := (eP 9 0)
theorem inv_q1 : q1.Inv := inv_of (by decide +kernel)
theorem test_PlacementAndProfiles_4 :
    (q1.Inv) ∧
    (Turn q1 (0 : Ch) (↑(2 : Fin 8)) z101 80) ∧
    (z101.phase ≠ 1) ∧
    (Passes (q1.turn (0 : Ch)) (0 : Ch) ((q1.turn (0 : Ch)).profileWriteChecks (0 : Ch) z101)) ∧
    (((q1.chan (0 : Ch)).ctxs.any fun k => k.usesBody && ↑k.req.profile == z101.par 0 1) = false) :=
  ⟨inv_q1, turn_of (by decide +kernel), by unfold Passes; decide +kernel⟩
def z102 := (eP 9 1)
theorem inv_q2 : q2.Inv := inv_of (by decide +kernel)
theorem test_PlacementAndProfiles_5 :
    (q2.Inv) ∧
    (Turn q2 (0 : Ch) (↑(2 : Fin 8)) z102 80) ∧
    (z102.phase = 1) ∧
    (z102.par 0 1 < 64) ∧
    (((q2.turn (0 : Ch)).stagedBody (0 : Ch) z102).length = 96) ∧
    ((q2.turn (0 : Ch)).stagedBad (0 : Ch) z102 4 = none) ∧
    (q2.profActive (0 : Ch) (z102.par 0 1) = false) :=
  ⟨inv_q2, turn_of (by decide +kernel), by decide +kernel⟩
def z103 := (eP 2 1)
theorem inv_q3 : q3.Inv := inv_of (by decide +kernel)
theorem test_PlacementAndProfiles_6 :
    (q3.Inv) ∧
    (Turn q3 (0 : Ch) (↑(2 : Fin 8)) z103 80) ∧
    (z103.phase = 1) ∧
    (z103.par 0 1 < 64) ∧
    (((q3.turn (0 : Ch)).stagedBody (0 : Ch) z103).length = 96) ∧
    ((q3.turn (0 : Ch)).stagedBad (0 : Ch) z103 4 = none) ∧
    (q3.profActive (0 : Ch) (z103.par 0 1) = true) :=
  ⟨inv_q3, turn_of (by decide +kernel), by decide +kernel⟩
def q4 := stg0 body (cmd (eP 2 0) [] (ch0 (fun x => {x with ctxs := [k0]}) sM))
def z104 := (eP 2 0)
theorem inv_q4 : q4.Inv := inv_of (by decide +kernel)
theorem test_PlacementAndProfiles_7 :
    (q4.Inv) ∧
    (Turn q4 (0 : Ch) (↑(2 : Fin 8)) z104 80) ∧
    (z104.phase ≠ 1) ∧
    (Passes (q4.turn (0 : Ch)) (0 : Ch) ((q4.turn (0 : Ch)).profileWriteChecks (0 : Ch) z104)) ∧
    (((q4.chan (0 : Ch)).ctxs.any fun k => k.usesBody && ↑k.req.profile == z104.par 0 1) = true) :=
  ⟨inv_q4, turn_of (by decide +kernel), by unfold Passes; decide +kernel⟩
def eQ : Exec := exec0 0x51 ([2, 0, 0, 0] ++ nb 4 64 ++ nb 4 448)
def r1 := cmd eQ
theorem inv_r1 : r1.Inv := inv_of (by decide +kernel)
theorem test_PlacementAndProfiles_8 :
    (r1.Inv) ∧
    (Turn r1 (0 : Ch) (↑(2 : Fin 8)) eQ 81) ∧
    (Passes (r1.turn (0 : Ch)) (0 : Ch) ((r1.turn (0 : Ch)).profileReadChecks (0 : Ch) eQ)) :=
  ⟨inv_r1, turn_of (by decide +kernel), by unfold Passes; decide +kernel⟩
end Place

/-! March test, drain and resume -/
namespace March
def eT (b m ph : Nat) (nums : List Nat := []) : Exec := exec0 0x60 [b, m, 0, 0] ph nums
def t1 := cmd (eT 3 0 0)
def own (b o : Nat) (s : State) : State := regs s [(spadR 0 b, o)]
def t2 := cmd (eT 3 0 1 [1])
def mr : March := ⟨3, true, 0, 500, 0⟩
def t4 := ch0 (fun x => {x with march := some mr}) (cmd (eT 3 0 2 [1]))
def t6 := cmd (eT 3 0 3 [1, 0])
def t7 := own 3 5 (cmd (eT 3 0 3 [1, 4]))
def z105 := (eT 3 0 0)
theorem inv_t1 : t1.Inv := inv_of (by decide +kernel)
theorem test_TestAndChannelCommands_1 :
    (t1.Inv) ∧
    (Turn t1 (0 : Ch) (↑(2 : Fin 8)) z105 96) ∧
    (z105.par 0 1 < 16) ∧
    (z105.phase = 0) ∧
    (Passes (t1.turn (0 : Ch)) (0 : Ch) ((t1.turn (0 : Ch)).marchChecks (0 : Ch) z105)) :=
  ⟨inv_t1, turn_of (by decide +kernel), by unfold Passes; decide +kernel⟩
def z106 := (eT 3 0 1 [1])
theorem inv_t2 : t2.Inv := inv_of (by decide +kernel)
theorem test_TestAndChannelCommands_2 :
    (t2.Inv) ∧
    (Turn t2 (0 : Ch) (↑(2 : Fin 8)) z106 96) ∧
    (z106.par 0 1 < 16) ∧
    (z106.phase = 1) ∧
    (t2.spadOwner (0 : Ch) (z106.par 0 1) = 3) ∧
    ((t2.chan (0 : Ch)).march = none) ∧
    (z106.par 1 1 / 2 % 4 ≠ 3) :=
  ⟨inv_t2, turn_of (by decide +kernel), by decide +kernel⟩
def z108 := (eT 3 0 2 [1])
theorem inv_t4 : t4.Inv := inv_of (by decide +kernel)
theorem test_TestAndChannelCommands_3 :
    (t4.Inv) ∧
    (Turn t4 (0 : Ch) (↑(2 : Fin 8)) z108 96) ∧
    (z108.par 0 1 < 16) ∧
    (z108.phase = 2) :=
  ⟨inv_t4, turn_of (by decide +kernel), by decide +kernel⟩
def z110 := (eT 3 0 3 [1, 0])
theorem inv_t6 : t6.Inv := inv_of (by decide +kernel)
theorem test_TestAndChannelCommands_4 :
    (t6.Inv) ∧
    (Turn t6 (0 : Ch) (↑(2 : Fin 8)) z110 96) ∧
    (z110.par 0 1 < 16) ∧
    (z110.phase = 3) ∧
    (t6.spadOwner (0 : Ch) (z110.par 0 1) ≠ z110.nums.getD 0 0) :=
  ⟨inv_t6, turn_of (by decide +kernel), by decide +kernel⟩
def z111 := (eT 3 0 3 [1, 4])
theorem inv_t7 : t7.Inv := inv_of (by decide +kernel)
theorem test_TestAndChannelCommands_5 :
    (t7.Inv) ∧
    (Turn t7 (0 : Ch) (↑(2 : Fin 8)) z111 96) ∧
    (z111.par 0 1 < 16) ∧
    (z111.phase = 3) ∧
    (t7.spadOwner (0 : Ch) (z111.par 0 1) = z111.nums.getD 0 0) :=
  ⟨inv_t7, turn_of (by decide +kernel), by decide +kernel⟩
def eC (b k ph : Nat) (nums : List Nat := []) : Exec := exec0 0x61 [b, k, 0, 0] ph nums
def c1 := cmd (eC 0 0 0)
def c3 := cmd (eC 0 0 1 [4])
def z114 := (eC 0 0 0)
theorem inv_c1 : c1.Inv := inv_of (by decide +kernel)
theorem test_TestAndChannelCommands_6 :
    (c1.Inv) ∧
    (Turn c1 (0 : Ch) (↑(2 : Fin 8)) z114 97) ∧
    (z114.phase = 0) ∧
    (Passes (c1.turn (0 : Ch)) (0 : Ch) ((c1.turn (0 : Ch)).calRunChecks (0 : Ch) z114)) ∧
    (List.filter
        (fun b =>
          ((c1.turn (0 : Ch)).calNamed (0 : Ch) (z114.par 0 1) (z114.par 1 1)).contains b &&
            (c1.turn (0 : Ch)).hasSample (0 : Ch) b)
        ((c1.turn (0 : Ch)).calNamed (0 : Ch) (z114.par 0 1) (z114.par 1 1)) =
      []) :=
  ⟨inv_c1, turn_of (by decide +kernel), by unfold Passes; decide +kernel⟩
def z115 := (eC 0 0 1 [4])
theorem inv_c3 : c3.Inv := inv_of (by decide +kernel)
theorem test_TestAndChannelCommands_7 :
    (c3.Inv) ∧
    (Turn c3 (0 : Ch) (↑(2 : Fin 8)) z115 97) ∧
    (z115.phase = 1) ∧
    (List.filter
        (fun b =>
          ((c3.turn (0 : Ch)).calNamed (0 : Ch) (z115.par 0 1) (z115.par 1 1)).contains b &&
            (c3.turn (0 : Ch)).hasSample (0 : Ch) b)
        (List.drop 1 z115.nums) =
      []) :=
  ⟨inv_c3, turn_of (by decide +kernel), by decide +kernel⟩
def eD (i ph : Nat) : Exec := exec0 0x70 [i, 0, 0, 0] ph
def d1 := cmd (eD 0 0)
def d2 := cmd (eD 1 0)
def chg (s : State) : State := ch0 (fun x => {x with charges := [charge0]}) s
def d3 := chg (cmd (eD 1 0))
def d4 := chg (cmd (eD 1 1))
def d5 := cmd (eD 0 1)
def d6 := cmd (eD 1 2)
def idle (s : State) : State := ch0 (fun x => {x with power := .idle, ready := false}) s
def d7 := idle (cmd (eD 1 2))
def d8 := idle (cmd (eD 1 0))
def z116 := (eD 0 0)
theorem inv_d1 : d1.Inv := inv_of (by decide +kernel)
theorem test_TestAndChannelCommands_8 :
    (d1.Inv) ∧
    (Turn d1 (0 : Ch) (↑(2 : Fin 8)) z116 112) ∧
    (z116.phase = 0) ∧
    (Passes (d1.turn (0 : Ch)) (0 : Ch) ((d1.turn (0 : Ch)).drainChecks (0 : Ch) z116)) ∧
    ((d1.chan (0 : Ch)).charges = []) ∧
    (z116.par 0 1 % 2 = 0) :=
  ⟨inv_d1, turn_of (by decide +kernel), by unfold Passes; decide +kernel⟩
def z117 := (eD 1 0)
theorem inv_d2 : d2.Inv := inv_of (by decide +kernel)
theorem test_TestAndChannelCommands_9 :
    (d2.Inv) ∧
    (Turn d2 (0 : Ch) (↑(2 : Fin 8)) z117 112) ∧
    (z117.phase = 0) ∧
    (Passes (d2.turn (0 : Ch)) (0 : Ch) ((d2.turn (0 : Ch)).drainChecks (0 : Ch) z117)) ∧
    ((d2.chan (0 : Ch)).charges = []) ∧
    (z117.par 0 1 % 2 = 1) ∧
    ((d2.chan (0 : Ch)).req = none) ∧
    (d2.field (chCtrl (0 : Ch)) 1 2 = 0) ∧
    ((d2.chan (0 : Ch)).power = ChPower.on) ∧
    ((d2.chan (0 : Ch)).causes = (0 : BitVec 6)) :=
  ⟨inv_d2, turn_of (by decide +kernel), by unfold Passes; decide +kernel⟩
def z118 := (eD 1 0)
theorem inv_d3 : d3.Inv := inv_of (by decide +kernel)
theorem test_TestAndChannelCommands_10 :
    (d3.Inv) ∧
    (Turn d3 (0 : Ch) (↑(2 : Fin 8)) z118 112) ∧
    (z118.phase = 0) ∧
    (Passes (d3.turn (0 : Ch)) (0 : Ch) ((d3.turn (0 : Ch)).drainChecks (0 : Ch) z118)) ∧
    ((d3.chan (0 : Ch)).charges ≠ []) :=
  ⟨inv_d3, turn_of (by decide +kernel), by unfold Passes; decide +kernel⟩
def z119 := (eD 1 1)
theorem inv_d4 : d4.Inv := inv_of (by decide +kernel)
theorem test_TestAndChannelCommands_11 :
    (d4.Inv) ∧
    (Turn d4 (0 : Ch) (↑(2 : Fin 8)) z119 112) ∧
    (z119.phase = 1) ∧
    ((d4.chan (0 : Ch)).charges ≠ []) :=
  ⟨inv_d4, turn_of (by decide +kernel), by decide +kernel⟩
def z120 := (eD 0 1)
theorem inv_d5 : d5.Inv := inv_of (by decide +kernel)
theorem test_TestAndChannelCommands_12 :
    (d5.Inv) ∧
    (Turn d5 (0 : Ch) (↑(2 : Fin 8)) z120 112) ∧
    (z120.phase = 1) ∧
    ((d5.chan (0 : Ch)).charges = []) ∧
    (z120.par 0 1 % 2 = 0) :=
  ⟨inv_d5, turn_of (by decide +kernel), by decide +kernel⟩
def z121 := (eD 1 2)
theorem inv_d6 : d6.Inv := inv_of (by decide +kernel)
theorem test_TestAndChannelCommands_13 :
    (d6.Inv) ∧
    (Turn d6 (0 : Ch) (↑(2 : Fin 8)) z121 112) ∧
    (z121.phase = 2) ∧
    ((d6.chan (0 : Ch)).power ≠ ChPower.idle) :=
  ⟨inv_d6, turn_of (by decide +kernel), by decide +kernel⟩
def z122 := (eD 1 2)
theorem inv_d7 : d7.Inv := inv_of (by decide +kernel)
theorem test_TestAndChannelCommands_14 :
    (d7.Inv) ∧
    (Turn d7 (0 : Ch) (↑(2 : Fin 8)) z122 112) ∧
    (z122.phase = 2) ∧
    ((d7.chan (0 : Ch)).power = ChPower.idle) :=
  ⟨inv_d7, turn_of (by decide +kernel), by decide +kernel⟩
def z123 := (eD 1 0)
theorem inv_d8 : d8.Inv := inv_of (by decide +kernel)
theorem test_TestAndChannelCommands_15 :
    (d8.Inv) ∧
    (Turn d8 (0 : Ch) (↑(2 : Fin 8)) z123 112) ∧
    (z123.phase = 0) ∧
    (Passes (d8.turn (0 : Ch)) (0 : Ch) ((d8.turn (0 : Ch)).drainChecks (0 : Ch) z123)) ∧
    ((d8.chan (0 : Ch)).charges = []) ∧
    (z123.par 0 1 % 2 = 1) ∧
    ((d8.chan (0 : Ch)).req = none) ∧
    (d8.field (chCtrl (0 : Ch)) 1 2 = 0) ∧
    ((d8.chan (0 : Ch)).power = ChPower.idle) :=
  ⟨inv_d8, turn_of (by decide +kernel), by unfold Passes; decide +kernel⟩
def eS (ph : Nat) : Exec := exec0 0x71 [] ph
def s1 := cmd (eS 0)
def s2 := idle (cmd (eS 0))
def s3 := cmd (eS 1)
def s4 := ch0 (fun x => {x with req := some .on}) (idle (cmd (eS 1)))
def s5 := idle (cmd (eS 1))
def z124 := (eS 0)
theorem inv_s1 : s1.Inv := inv_of (by decide +kernel)
theorem test_TestAndChannelCommands_16 :
    (s1.Inv) ∧
    (Turn s1 (0 : Ch) (↑(2 : Fin 8)) z124 113) ∧
    (z124.phase = 0) ∧
    (Passes (s1.turn (0 : Ch)) (0 : Ch) ((s1.turn (0 : Ch)).resumeChecks (0 : Ch) z124)) ∧
    ((s1.chan (0 : Ch)).power = ChPower.on) :=
  ⟨inv_s1, turn_of (by decide +kernel), by unfold Passes; decide +kernel⟩
def z125 := (eS 0)
theorem inv_s2 : s2.Inv := inv_of (by decide +kernel)
theorem test_TestAndChannelCommands_17 :
    (s2.Inv) ∧
    (Turn s2 (0 : Ch) (↑(2 : Fin 8)) z125 113) ∧
    (z125.phase = 0) ∧
    (Passes (s2.turn (0 : Ch)) (0 : Ch) ((s2.turn (0 : Ch)).resumeChecks (0 : Ch) z125)) ∧
    ((s2.chan (0 : Ch)).power = ChPower.idle) ∧
    ((s2.chan (0 : Ch)).req = none) ∧
    (s2.field (chCtrl (0 : Ch)) 1 2 = 0) :=
  ⟨inv_s2, turn_of (by decide +kernel), by unfold Passes; decide +kernel⟩
def z126 := (eS 1)
theorem inv_s3 : s3.Inv := inv_of (by decide +kernel)
theorem test_TestAndChannelCommands_18 :
    (s3.Inv) ∧
    (Turn s3 (0 : Ch) (↑(2 : Fin 8)) z126 113) ∧
    (z126.phase = 1) ∧
    ((s3.chan (0 : Ch)).power = ChPower.on) ∧
    ((s3.chan (0 : Ch)).ready = true) :=
  ⟨inv_s3, turn_of (by decide +kernel), by decide +kernel⟩
def z127 := (eS 1)
theorem inv_s4 : s4.Inv := inv_of (by decide +kernel)
theorem test_TestAndChannelCommands_19 :
    (s4.Inv) ∧
    (Turn s4 (0 : Ch) (↑(2 : Fin 8)) z127 113) ∧
    (z127.phase = 1) ∧
    ((s4.chan (0 : Ch)).power = ChPower.idle) ∧
    ((s4.chan (0 : Ch)).req = some StateReq.on) :=
  ⟨inv_s4, turn_of (by decide +kernel), by decide +kernel⟩
def z128 := (eS 1)
theorem inv_s5 : s5.Inv := inv_of (by decide +kernel)
theorem test_TestAndChannelCommands_20 :
    (s5.Inv) ∧
    (Turn s5 (0 : Ch) (↑(2 : Fin 8)) z128 113) ∧
    (z128.phase = 1) ∧
    ((s5.chan (0 : Ch)).power = ChPower.idle) ∧
    ((s5.chan (0 : Ch)).req ≠ some StateReq.on) :=
  ⟨inv_s5, turn_of (by decide +kernel), by decide +kernel⟩
def eV (cl : Nat) : Exec := exec0 0x90 ([cl, 0, 0, 0] ++ nb 4 64 ++ nb 4 4096)
def v1 := cmd (eV 0)
def z129 := (eV 0)
theorem inv_v1 : v1.Inv := inv_of (by decide +kernel)
theorem test_TestAndChannelCommands_21 :
    (v1.Inv) ∧
    (Turn v1 (0 : Ch) (↑(2 : Fin 8)) z129 144) ∧
    (Passes (v1.turn (0 : Ch)) (0 : Ch) ((v1.turn (0 : Ch)).statsChecks (0 : Ch) z129)) :=
  ⟨inv_v1, turn_of (by decide +kernel), by unfold Passes; decide +kernel⟩
end March

/-! Profile, statistics and manager commands -/
namespace Stats
def eC (b k ph : Nat) (nums : List Nat := []) : Exec := exec0 0x61 [b, k, 0, 0] ph nums
def smp (s : State) : State := ch0 (fun x => {x with maint := {x.maint with samples := [(5, [⟨0x1234, [], 0, []⟩])]}}) s
def c1 := smp (cmd (eC 0 0 0))
def c3 := smp (cmd (eC 0 0xFF 1 [4, 0, 7]))
def z132 := (eC 0 0 0)
theorem inv_c1 : c1.Inv := inv_of (by decide +kernel)
theorem test_TestAndChannelCommands_22 :
    (c1.Inv) ∧
    (Turn c1 (0 : Ch) (↑(2 : Fin 8)) z132 97) ∧
    (z132.phase = 0) ∧
    (Passes (c1.turn (0 : Ch)) (0 : Ch) ((c1.turn (0 : Ch)).calRunChecks (0 : Ch) z132)) ∧
    (List.filter
        (fun b =>
          ((c1.turn (0 : Ch)).calNamed (0 : Ch) (z132.par 0 1) (z132.par 1 1)).contains b &&
            (c1.turn (0 : Ch)).hasSample (0 : Ch) b)
        ((c1.turn (0 : Ch)).calNamed (0 : Ch) (z132.par 0 1) (z132.par 1 1)) ≠
      []) :=
  ⟨inv_c1, turn_of (by decide +kernel), by unfold Passes; decide +kernel⟩
def z133 := (eC 0 0xFF 1 [4, 0, 7])
theorem inv_c3 : c3.Inv := inv_of (by decide +kernel)
theorem test_TestAndChannelCommands_23 :
    (c3.Inv) ∧
    (Turn c3 (0 : Ch) (↑(2 : Fin 8)) z133 97) ∧
    (z133.phase = 1) ∧
    (List.filter
        (fun b =>
          ((c3.turn (0 : Ch)).calNamed (0 : Ch) (z133.par 0 1) (z133.par 1 1)).contains b &&
            (c3.turn (0 : Ch)).hasSample (0 : Ch) b)
        (List.drop 1 z133.nums) ≠
      []) :=
  ⟨inv_c3, turn_of (by decide +kernel), by decide +kernel⟩
def eU (ph : Nat) : Exec := exec0 0x72 (nb 4 0 ++ nb 4 4096) ph
def u1 := cmd (eU 0)
def u2 := cmd (eU 1)
def u3 := mg (fun m => {m with items := items0}) (cmd (eU 1))
def z134 := (eU 0)
theorem inv_u1 : u1.Inv := inv_of (by decide +kernel)
theorem test_ImageCommands_1 :
    (u1.Inv) ∧
    (Turn u1 (0 : Ch) (↑(2 : Fin 8)) z134 114) ∧
    (z134.phase = 0) ∧
    (Passes (u1.turn (0 : Ch)) (0 : Ch) ((u1.turn (0 : Ch)).updateChecks (0 : Ch) z134)) :=
  ⟨inv_u1, turn_of (by decide +kernel), by unfold Passes; decide +kernel⟩
def z135 := (eU 1)
theorem inv_u2 : u2.Inv := inv_of (by decide +kernel)
theorem test_ImageCommands_2 :
    (u2.Inv) ∧
    (Turn u2 (0 : Ch) (↑(2 : Fin 8)) z135 114) ∧
    (z135.phase = 1) ∧
    (List.length (u2.chan (0 : Ch)).mgr.execs ≤ 1) ∧
    ((u2.chan (0 : Ch)).mgr.items = []) :=
  ⟨inv_u2, turn_of (by decide +kernel), by decide +kernel⟩
def z136 := (eU 1)
theorem inv_u3 : u3.Inv := inv_of (by decide +kernel)
theorem test_ImageCommands_3 :
    (u3.Inv) ∧
    (Turn u3 (0 : Ch) (↑(2 : Fin 8)) z136 114) ∧
    (z136.phase = 1) ∧
    (1 < List.length (u3.chan (0 : Ch)).mgr.execs ∨ (u3.chan (0 : Ch)).mgr.items ≠ []) :=
  ⟨inv_u3, turn_of (by decide +kernel), by decide +kernel⟩
def eSv (b : Nat) : Exec := exec0 0x80 [b, 0, 0, 0]
def v1 := cmd (eSv 0)
def z137 := (eSv 0)
theorem inv_v1 : v1.Inv := inv_of (by decide +kernel)
theorem test_ImageCommands_4 :
    (v1.Inv) ∧
    (Turn v1 (0 : Ch) (↑(2 : Fin 8)) z137 128) ∧
    ((v1.turn (0 : Ch)).saveImage (0 : Ch) (z137.par 0 1 % 2 == 1)
        ((z137.par 0 1).testBit 1) ≠
      none) ∧
    (Passes (v1.turn (0 : Ch)) (0 : Ch) ((v1.turn (0 : Ch)).imageSaveChecks (0 : Ch) z137)) :=
  ⟨inv_v1, turn_of (by decide +kernel), saveImage_fits (by decide +kernel) (by decide +kernel) (by decide +kernel) (by decide +kernel), by unfold Passes; decide +kernel⟩
end Stats

/-! Images of the flash -/
namespace Images
def eMi (m en : Nat) : Exec := exec0 0x43 [m,en,0,0]
def o1 := cmd (eMi 2 1) [] (regs sM [(modR (hfatOff 0 2 0x44), 0xFFFFFFFF)])
def z140 := (eMi 2 1)
theorem inv_o1 : o1.Inv := inv_of (by decide +kernel)
theorem test_PlacementAndProfiles_9 :
    (o1.Inv) ∧
    (Turn o1 (0 : Ch) (↑(2 : Fin 8)) z140 67) ∧
    (Passes (o1.turn (0 : Ch)) (0 : Ch) ((o1.turn (0 : Ch)).mirrorChecks (0 : Ch) z140)) :=
  ⟨inv_o1, turn_of (by decide +kernel), by unfold Passes; decide +kernel⟩
def clear0 : State := regs base (rights0 ++ profs0 ++ [(modR 0x1000, 0x19), (chR 0 0x1000, 7), (chR 0 0x2008, 0x11), (chR 0 0x2010, 0x11)])
def img0 (its : List (BitVec 256)) (fl : Nat := 0) : List Byte := imageBytes 0 1 0 fl ((its.map (fun i => toBytes 32 i.toNat)).flatten)
def withImg (its : List (BitVec 256)) (s : State) : State := {s with boot := {s.boot with flash := Quad.all {flash0 with images := [img0 its], gen := 1}}}
def eRs (src : Nat) (ph : Nat := 0) (nums : List Nat := []) : Exec := exec0 0x81 ([src, 0, 0, 0] ++ nb 4 1 ++ nb 4 0 ++ nb 4 128) ph nums
def r0 := withImg [] (cmd (eRs 0) [] clear0)
def z141 := (eRs 0)
theorem inv_r0 : r0.Inv := inv_of (by decide +kernel)
theorem test_ImageCommands_5 :
    (r0.Inv) ∧
    (Turn r0 (0 : Ch) (↑(2 : Fin 8)) z141 129) ∧
    (z141.phase = 0) ∧
    (z141.nums = []) ∧
    (Passes (r0.turn (0 : Ch)) (0 : Ch) ((r0.turn (0 : Ch)).imageRestoreChecks (0 : Ch) z141)) ∧
    (r0.writing (0 : Ch) ↑(2 : Fin 8) = false) ∧
    (restoreSteps ((r0.turn (0 : Ch)).imageOf (0 : Ch) z141)
        (if z141.par 0 1 = 2 then ([], false)
          else
            (r0.flash (z141.imageFrom (0 : Ch))).replay
              (if z141.par 0 1 = 2 then 0
              else
                if z141.phase = 0 then (r0.flash (z141.imageFrom (0 : Ch))).head
                else z141.nums.getD 2 0)
              (r0.flash (z141.imageFrom (0 : Ch))).recs.length
              (bytesAt ((r0.turn (0 : Ch)).imageOf (0 : Ch) z141) 8 8)).1 =
      [RStep.bulk]) ∧
    (tiFlows ((r0.turn (0 : Ch)).imageOf (0 : Ch) z141) = false) ∧
    (tiExt ((r0.turn (0 : Ch)).imageOf (0 : Ch) z141) = false) :=
  ⟨inv_r0, turn_of (by decide +kernel), by unfold Passes; decide +kernel⟩
def r2 := mg (fun m => {m with items := items0}) (withImg [] (cmd (eRs 0 2 [1, 1, 0]) [] clear0))
def r2b := (withImg [] (cmd (eRs 0 2 [1, 1, 0]) [] clear0))
def r3 := (withImg [] (cmd (eRs 0 3 [1, 1, 0]) [] clear0))
def r3b := ch0 (fun x => {x with ep := {x.ep with st1 := .retiring}}) (withImg [] (cmd (eRs 0 3 [1, 1, 0]) [] clear0))
def z143 := (eRs 0 2 [1,1,0])
theorem inv_r2 : r2.Inv := inv_of (by decide +kernel)
theorem test_ImageCommands_6 :
    (r2.Inv) ∧
    (Turn r2 (0 : Ch) (↑(2 : Fin 8)) z143 129) ∧
    (z143.phase = 2) ∧
    (z143.par 0 1 = 2 → (r2.turn (0 : Ch)).stagedBad (0 : Ch) z143 8 = none) ∧
    (r2.writing (0 : Ch) ↑(2 : Fin 8) = true) :=
  ⟨inv_r2, turn_of (by decide +kernel), by decide +kernel⟩
def z144 := (eRs 0 2 [1,1,0])
theorem inv_r2b : r2b.Inv := inv_of (by decide +kernel)
theorem test_ImageCommands_7 :
    (r2b.Inv) ∧
    (Turn r2b (0 : Ch) (↑(2 : Fin 8)) z144 129) ∧
    (z144.phase = 2) ∧
    (z144.par 0 1 = 2 → (r2b.turn (0 : Ch)).stagedBad (0 : Ch) z144 8 = none) ∧
    (r2b.writing (0 : Ch) ↑(2 : Fin 8) = false) :=
  ⟨inv_r2b, turn_of (by decide +kernel), by decide +kernel⟩
def z145 := (eRs 0 3 [1,1,0])
theorem inv_r3 : r3.Inv := inv_of (by decide +kernel)
theorem test_ImageCommands_8 :
    (r3.Inv) ∧
    (Turn r3 (0 : Ch) (↑(2 : Fin 8)) z145 129) ∧
    (z145.phase = 3) ∧
    ((r3.chan (0 : Ch)).othState ≠ EpState.retiring) ∧
    (z145.par 0 1 < 2) :=
  ⟨inv_r3, turn_of (by decide +kernel), by decide +kernel⟩
def z146 := (eRs 0 3 [1,1,0])
theorem inv_r3b : r3b.Inv := inv_of (by decide +kernel)
theorem test_ImageCommands_9 :
    (r3b.Inv) ∧
    (Turn r3b (0 : Ch) (↑(2 : Fin 8)) z146 129) ∧
    (z146.phase = 3) ∧
    (z146.par 0 1 = 2 → (r3b.turn (0 : Ch)).stagedBad (0 : Ch) z146 8 = none) ∧
    ((r3b.chan (0 : Ch)).othState = EpState.retiring) :=
  ⟨inv_r3b, turn_of (by decide +kernel), by decide +kernel⟩
end Images

/-! Write, scrub and repair slots -/
namespace WriteSlots
def N (t : Nat) : Nat := (s0.takeSlot 0 t).getD 0
def exR : Exec := {exec0 0x10 [] with resp := some (List.replicate 256 0)}
def wit (t k : Nat) (d : BitVec 80 := 5) : BitVec 256 := keyItem 1 t k (wordImage (mkWord d 0xFFFF (mkEcf true true false 9)))
def w1 := s0
def w2 := mg (fun m => {m with items := [⟨2, wit 5 77⟩], execs := [(2, exR)]}) sM
def dq (it : BitVec 256) : State := ch0 (fun x => {x with direct := [⟨0, it, 3⟩]}) sM
def w4 := dq (wit 5 77)
def w5 := dq (wit 6 77)
theorem inv_w1 : w1.Inv := inv_of (by decide +kernel)
theorem test_SlotsOfTheCalendar_1 :
    (w1.Inv) ∧
    (∀ (y : ℕ) (e : Exec), (w1.chan (0 : Ch)).mgr.exec? y = some e → e.resp = none) ∧
    (w1.takeSlot (0 : Ch) 1 = some (N 1)) ∧
    ((w1.chan (0 : Ch)).mgr.freeing = []) ∧
    ((w1.chan (0 : Ch)).mgr.items = []) ∧
    ((w1.chan (0 : Ch)).direct = []) :=
  ⟨inv_w1, noExec (by decide +kernel), by decide +kernel⟩
theorem inv_w2 : w2.Inv := inv_of (by decide +kernel)
theorem test_SlotsOfTheCalendar_2 :
    (w2.Inv) ∧
    (w2.takeSlot (0 : Ch) 1 = some (N 1)) ∧
    ((w2.chan (0 : Ch)).mgr.freeing = []) ∧
    ((w2.chan (0 : Ch)).mgr.items = [{ owner := 2, item := BitVec.ofNat 256 461147092016204768500144023433589864273622547123751568050163719071646913280 : MItem }]) ∧
    ((w2.chan (0 : Ch)).direct = []) ∧
    (itemType { owner := 2, item := BitVec.ofNat 256 461147092016204768500144023433589864273622547123751568050163719071646913280 : MItem }.item < 16) ∧
    (itemInArray { owner := 2, item := BitVec.ofNat 256 461147092016204768500144023433589864273622547123751568050163719071646913280 : MItem }.item = true) :=
  ⟨inv_w2, by decide +kernel⟩
theorem inv_w4 : w4.Inv := inv_of (by decide +kernel)
theorem test_SlotsOfTheCalendar_3 :
    (w4.Inv) ∧
    (w4.takeSlot (0 : Ch) 1 = some (N 1)) ∧
    ((w4.chan (0 : Ch)).mgr.freeing = []) ∧
    ((w4.chan (0 : Ch)).mgr.items = []) ∧
    ((w4.chan (0 : Ch)).direct = [{ hf := (0 : Hf), item := BitVec.ofNat 256 461147092016204768500144023433589864273622547123751568050163719071646913280, frame := 3 : DirectItem }]) ∧
    (w4.directOk (0 : Ch) { hf := (0 : Hf), item := BitVec.ofNat 256 461147092016204768500144023433589864273622547123751568050163719071646913280, frame := 3 : DirectItem } = true) :=
  ⟨inv_w4, by decide +kernel⟩
theorem inv_w5 : w5.Inv := inv_of (by decide +kernel)
theorem test_SlotsOfTheCalendar_4 :
    (w5.Inv) ∧
    (w5.takeSlot (0 : Ch) 1 = some (N 1)) ∧
    ((w5.chan (0 : Ch)).mgr.freeing = []) ∧
    ((w5.chan (0 : Ch)).mgr.items = []) ∧
    ((w5.chan (0 : Ch)).direct = [{ hf := (0 : Hf), item := BitVec.ofNat 256 462913939080983152829727320934332782789450031020627187008285325272939533056, frame := 3 : DirectItem }]) ∧
    (w5.directOk (0 : Ch) { hf := (0 : Hf), item := BitVec.ofNat 256 462913939080983152829727320934332782789450031020627187008285325272939533056, frame := 3 : DirectItem } = false) :=
  ⟨inv_w5, by decide +kernel⟩
def z1 := regs s0 [(chR 0 0x7000, 0)]
def z2 := regs s0 [(chR 0 0x7000, 1)]
theorem inv_z1 : z1.Inv := inv_of (by decide +kernel)
theorem test_SlotsOfTheCalendar_5 :
    (z1.Inv) ∧
    (z1.takeSlot (0 : Ch) 2 = some (N 2)) ∧
    (∀ b < 36, ((z1.chan (0 : Ch)).scrubOf b).pos < 16896) ∧
    (swf (fun x => { pos := 0, start := 0, read := 0, wb := [], laps := 0 : BankScrub }) (z1.chan (0 : Ch)).maint.scrub = true) ∧
    (z1.bit (chR (0 : Ch) 28672) 0 = false) :=
  ⟨inv_z1, by decide +kernel⟩
theorem inv_z2 : z2.Inv := inv_of (by decide +kernel)
theorem test_SlotsOfTheCalendar_6 :
    (z2.Inv) ∧
    (z2.takeSlot (0 : Ch) 2 = some (N 2)) ∧
    (∀ b < 36, ((z2.chan (0 : Ch)).scrubOf b).pos < 16896) ∧
    (swf (fun x => { pos := 0, start := 0, read := 0, wb := [], laps := 0 : BankScrub }) (z2.chan (0 : Ch)).maint.scrub = true) ∧
    (z2.bit (chR (0 : Ch) 28672) 0 = true) :=
  ⟨inv_z2, by decide +kernel⟩
def r1 := mg (fun m => {m with repairs := [0, 40]}) sM
theorem inv_r1 : r1.Inv := inv_of (by decide +kernel)
theorem test_SlotsOfTheCalendar_7 :
    (r1.Inv) ∧
    ((r1.chan (0 : Ch)).mgr.repairs = [0, 40]) ∧
    ((r1.chan (0 : Ch)).mgr.up = true) ∧
    ((r1.chan (0 : Ch)).mgr.upd = none) ∧
    ((r1.chan (0 : Ch)).mgr.rep = none) :=
  ⟨inv_r1, by decide +kernel⟩
end WriteSlots

/-! Calibration and migration slots -/
namespace CalSlots
def N (t : Nat) : Nat := (s0.takeSlot 0 t).getD 0
def mnt (f : Maint → Maint) (s : State := s0) : State := ch0 (fun x => {x with maint := f x.maint}) s
def k1 := s0
def pass0 (i : Nat) (g : Bool) (codes : BitVec 32 := 0) : CalPass := ⟨false, 0, i, g, codes, 900⟩
def smp (s : State) : State := ch0 (fun x => {x with maint := {x.maint with samples := [(5, [⟨0x1234, [0], 0, []⟩])]}}) s
def k2 := mnt (fun m => {m with cur := [(0, pass0 5 true)]}) (smp s0)
def k4 := mnt (fun m => {m with cur := [(0, pass0 255 true 0x0FFF00)]}) (smp s0)
def k6 := mnt (fun m => {m with buoys := [(0, 3, 77)]}) (smp s0)
theorem inv_k1 : k1.Inv := inv_of (by decide +kernel)
theorem test_SlotsOfTheCalendar_8 :
    (k1.Inv) ∧
    (k1.takeSlot (0 : Ch) 3 = some (N 3)) ∧
    ((k1.chan (0 : Ch)).maint.busyBanks = []) :=
  ⟨inv_k1, by decide +kernel⟩
theorem inv_k2 : k2.Inv := inv_of (by decide +kernel)
theorem test_SlotsOfTheCalendar_9 :
    (k2.Inv) ∧
    (k2.takeSlot (0 : Ch) 3 = some (N 3)) ∧
    ((k2.chan (0 : Ch)).maint.busyBanks = [0]) ∧
    (((k2.useSlot (0 : Ch) (N 3)).cullWork (0 : Ch) 0).calWork (0 : Ch) (k2.cycleTime (0 : Ch) (N 3)) 0 = CalWork.replay { prio := false, block := 0, idx := 5, good := true, codes := BitVec.ofNat 32 0, since := 900 : CalPass }) ∧
    ((sget (fun x => []) (((k2.useSlot (0 : Ch) (N 3)).cullWork (0 : Ch) 0).chan (0 : Ch)).maint.samples (bmTable (k2.reg (blkR (0 : Ch) 0 { prio := false, block := 0, idx := 5, good := true, codes := BitVec.ofNat 32 0, since := 900 : CalPass }.block))))[{ prio := false, block := 0, idx := 5, good := true, codes := BitVec.ofNat 32 0, since := 900 : CalPass }.idx % (sget (fun x => []) (((k2.useSlot (0 : Ch) (N 3)).cullWork (0 : Ch) 0).chan (0 : Ch)).maint.samples (bmTable (k2.reg (blkR (0 : Ch) 0 { prio := false, block := 0, idx := 5, good := true, codes := BitVec.ofNat 32 0, since := 900 : CalPass }.block)))).length]? = some { key := 4660, lanes := [0], slot := 0, refs := [] : Sample }) ∧
    ({ prio := false, block := 0, idx := 5, good := true, codes := BitVec.ofNat 32 0, since := 900 : CalPass }.idx < 255) :=
  ⟨inv_k2, by decide +kernel⟩
theorem inv_k4 : k4.Inv := inv_of (by decide +kernel)
theorem test_SlotsOfTheCalendar_10 :
    (k4.Inv) ∧
    (k4.takeSlot (0 : Ch) 3 = some (N 3)) ∧
    ((k4.chan (0 : Ch)).maint.busyBanks = [0]) ∧
    (((k4.useSlot (0 : Ch) (N 3)).cullWork (0 : Ch) 0).calWork (0 : Ch) (k4.cycleTime (0 : Ch) (N 3)) 0 = CalWork.replay { prio := false, block := 0, idx := 255, good := true, codes := BitVec.ofNat 32 1048320, since := 900 : CalPass }) ∧
    ((sget (fun x => []) (((k4.useSlot (0 : Ch) (N 3)).cullWork (0 : Ch) 0).chan (0 : Ch)).maint.samples (bmTable (k4.reg (blkR (0 : Ch) 0 { prio := false, block := 0, idx := 255, good := true, codes := BitVec.ofNat 32 1048320, since := 900 : CalPass }.block))))[{ prio := false, block := 0, idx := 255, good := true, codes := BitVec.ofNat 32 1048320, since := 900 : CalPass }.idx % (sget (fun x => []) (((k4.useSlot (0 : Ch) (N 3)).cullWork (0 : Ch) 0).chan (0 : Ch)).maint.samples (bmTable (k4.reg (blkR (0 : Ch) 0 { prio := false, block := 0, idx := 255, good := true, codes := BitVec.ofNat 32 1048320, since := 900 : CalPass }.block)))).length]? = some { key := 4660, lanes := [0], slot := 0, refs := [] : Sample }) ∧
    (255 ≤ { prio := false, block := 0, idx := 255, good := true, codes := BitVec.ofNat 32 1048320, since := 900 : CalPass }.idx) ∧
    ((k4.chan (0 : Ch)).mgr.mig = none) ∧
    ((k4.chan (0 : Ch)).mgr.rep = none) ∧
    (0 < 36) ∧
    ({ prio := false, block := 0, idx := 255, good := true, codes := BitVec.ofNat 32 1048320, since := 900 : CalPass }.block < 33) :=
  ⟨inv_k4, by decide +kernel⟩
theorem inv_k6 : k6.Inv := inv_of (by decide +kernel)
theorem test_SlotsOfTheCalendar_11 :
    (k6.Inv) ∧
    (k6.takeSlot (0 : Ch) 3 = some (N 3)) ∧
    ((k6.chan (0 : Ch)).maint.busyBanks = [0]) ∧
    (((k6.useSlot (0 : Ch) (N 3)).cullWork (0 : Ch) 0).calWork (0 : Ch) (k6.cycleTime (0 : Ch) (N 3))
        0 =
      CalWork.buoy 3 77) :=
  ⟨inv_k6, by decide +kernel⟩
def jb (st : Nat) (ow : Option Nat := none) : Job := {Job.start 0 4 ow with step := st}
def g1 := mg (fun m => {m with mig := some (jb 3), locks := [(0, ⟨0, 8, 700⟩)]}) sM
def eX : Exec := exec0 0x40 [0,0,255,255,0,0,0,0] 1
def g4 := mg (fun m => {m with mig := some (jb 6 (some 2)), locks := [(0, ⟨0, 8, 700⟩)], execs := [(2, eX)], boxes := m.boxes.set 0 ⟨.running, eX.req⟩}) sM
theorem inv_g1 : g1.Inv := inv_of (by decide +kernel)
theorem test_SlotsOfTheCalendar_12 :
    (g1.Inv) ∧
    (g1.takeSlot (0 : Ch) 4 = some (N 4)) ∧
    ((rotate (g1.chan (0 : Ch)).mgr.jobRanks fun h =>
        match (g1.chan (0 : Ch)).mgr.job h with
        | some j => j.waits (g1.chan (0 : Ch)).mgr.up
        | none => false) =
      some (8, [9, 8])) ∧
    ((g1.chan (0 : Ch)).mgr.job 8 = some (jb 3)) ∧
    ((jb 3).failed = false) ∧
    ((jb 3).src ≠ (jb 3).dst) ∧
    ((jb 3).step = 3) ∧
    ((jb 3).next < 511) ∧
    (8 = 9 ∨ (g1.chan (0 : Ch)).arr.groupBad (jb 3).src (jb 3).next = false) :=
  ⟨inv_g1, by decide +kernel⟩
theorem inv_g4 : g4.Inv := inv_of (by decide +kernel)
theorem test_SlotsOfTheCalendar_13 :
    (g4.Inv) ∧
    (g4.takeSlot (0 : Ch) 4 = some (N 4)) ∧
    ((rotate (g4.chan (0 : Ch)).mgr.jobRanks fun h =>
        match (g4.chan (0 : Ch)).mgr.job h with
        | some j => j.waits (g4.chan (0 : Ch)).mgr.up
        | none => false) =
      some (8, [9, 8])) ∧
    ((g4.chan (0 : Ch)).mgr.job 8 = some (jb 6 (some 2))) ∧
    ((jb 6 (some 2)).failed = false) ∧
    ((jb 6 (some 2)).src ≠ (jb 6 (some 2)).dst) :=
  ⟨inv_g4, by decide +kernel⟩
theorem test_SlotsOfTheCalendar_14 :
    (s0.Inv) ∧
    (s0.takeSlot (0 : Ch) 4 = some (N 4)) ∧
    ((rotate (s0.chan (0 : Ch)).mgr.jobRanks fun h =>
        match (s0.chan (0 : Ch)).mgr.job h with
        | some j => j.waits (s0.chan (0 : Ch)).mgr.up
        | none => false) =
      none) :=
  ⟨inv_s0, by decide +kernel⟩
end CalSlots

/-! Flits -/
namespace Flits
theorem test_TidePeriods_1 :
    (s0.Inv) ∧
    (Served s0 ra (chRegion (0 : Ch)) 26624) :=
  ⟨inv_s0, served_of (by decide +kernel)⟩
def mnt (f : Maint → Maint) (s : State := s0) : State := ch0 (fun x => {x with maint := f x.maint}) s
def sw := mnt (fun m => {m with swapAt := some 4000})
theorem inv_sw : sw.Inv := inv_of (by decide +kernel)
theorem test_TidePeriods_2 :
    (sw.Inv) ∧
    ((sw.chan (0 : Ch)).maint.swapAt = some 4000) :=
  ⟨inv_sw, by decide +kernel⟩
theorem test_TidePeriods_3 :
    (s0.Inv) ∧
    ((s0.chan (0 : Ch)).power = ChPower.on ∨ (s0.chan (0 : Ch)).power = ChPower.idle) ∧
    (swf (fun x => { pos := 0, start := 0, read := 0, wb := [], laps := 0 : BankScrub }) (s0.chan (0 : Ch)).maint.scrub = true) :=
  ⟨inv_s0, by decide +kernel⟩
def t1 := mnt (fun m => {m with tideRevs := 1024, budget := 4, prio := [(0, 0)], resume := false, scrub := [(0, ⟨5, 3, 2, [(0, 3)], 0⟩)], cur := [(0, ⟨false, 0, 4, true, 0, 800⟩)]}) (regs s0 [(chR 0 0x7000, 1), (scrubR 0 0 0, 0x50000)])
def t3 : State := ch0 (fun x => {x with power := .off}) t1
theorem inv_t3 : t3.Inv := inv_of (by decide +kernel)
theorem test_TidePeriods_4 :
    (t3.Inv) ∧
    ((t3.chan (0 : Ch)).power = ChPower.off ∨ (t3.chan (0 : Ch)).power = ChPower.wake) :=
  ⟨inv_t3, by decide +kernel⟩
theorem test_TidePeriods_5 :
    (s0.boot.inReset = false) :=
  by decide +kernel
def flit (ty seq : Nat) (pl : List Nat) : BitVec 512 :=
  let h := toBytes 2 (ty * 8192 + seq) ++ (padTo 60 (pl.map (BitVec.ofNat 8)))
  BitVec.ofNat 512 (ofBytes (h ++ toBytes 2 (crc16 h).toNat))
def hp (f : LinkPort → LinkPort) (s : State := s0) : State := {s with host := f s.host}
theorem test_LinkFlits_1 :
    (s0.Inv) ∧
    ((s0.port Port.host).state = LinkState.up) ∧
    ((crc16 (List.take 62 (toBytes 64 (flit 0 0 []).toNat))).toNat =
        (flit 0 0 []).toNat % 65536 ∧
      natBits (flit 0 0 []).toNat 509 3 ≠ 5) ∧
    (natBits (flit 0 0 []).toNat 509 3 < 5) ∧
    (natBits (flit 0 0 []).toNat 496 13 = (s0.port Port.host).rxExpect) ∧
    ((s0.port Port.host).rcvd.getD (natBits (flit 0 0 []).toNat 509 3) 0 <
      grantOf Port.host (natBits (flit 0 0 []).toNat 509 3) +
        (s0.port Port.host).freed (natBits (flit 0 0 []).toNat 509 3)) ∧
    ((parseStream (Port.host == Port.host) (natBits (flit 0 0 []).toNat 509 3) 40
              ((s0.port Port.host).rx.getD (natBits (flit 0 0 []).toNat 509 3) [] ++
                List.take 60 (List.drop 2 (toBytes 64 (flit 0 0 []).toNat)))
              (if (s0.port Port.host).rx.getD (natBits (flit 0 0 []).toNat 509 3) [] = [] then
                (decide (0 < (s0.port Port.host).replayLeft),
                  (max (31 * s0.now) (s0.port Port.host).rxLine + 30) / 31)
              else
                ((s0.port Port.host).rxReplay.getD (natBits (flit 0 0 []).toNat 509 3) false,
                  (s0.port Port.host).rxAt.getD (natBits (flit 0 0 []).toNat 509 3) 0))
              (decide (0 < (s0.port Port.host).replayLeft),
                (max (31 * s0.now) (s0.port Port.host).rxLine + 30) / 31)
              []).2.2.2 =
      false) :=
  ⟨inv_s0, by decide +kernel⟩
theorem test_LinkFlits_2 :
    (s0.Inv) ∧
    ((s0.port Port.host).state = LinkState.up) ∧
    ((crc16
            (List.take 62
              (toBytes 64
                (flit 2 0
                    [16, 0, 0, 0, 0, 0, 0, 0]).toNat))).toNat =
        (flit 2 0 [16, 0, 0, 0, 0, 0, 0, 0]).toNat %
          65536 ∧
      natBits (flit 2 0 [16, 0, 0, 0, 0, 0, 0, 0]).toNat
          509 3 ≠
        5) ∧
    (natBits (flit 2 0 [16, 0, 0, 0, 0, 0, 0, 0]).toNat
        509 3 <
      5) ∧
    (natBits (flit 2 0 [16, 0, 0, 0, 0, 0, 0, 0]).toNat
        496 13 =
      (s0.port Port.host).rxExpect) ∧
    ((s0.port Port.host).rcvd.getD
        (natBits (flit 2 0 [16, 0, 0, 0, 0, 0, 0, 0]).toNat
          509 3)
        0 <
      grantOf Port.host
          (natBits
            (flit 2 0 [16, 0, 0, 0, 0, 0, 0, 0]).toNat
            509 3) +
        (s0.port Port.host).freed
          (natBits
            (flit 2 0 [16, 0, 0, 0, 0, 0, 0, 0]).toNat
            509 3)) ∧
    ((parseStream (Port.host == Port.host)
              (natBits
                (flit 2 0 [16, 0, 0, 0, 0, 0, 0, 0]).toNat
                509 3)
              40
              ((s0.port Port.host).rx.getD
                  (natBits
                    (flit 2 0
                        [16, 0, 0, 0, 0, 0, 0, 0]).toNat
                    509 3)
                  [] ++
                List.take 60
                  (List.drop 2
                    (toBytes 64
                      (flit 2 0
                          [16, 0, 0, 0, 0, 0, 0, 0]).toNat)))
              (if
                  (s0.port Port.host).rx.getD
                      (natBits
                        (flit 2 0
                            [16, 0, 0, 0, 0, 0, 0, 0]).toNat
                        509 3)
                      [] =
                    [] then
                (decide (0 < (s0.port Port.host).replayLeft),
                  (max (31 * s0.now) (s0.port Port.host).rxLine + 30) / 31)
              else
                ((s0.port Port.host).rxReplay.getD
                    (natBits
                      (flit 2 0
                          [16, 0, 0, 0, 0, 0, 0, 0]).toNat
                      509 3)
                    false,
                  (s0.port Port.host).rxAt.getD
                    (natBits
                      (flit 2 0
                          [16, 0, 0, 0, 0, 0, 0, 0]).toNat
                      509 3)
                    0))
              (decide (0 < (s0.port Port.host).replayLeft),
                (max (31 * s0.now) (s0.port Port.host).rxLine + 30) / 31)
              []).2.2.2 =
      true) ∧
    (Port.host = Port.host) :=
  ⟨inv_s0, by decide +kernel⟩
theorem test_LinkFlits_3 :
    (s0.Inv) ∧
    ((s0.port Port.host).state = LinkState.up) ∧
    (¬((crc16
              (List.take 62
                (toBytes 64
                  (flit 2 0 [16, 0, 0, 0, 0, 0, 0, 0] ^^^
                      (32768 : BitVec 512)).toNat))).toNat =
          (flit 2 0 [16, 0, 0, 0, 0, 0, 0, 0] ^^^
                (32768 : BitVec 512)).toNat %
            65536 ∧
        natBits
            (flit 2 0 [16, 0, 0, 0, 0, 0, 0, 0] ^^^
                (32768 : BitVec 512)).toNat
            509 3 ≠
          5)) ∧
    (natBits
        (flit 2 0 [16, 0, 0, 0, 0, 0, 0, 0] ^^^
            (32768 : BitVec 512)).toNat
        509 3 ≠
      6) ∧
    (natBits
        (flit 2 0 [16, 0, 0, 0, 0, 0, 0, 0] ^^^
            (32768 : BitVec 512)).toNat
        509 3 ≠
      7) :=
  ⟨inv_s0, by decide +kernel⟩
def sW := hp (fun l => {l with waiting := true})
theorem inv_sW : sW.Inv := inv_of (by decide +kernel)
theorem test_LinkFlits_4 :
    (sW.Inv) ∧
    ((sW.port Port.host).state = LinkState.up) ∧
    (¬((crc16
              (List.take 62
                (toBytes 64 (flit 6 0 [] ^^^ (524288 : BitVec 512)).toNat))).toNat =
          (flit 6 0 [] ^^^ (524288 : BitVec 512)).toNat % 65536 ∧
        natBits (flit 6 0 [] ^^^ (524288 : BitVec 512)).toNat 509 3 ≠ 5)) ∧
    (natBits (flit 6 0 [] ^^^ (524288 : BitVec 512)).toNat 509 3 = 6 ∨
      natBits (flit 6 0 [] ^^^ (524288 : BitVec 512)).toNat 509 3 = 7) :=
  ⟨inv_sW, by decide +kernel⟩
theorem test_LinkFlits_5 :
    (sW.Inv) ∧
    ((sW.port Port.host).state = LinkState.up) ∧
    ((crc16 (List.take 62 (toBytes 64 (flit 6 0 []).toNat))).toNat =
        (flit 6 0 []).toNat % 65536 ∧
      natBits (flit 6 0 []).toNat 509 3 ≠ 5) ∧
    (5 < natBits (flit 6 0 []).toNat 509 3) :=
  ⟨inv_sW, by decide +kernel⟩
theorem test_LinkFlits_6 :
    (s0.Inv) ∧
    ((s0.port Port.host).state = LinkState.up) ∧
    ((crc16 (List.take 62 (toBytes 64 (flit 2 9 []).toNat))).toNat =
        (flit 2 9 []).toNat % 65536 ∧
      natBits (flit 2 9 []).toNat 509 3 ≠ 5) ∧
    (natBits (flit 2 9 []).toNat 509 3 < 5) ∧
    (natBits (flit 2 9 []).toNat 496 13 ≠ (s0.port Port.host).rxExpect) :=
  ⟨inv_s0, by decide +kernel⟩
end Flits

/-! Link states -/
namespace Links
def flit (ty seq : Nat) (pl : List Nat) : BitVec 512 :=
  let h := toBytes 2 (ty * 8192 + seq) ++ (padTo 60 (pl.map (BitVec.ofNat 8)))
  BitVec.ofNat 512 (ofBytes (h ++ toBytes 2 (crc16 h).toNat))
def hp (f : LinkPort → LinkPort) (s : State := s0) : State := {s with host := f s.host}
def pay (a : Nat) (acks : Nat) (nid : Nat) (cr : List Nat) : BitVec 480 := BitVec.ofNat 480 (ofBytes (padTo 60 ((([a, nid * 16] ++ nb 2 acks ++ cr.flatMap (nb 2))).map (BitVec.ofNat 8))))
def tf (q : Nat) : TxFlit := ⟨q, flit 0 q [], 950, []⟩
def sT := hp (fun l => {l with txNext := 4, sent := [4,0,0,0,0], replayBuf := [tf 1, tf 2, tf 3], acked := 0, lastNak := none})
theorem inv_sT : sT.Inv := inv_of (by decide +kernel)
theorem test_LinkFlits_7 :
    (sT.Inv) ∧
    ((sT.port Port.host).state = LinkState.up) ∧
    ((sT.port Port.host).hostCr.length = 5) ∧
    (ctrlField (pay 1 2 0 [1100, 1100, 1100, 1100, 1100]) 0
        1 =
      1) :=
  ⟨inv_sT, by decide +kernel⟩
theorem test_LinkFlits_8 :
    (sT.Inv) ∧
    ((sT.port Port.host).state = LinkState.up) ∧
    ((sT.port Port.host).hostCr.length = 5) ∧
    (ctrlField (pay 2 2 3 [1100, 1100, 1100, 1100, 1100]) 0
        1 =
      2) :=
  ⟨inv_sT, by decide +kernel⟩
theorem test_LinkFlits_9 :
    (sT.Inv) ∧
    ((sT.port Port.host).state = LinkState.up ∨
      ((sT.port Port.host).state = LinkState.train ∨ (sT.port Port.host).state = LinkState.recovery) ∧
        (sT.port Port.host).step = 6) :=
  ⟨inv_sT, by decide +kernel⟩
theorem test_LinkFlits_10 :
    (sT.Inv) ∧
    ((sT.port Port.host).state = LinkState.up) ∧
    ((sT.port Port.host).replayBuf = [tf 1, tf 2, tf 3]) :=
  ⟨inv_sT, by decide +kernel⟩
def sUp : State := {s0 with up := {sT.host with txq := List.replicate 200 (7, true)}, dn := lup}
theorem test_LinkStates_1 :
    (formWidth (65535 : BitVec 16) 16 = some (BitVec.ofNat 16 65535)) :=
  by decide +kernel
theorem test_LinkStates_2 :
    (formWidth (30583 : BitVec 16) 16 = none) :=
  by decide +kernel
def tr (st : Nat) : State := hp (fun l => {l with state := .train, step := st, lanes := 0xFFFF, failed := 0})
def tr2 := tr 2
def tr3 := tr 3
def tr4 := tr 4
def tr6 := tr 6
theorem inv_tr2 : tr2.Inv := inv_of (by decide +kernel)
theorem inv_tr3 : tr3.Inv := inv_of (by decide +kernel)
theorem inv_tr4 : tr4.Inv := inv_of (by decide +kernel)
theorem inv_tr6 : tr6.Inv := inv_of (by decide +kernel)
theorem test_LinkStates_3 :
    (tr2.Inv) ∧
    (tr3.Inv) ∧
    (tr4.Inv) ∧
    (tr6.Inv) ∧
    ((tr2.port Port.host).state = LinkState.train ∨ (tr2.port Port.host).state = LinkState.recovery) ∧
    ((tr2.port Port.host).step = 1 ∨ (tr2.port Port.host).step = 2) ∧
    ((tr3.port Port.host).state = LinkState.train ∨ (tr3.port Port.host).state = LinkState.recovery) ∧
    ((tr3.port Port.host).step = 3) ∧
    ((tr4.port Port.host).state = LinkState.train ∨ (tr4.port Port.host).state = LinkState.recovery) ∧
    ((tr4.port Port.host).step = 4) ∧
    ((tr6.port Port.host).state = LinkState.train ∨ (tr6.port Port.host).state = LinkState.recovery) ∧
    ((tr6.port Port.host).step = 6) ∧
    (Port.host = Port.host) ∧
    (ctrlField (pay 1 0 0 [300, 300, 300, 300, 300]) 0 1 =
      1) ∧
    (256 ≤
        (List.map
              (fun v =>
                ctrlField (pay 1 0 0 [300, 300, 300, 300, 300])
                  (4 + 2 * v) 2)
              [0, 1, 2, 3, 4]).getD
          1 0 ∧
      64 ≤
          (List.map
                (fun v =>
                  ctrlField (pay 1 0 0 [300, 300, 300, 300, 300])
                    (4 + 2 * v) 2)
                [0, 1, 2, 3, 4]).getD
            3 0 ∧
        64 ≤
          (List.map
                (fun v =>
                  ctrlField (pay 1 0 0 [300, 300, 300, 300, 300])
                    (4 + 2 * v) 2)
                [0, 1, 2, 3, 4]).getD
            4 0) ∧
    (ctrlField (pay 1 0 0 [300, 200, 300, 300, 300]) 0 1 =
      1) ∧
    (¬(256 ≤
          (List.map
                (fun v =>
                  ctrlField (pay 1 0 0 [300, 200, 300, 300, 300])
                    (4 + 2 * v) 2)
                [0, 1, 2, 3, 4]).getD
            1 0 ∧
        64 ≤
            (List.map
                  (fun v =>
                    ctrlField (pay 1 0 0 [300, 200, 300, 300, 300])
                      (4 + 2 * v) 2)
                  [0, 1, 2, 3, 4]).getD
              3 0 ∧
          64 ≤
            (List.map
                  (fun v =>
                    ctrlField (pay 1 0 0 [300, 200, 300, 300, 300])
                      (4 + 2 * v) 2)
                  [0, 1, 2, 3, 4]).getD
              4 0)) :=
  ⟨inv_tr2, inv_tr3, inv_tr4, inv_tr6, by decide +kernel⟩
def tu : State := {s0 with up := {lup with state := .train, step := 6}}
theorem inv_tu : tu.Inv := inv_of (by decide +kernel)
theorem test_LinkStates_4 :
    (tu.Inv) ∧
    ((tu.port Port.up).state = LinkState.train ∨ (tu.port Port.up).state = LinkState.recovery) ∧
    ((tu.port Port.up).step = 6) ∧
    (Port.up ≠ Port.host ∨ ctrlField (0 : BitVec 480) 0 1 ≠ 1) ∧
    ((tu.port Port.up).state = LinkState.train) :=
  ⟨inv_tu, by decide +kernel⟩
theorem test_LinkStates_5 :
    (s0.Inv) ∧
    ((s0.port Port.host).state = LinkState.up) ∧
    ((s0.port Port.host).lanes.getLsbD ↑(3 : Fin 16) = true) :=
  ⟨inv_s0, by decide +kernel⟩
def rc (f : LinkPort → LinkPort) : State := regs (hp (fun l => f {l with state := .recovery, step := 2}) sT) [(modR 0x3000, 6)]
def rc1 := rc id
def rc2 := regs rc1 [(modR 0x1000, 9)]
theorem inv_rc1 : rc1.Inv := inv_of (by decide +kernel)
theorem inv_rc2 : rc2.Inv := inv_of (by decide +kernel)
theorem test_LinkStates_6 :
    (rc1.Inv) ∧
    (rc2.Inv) ∧
    ((rc1.port Port.host).state = LinkState.recovery) ∧
    (formWidth (65535 : BitVec 16) (rc1.port Port.host).width = some (BitVec.ofNat 16 65535)) ∧
    (BitVec.ofNat 16 65535 = (rc1.port Port.host).lanes ∨ rc1.bit (modR 4096) 4 = true) ∧
    ((rc2.port Port.host).state = LinkState.recovery) ∧
    (formWidth (255 : BitVec 16) (rc2.port Port.host).width = some (BitVec.ofNat 16 255)) ∧
    (BitVec.ofNat 16 255 ≠ (rc2.port Port.host).lanes) ∧
    (rc2.bit (modR 4096) 4 = false) ∧
    (formWidth (119 : BitVec 16) (rc2.port Port.host).width = none) :=
  ⟨inv_rc1, inv_rc2, by decide +kernel⟩
def rcu : State := regs {sUp with up := {sUp.up with state := .recovery, lanes := 0xFF}, dn := {sUp.dn with state := .recovery}} [(modR 0x3010, 6)]
theorem test_LinkStates_7 :
    (rc1.Inv) ∧
    (rc1.host.state = LinkState.recovery) ∧
    (Port.up ≠ Port.host) ∧
    ((rcu.port Port.up).state = LinkState.recovery) :=
  ⟨inv_rc1, by decide +kernel⟩
def dn1 : State := regs (hp (fun _ => LinkPort.reset)) [(modR 0x1000, 0x10), (modR 0x14, 1)]
def dn2 : State := regs s0 [(modR 0x14, 1)]
theorem inv_dn1 : dn1.Inv := inv_of (by decide +kernel)
theorem test_LinkStates_8 :
    (dn1.Inv) ∧
    (dn1.host.state = LinkState.down) ∧
    (dn1.vc2 = []) ∧
    (ra.rivals = []) ∧
    (dn1.egr.completions.length < 256) ∧
    (ra.be = (15 : BitVec 4)) ∧
    (dn1.mayReg ra.hf 0 1 true = true) ∧
    (dn1.bit (modR 4096) 0 = false) ∧
    (dn1.bit (modR 20) 0 = true) ∧
    (dn1.linkSafe = false) :=
  ⟨inv_dn1, by decide +kernel⟩
theorem inv_dn2 : dn2.Inv := inv_of (by decide +kernel)
theorem test_LinkStates_9 :
    (dn2.Inv) ∧
    (Served dn2 ra 0 4096) ∧
    (dn2.host.state = LinkState.up) ∧
    (dn2.bit (modR 4096) 0 = true) :=
  ⟨inv_dn2, served_of (by decide +kernel), by decide +kernel⟩
theorem test_LinkStates_10 :
    (dn2.Inv) ∧
    (Served dn2 ra 0 4096) ∧
    (dn2.bit (modR 4096) 0 = true) :=
  ⟨inv_dn2, served_of (by decide +kernel), by decide +kernel⟩
def tr5 := tr 5
def rec (st : Nat) : State := hp (fun l => {l with state := .recovery, step := st})
def rec5 := rec 5
def tpay (pre : Nat) : BitVec 480 := BitVec.ofNat 480 (ofBytes (padTo 60 ([3,1,0,16,pre,0,1].map (BitVec.ofNat 8))))
theorem inv_tr5 : tr5.Inv := inv_of (by decide +kernel)
theorem inv_rec5 : rec5.Inv := inv_of (by decide +kernel)
theorem test_LinkStates_11 :
    (tr5.Inv) ∧
    (rec5.Inv) ∧
    ((tr5.port Port.host).state = LinkState.train ∨ (tr5.port Port.host).state = LinkState.recovery) ∧
    ((tr5.port Port.host).step = 5) ∧
    (ctrlField (tpay 1) 0 1 = 3) ∧
    (¬(tr5.port Port.host).state = LinkState.recovery) ∧
    (ctrlField (0 : BitVec 480) 0 1 ≠ 3) ∧
    ((rec5.port Port.host).state = LinkState.train ∨ (rec5.port Port.host).state = LinkState.recovery) ∧
    ((rec5.port Port.host).step = 5) ∧
    ((rec5.port Port.host).state = LinkState.recovery) :=
  ⟨inv_tr5, inv_rec5, by decide +kernel⟩
def dwn : State := hp (fun _ => LinkPort.reset)
theorem inv_dwn : dwn.Inv := inv_of (by decide +kernel)
theorem test_LinkFlits_11 :
    (dwn.Inv) ∧
    (tr5.Inv) ∧
    ((dwn.port Port.host).state = LinkState.down ∨
      ((dwn.port Port.host).state = LinkState.train ∨ (dwn.port Port.host).state = LinkState.recovery) ∧
        (dwn.port Port.host).step ≠ 5 ∧ (dwn.port Port.host).step ≠ 6) ∧
    ((tr5.port Port.host).state = LinkState.train ∨ (tr5.port Port.host).state = LinkState.recovery) ∧
    ((tr5.port Port.host).step = 5) :=
  ⟨inv_dwn, inv_tr5, by decide +kernel⟩
end Links

/-! Register, bulk and direct frames -/
namespace Registers
def flit (ty seq : Nat) (pl : List Nat) : BitVec 512 :=
  let h := toBytes 2 (ty * 8192 + seq) ++ (padTo 60 (pl.map (BitVec.ofNat 8)))
  BitVec.ofNat 512 (ofBytes (h ++ toBytes 2 (crc16 h).toNat))
def hp (f : LinkPort → LinkPort) (s : State := s0) : State := {s with host := f s.host}
def sNoCr := hp (fun l => {l with arrived := [{vc := 1, bytes := [1], replay := false, at_ := 900}]})
theorem inv_sNoCr : sNoCr.Inv := inv_of (by decide +kernel)
theorem test_LinkFlits_12 :
    (sNoCr.Inv) ∧
    ((sNoCr.port Port.host).state = LinkState.up) ∧
    ((crc16 (List.take 62 (toBytes 64 (flit 1 0 []).toNat))).toNat =
        (flit 1 0 []).toNat % 65536 ∧
      natBits (flit 1 0 []).toNat 509 3 ≠ 5) ∧
    (natBits (flit 1 0 []).toNat 509 3 < 5) ∧
    (natBits (flit 1 0 []).toNat 496 13 = (sNoCr.port Port.host).rxExpect) ∧
    (¬(sNoCr.port Port.host).rcvd.getD (natBits (flit 1 0 []).toNat 509 3) 0 <
        grantOf Port.host (natBits (flit 1 0 []).toNat 509 3) +
          (sNoCr.port Port.host).freed (natBits (flit 1 0 []).toNat 509 3)) ∧
    (Port.host = Port.host) :=
  ⟨inv_sNoCr, by decide +kernel⟩
theorem test_BulkAndDirectFrames_1 :
    (s0.Inv) ∧
    (s0.vc2 = []) ∧
    (s0.egr.completions.length < 256) ∧
    (s0.host.isUp = true) ∧
    (64 * (BitVec.toNat (7 : BitVec 19) + (BitVec.toNat (2 : BitVec 4) + 1)) ≤ 33554432) ∧
    (s0.mayMbx (0 : Hf) (0 : Ch) (2 * ↑(0 : Hf)) = true ∨
      s0.mayMbx (0 : Hf) (0 : Ch) (2 * ↑(0 : Hf) + 1) = true) ∧
    ((s0.chan (0 : Ch)).power = ChPower.on ∨ (s0.chan (0 : Ch)).power = ChPower.idle) :=
  ⟨inv_s0, by decide +kernel⟩
theorem test_BulkAndDirectFrames_2 :
    (s0.Inv) ∧
    (s0.vc2 = []) ∧
    (s0.egr.completions.length < 256) ∧
    (s0.host.isUp = true) ∧
    (64 * (BitVec.toNat (7 : BitVec 19) + (BitVec.toNat (2 : BitVec 4) + 1)) ≤ 33554432) ∧
    (s0.mayMbx (0 : Hf) (0 : Ch) (2 * ↑(0 : Hf)) = true ∨
      s0.mayMbx (0 : Hf) (0 : Ch) (2 * ↑(0 : Hf) + 1) = true) ∧
    ((s0.chan (0 : Ch)).power = ChPower.on ∨ (s0.chan (0 : Ch)).power = ChPower.idle) :=
  ⟨inv_s0, by decide +kernel⟩
theorem test_BulkAndDirectFrames_3 :
    (s0.Inv) ∧
    (s0.vc2 = []) ∧
    ((s0.chan (0 : Ch)).power = ChPower.on ∨ (s0.chan (0 : Ch)).power = ChPower.idle) ∧
    ((s0.chan (0 : Ch)).direct.length +
        [ecfItem 5 3 (0 : BitVec 24), ecfItem 5 4 (0 : BitVec 24)].length ≤
      4096) ∧
    ((s0.chan (1 : Ch)).power = ChPower.off ∨ (s0.chan (1 : Ch)).power = ChPower.wake) :=
  ⟨inv_s0, by decide +kernel⟩
theorem test_RegisterWrites_1 :
    (s0.Inv) ∧
    (areaOf (117440512 : BitVec 32) = Area.none ∧ 2 = 2 ∨
      (areaOf (117440512 : BitVec 32) = Area.ctl 0 ∧
            0 ≠ indBase (regionOf (117440512 : BitVec 32)) ∧
              0 ≠ indBase (regionOf (117440512 : BitVec 32)) + 4 ∨
          ∃ b, areaOf (117440512 : BitVec 32) = Area.bitWord 0 b) ∧
        (¬s0.mayReg ra.hf (regionOf (117440512 : BitVec 32)) (0 / 4096 : ℕ) true = true ∧ 2 = 1 ∨
          s0.mayReg ra.hf (regionOf (117440512 : BitVec 32)) (0 / 4096 : ℕ) true = true ∧
              (regionOf (117440512 : BitVec 32) ≠ 0 ∧
                  ((s0.chan (Fin.ofNat 4 (regionOf (117440512 : BitVec 32) - 1))).power =
                        ChPower.off ∨
                      (s0.chan (Fin.ofNat 4 (regionOf (117440512 : BitVec 32) - 1))).power =
                        ChPower.wake) ∧
                    baseBlock 0 = false) ∧
                2 = 3 ∨
            s0.mayReg ra.hf (regionOf (117440512 : BitVec 32)) (0 / 4096 : ℕ) true = true ∧
                ¬(regionOf (117440512 : BitVec 32) ≠ 0 ∧
                      ((s0.chan (Fin.ofNat 4 (regionOf (117440512 : BitVec 32) - 1))).power =
                            ChPower.off ∨
                          (s0.chan (Fin.ofNat 4 (regionOf (117440512 : BitVec 32) - 1))).power =
                            ChPower.wake) ∧
                        baseBlock 0 = false) ∧
                  BitVec.toNat (117440512 : BitVec 32) % 4 ≠ 0 ∧ 2 = 4 ∨
              s0.mayReg ra.hf (regionOf (117440512 : BitVec 32)) (0 / 4096 : ℕ) true = true ∧
                ¬(regionOf (117440512 : BitVec 32) ≠ 0 ∧
                      ((s0.chan (Fin.ofNat 4 (regionOf (117440512 : BitVec 32) - 1))).power =
                            ChPower.off ∨
                          (s0.chan (Fin.ofNat 4 (regionOf (117440512 : BitVec 32) - 1))).power =
                            ChPower.wake) ∧
                        baseBlock 0 = false) ∧
                  BitVec.toNat (117440512 : BitVec 32) % 4 = 0 ∧
                    ra.be ≠ (15 : BitVec 4) ∧ 2 = 5)) ∧
    (s0.vc2 = []) ∧
    (ra.rivals = []) ∧
    (s0.egr.completions.length < 256) ∧
    (s0.host.isUp = true) :=
  ⟨inv_s0, Or.inl (by decide +kernel), by decide +kernel⟩
theorem test_RegisterWrites_2 :
    (s0.Inv) ∧
    (Served s0 ra ↑(1 : Fin 5) 28676) ∧
    (28676 < 65536) ∧
    (28676 % 4 = 0) ∧
    (regFields (↑(1 : Fin 5)) false 28676 = some ((regFields 1 false 28676).getD [])) ∧
    (writeActs ↑(1 : Fin 5) 28676 = false) ∧
    (ra.hw = (0 : Word)) :=
  ⟨inv_s0, served_of (by decide +kernel), by decide +kernel⟩
theorem test_RegisterWrites_3 :
    (s0.Inv) ∧
    (Served s0 ra (chRegion (0 : Ch)) 12292) :=
  ⟨inv_s0, served_of (by decide +kernel)⟩
def evs := regs s0 [(modR 0x4004, 0xFF0), (chR 0 0xB008, 0x777)]
theorem inv_evs : evs.Inv := inv_of (by decide +kernel)
theorem test_RegisterWrites_4 :
    (evs.Inv) ∧
    (Served evs ra (↑(0 : Fin 5))
      ((if (0 : Fin 5) = (0 : Fin 5) then 16384 else 45056) + 64 +
        4 * ↑(1 : Fin 15))) :=
  ⟨inv_evs, served_of (by decide +kernel)⟩
theorem test_RegisterWrites_5 :
    (s0.Inv) ∧
    (regFields (↑(1 : Fin 5)) false (BitVec.toNat (16688 : BitVec 24)) = some [{ lo := 0, n := 1, cls := Cls.rw : Fld }, { lo := 1, n := 7, cls := Cls.rwd : Fld }, { lo := 8, n := 1, cls := Cls.rw : Fld }, { lo := 9, n := 2, cls := Cls.rol : Fld }]) ∧
    (¬((1 : Fin 5) = (0 : Fin 5) ∧ false = true ∧ 2097152 ≤ BitVec.toNat (16688 : BitVec 24))) ∧
    (parityMask (↑(1 : Fin 5)) false (BitVec.toNat (16688 : BitVec 24)) [{ lo := 0, n := 1, cls := Cls.rw : Fld }, { lo := 1, n := 7, cls := Cls.rwd : Fld }, { lo := 8, n := 1, cls := Cls.rw : Fld }, { lo := 9, n := 2, cls := Cls.rol : Fld }] ≠ (0 : Word)) :=
  ⟨inv_s0, by decide +kernel⟩
theorem test_RegisterWrites_6 :
    (s0.Inv) ∧
    (regFields (↑(0 : Fin 5)) false (BitVec.toNat (8208 : BitVec 24)) = some [{ lo := 0, n := 2, cls := Cls.rw : Fld }, { lo := 2, n := 1, cls := Cls.rw : Fld }, { lo := 3, n := 1, cls := Cls.rol : Fld }]) ∧
    ((0 : Fin 5) = (0 : Fin 5) ∧ false = true ∧ 2097152 ≤ BitVec.toNat (8208 : BitVec 24) ∨ parityMask (↑(0 : Fin 5)) false (BitVec.toNat (8208 : BitVec 24)) [{ lo := 0, n := 2, cls := Cls.rw : Fld }, { lo := 2, n := 1, cls := Cls.rw : Fld }, { lo := 3, n := 1, cls := Cls.rol : Fld }] = (0 : Word)) :=
  ⟨inv_s0, by decide +kernel⟩
theorem test_RegisterWrites_7 :
    (s0.Inv) ∧
    (regFields (↑(0 : Fin 5)) false (BitVec.toNat (7 : BitVec 24)) = none) :=
  ⟨inv_s0, by decide +kernel⟩
def fW : Vc2 := .bulkRead 0 0 5 0 0
def sVcW : State := {s0 with vc2 := [fW, fW], egr := {s0.egr with completions := List.replicate 256 ⟨0,0,[1],none⟩}}
def sVcR : State := {s0 with vc2 := [fW], host := {s0.host with state := .recovery}}
def sVcR2 : State := {sVcW with host := {s0.host with state := .recovery}}
def i9 : List (BitVec 256) := [ecfItem 5 3 0]
theorem test_BulkAndDirectFrames_4 :
    (sVcW.vc2 = [] ∧ 256 ≤ sVcW.egr.completions.length ∨ ∃ f l, sVcW.vc2 = f :: l ∧ sVcW.vc2Waits f = true) ∧
    (sVcW.vc2 = [] ∧
        ((sVcW.chan (0 : Ch)).power = ChPower.on ∨ (sVcW.chan (0 : Ch)).power = ChPower.idle) ∧
          4096 < (sVcW.chan (0 : Ch)).direct.length + i9.length ∨
      ∃ f l, sVcW.vc2 = f :: l ∧ sVcW.vc2Waits f = true) ∧
    (sVcR.vc2 =
      [Vc2.bulkRead (0 : Hf) (0 : Ch) (BitVec.ofNat 16 5) (BitVec.ofNat 4 0)
          (BitVec.ofNat 19 0)]) ∧
    (sVcR.host.state = LinkState.recovery) ∧
    (sVcR.vc2Waits
        (Vc2.bulkRead (0 : Hf) (0 : Ch) (BitVec.ofNat 16 5) (BitVec.ofNat 4 0)
          (BitVec.ofNat 19 0)) =
      false) ∧
    (sVcR2.vc2 =
      [Vc2.bulkRead (0 : Hf) (0 : Ch) (BitVec.ofNat 16 5) (BitVec.ofNat 4 0)
          (BitVec.ofNat 19 0),
        Vc2.bulkRead (0 : Hf) (0 : Ch) (BitVec.ofNat 16 5) (BitVec.ofNat 4 0)
          (BitVec.ofNat 19 0)]) ∧
    (sVcR2.host.state = LinkState.recovery) ∧
    (sVcR2.vc2Waits
        (Vc2.bulkRead (0 : Hf) (0 : Ch) (BitVec.ofNat 16 5) (BitVec.ofNat 4 0)
          (BitVec.ofNat 19 0)) =
      true) :=
  ⟨by first | exact Or.inl (by decide +kernel) | exact Or.inr ⟨_, _, rfl, by decide +kernel⟩, by first | exact Or.inl (by decide +kernel) | exact Or.inr ⟨_, _, rfl, by decide +kernel⟩, by decide +kernel⟩
theorem test_RegisterWrites_8 :
    (sVcW.vc2 = [] ∧ 256 ≤ sVcW.egr.completions.length ∨ ∃ f l, sVcW.vc2 = f :: l ∧ sVcW.vc2Waits f = true) :=
  by first | exact Or.inl (by decide +kernel) | exact Or.inr ⟨_, _, rfl, by decide +kernel⟩
def rv : RegRival := ⟨false, 0x7004, some 0x77⟩
def rv2 : RegRival := ⟨true, 0x7004, some 0x77⟩
def z158 := ({ra with rivals := [rv]})
def z159 := ({ra with rivals := [rv2]})
def z160 := ({s0 with ch := s0.ch.set 0 {s0.chan 0 with regRanks := [1,2,0]}})
theorem test_RegisterWrites_9 :
    (s0.vc2 = []) ∧
    (z158.rivals = [rv]) ∧
    (s0.egr.completions.length < 256) ∧
    (28676 < 65536) ∧
    (28676 % 4 = 0) ∧
    (blockExists ↑(1 : Fin 5) 28676 = true) ∧
    (28676 ≠ indBase ↑(1 : Fin 5)) ∧
    (28676 ≠ indBase ↑(1 : Fin 5) + 4) ∧
    ((rotate (s0.portRanks ↑(1 : Fin 5)) fun i =>
        i == 0 || i == if rv.boot = true then 2 else 1) =
      some (0, [1, 2, 0])) ∧
    (z160.vc2 = []) ∧
    (z159.rivals = [rv2]) ∧
    (z160.egr.completions.length < 256) ∧
    ((rotate (z160.portRanks ↑(1 : Fin 5)) fun i =>
        i == 0 || i == if rv2.boot = true then 2 else 1) =
      some (if rv2.boot = true then 2 else 1, [1, 0, 2])) :=
  by decide +kernel
end Registers

/-! Indirect accesses and channel faults -/
namespace Indirect
theorem test_IndirectAccess_1 :
    (s0.Inv) ∧
    (Served s0 ra (↑(1 : Fin 5)) (indBase ↑(1 : Fin 5))) ∧
    (Served s0 ra (↑(1 : Fin 5)) (indBase ↑(1 : Fin 5) + 8)) ∧
    (ra.hw = (0 : Word)) ∧
    ((s0.pair ↑(1 : Fin 5) ↑ra.hf).flight = none) :=
  ⟨inv_s0, served_of (by decide +kernel), served_of (by decide +kernel), by decide +kernel⟩
theorem test_IndirectAccess_2 :
    (s0.Inv) ∧
    (Served s0 ra (↑(1 : Fin 5)) (indBase ↑(1 : Fin 5) + 4)) ∧
    ((s0.pair ↑(1 : Fin 5) ↑ra.hf).flight = none) ∧
    (∀ (b : ℕ),
      indOwner (↑(1 : Fin 5)) (BitVec.toNat (s0.pair ↑(1 : Fin 5) ↑ra.hf).addr) = some b →
        s0.mayReg ra.hf (↑(1 : Fin 5)) b true = true) :=
  ⟨inv_s0, served_of (by decide +kernel), by decide +kernel⟩
def fl (rg : Nat) (ad : Nat) (w : Bool) (s : State := s0) : State := (s.setPair { s.pair rg 0 with flight := some ⟨ad, w, 0x55, ra, 950⟩, addr := BitVec.ofNat 32 ad, ctrl := 1 })
def cmpl (rg : Nat) (s : State) : State := {s with egr := {s.egr with completions := [⟨0, rg, [], none⟩]}}
def i1 := cmpl 1 (fl 1 0x100014 false)
def i2 := fl 1 0x100014 true
def f0' (ad : Nat) (w : Bool) : IndFlight := ⟨ad, w, 0x55, ra, 950⟩
theorem inv_i1 : i1.Inv := inv_of (by decide +kernel)
theorem test_IndirectAccess_3 :
    (i1.Inv) ∧
    (i1.vc2 = []) ∧
    ((i1.pair ↑(1 : Fin 5) ↑ra.hf).flight.isSome = true) ∧
    ((i1.pair ↑(1 : Fin 5) ↑(0 : Fin 9)).flight = some (f0' 1048596 false)) ∧
    ((indOwner (↑(1 : Fin 5)) (f0' 1048596 false).addr).isSome = true) ∧
    ((f0' 1048596 false).write = false) ∧
    (i1.measured (↑(1 : Fin 5)) true (f0' 1048596 false).addr = false) :=
  ⟨inv_i1, by decide +kernel⟩
theorem inv_i2 : i2.Inv := inv_of (by decide +kernel)
theorem test_IndirectAccess_4 :
    (i2.Inv) ∧
    (i2.vc2 = []) ∧
    ((i2.pair ↑(1 : Fin 5) ↑(0 : Fin 9)).flight = some (f0' 1048596 true)) ∧
    ((indOwner (↑(1 : Fin 5)) (f0' 1048596 true).addr).isSome = true) ∧
    ((f0' 1048596 true).write = true) ∧
    (regFields (↑(1 : Fin 5)) true (f0' 1048596 true).addr = some [{ lo := 0, n := 1, cls := Cls.rw : Fld }, { lo := 1, n := 10, cls := Cls.rwd : Fld }, { lo := 11, n := 1, cls := Cls.ro : Fld }, { lo := 16, n := 2, cls := Cls.rol : Fld }]) ∧
    ((f0' 1048596 true).acc.hw = (0 : Word)) ∧
    ((1 : Fin 5) = (0 : Fin 5) → i2.linkSafe = false) :=
  ⟨inv_i2, by decide +kernel⟩
def ct (s : State) : State := ch0 (fun x => {x with ctxs := [k0], charges := [charge0]}) {s with rels := [rel0]}
def c1 := ct s0
theorem test_ChannelFaults_1 :
    (s0.Inv) ∧
    ((s0.chan (0 : Ch)).power ≠ ChPower.off) ∧
    ((s0.chan (0 : Ch)).faulted = false) ∧
    ((s0.chan (0 : Ch)).power = ChPower.on ∨ (s0.chan (0 : Ch)).power = ChPower.idle) :=
  ⟨inv_s0, by decide +kernel⟩
def c2 := regs c1 [(chR 0 0xD000, 6)]
theorem inv_c2 : c2.Inv := inv_of (by decide +kernel)
theorem test_ChannelFaults_2 :
    (c2.Inv) ∧
    ((c2.chan (0 : Ch)).power ≠ ChPower.off) ∧
    ((c2.chan (0 : Ch)).faulted = false) ∧
    (c2.field (chR (0 : Ch) 53248) 1 2 = 3) :=
  ⟨inv_c2, by decide +kernel⟩
def c3 := ch0 (fun x => {x with causes := 5, ready := false}) c1
theorem inv_c3 : c3.Inv := inv_of (by decide +kernel)
theorem test_ChannelFaults_3 :
    (c3.Inv) ∧
    ((c3.chan (0 : Ch)).power ≠ ChPower.off) ∧
    ((c3.chan (0 : Ch)).faulted = true) :=
  ⟨inv_c3, by decide +kernel⟩
def c4 := ch0 (fun x => {x with causes := 1, ready := false}) s0
theorem inv_c4 : c4.Inv := inv_of (by decide +kernel)
theorem test_ChannelFaults_4 :
    (c4.Inv) ∧
    ((c4.chan (1 : Ch)).power = ChPower.off) :=
  ⟨inv_c4, by decide +kernel⟩
end Indirect

/-! Indirect accesses -/
namespace Indirect2
def noI := regs s0 [(modR (hfatOff 0 0 0x44), 0xFFFFFFFF - 2^18), (modR 0x7180, 0)]
def noI2 : State := noI.setPair { noI.pair 1 0 with addr := 0x200000 }
theorem inv_noI2 : noI2.Inv := inv_of (by decide +kernel)
theorem test_IndirectAccess_5 :
    (noI2.Inv) ∧
    (Served noI2 ra (↑(1 : Fin 5)) (indBase ↑(1 : Fin 5) + 4)) ∧
    ((noI2.pair ↑(1 : Fin 5) ↑ra.hf).flight = none) ∧
    (¬∀ (b : ℕ),
        indOwner (↑(1 : Fin 5)) (BitVec.toNat (noI2.pair ↑(1 : Fin 5) ↑ra.hf).addr) = some b →
          noI2.mayReg ra.hf (↑(1 : Fin 5)) b true = true) :=
  ⟨inv_noI2, served_of (by decide +kernel), by decide +kernel⟩
end Indirect2

/-! Scratchpad, arbiter and ebb -/
namespace Scratchpad
def sOwn := regs (ch0 (fun x => {x with spad := [(5, mkSpad 0x1122334455667788), (6, ⟨7, 9⟩)]}) s0) [(spadR 0 0, 10), (chR 0 0x9000, 2), (spadR 0 3, 15)]
def al := regs sOwn [(chR 0 0x9000, 0)]
def sp (o : Nat) : BitVec 32 := BitVec.ofNat 32 (0x01400000 + o)
theorem inv_sOwn : sOwn.Inv := inv_of (by decide +kernel)
theorem test_ScratchpadAndArbiter_1 :
    (sOwn.Inv) ∧
    (regionOf (sp 40) = chRegion (0 : Ch)) ∧
    (areaOf (sp 40) = Area.spad 40) ∧
    (sOwn.vc2 = []) ∧
    (sOwn.egr.completions.length < 256) ∧
    (sOwn.host.isUp = true) ∧
    (sOwn.maySpad ra.hf (0 : Ch) true = true) ∧
    ((sOwn.chan (0 : Ch)).power = ChPower.on ∨ (sOwn.chan (0 : Ch)).power = ChPower.idle) ∧
    (if sOwn.bit (chR (0 : Ch) 36864) 1 = true then
      ra.be = (15 : BitVec 4) ∧ 40 + 3 < 1048576
    else 40 % 4 = 0 ∧ ra.be ≠ (0 : BitVec 4)) ∧
    (∀ p ∈ spadWords 40,
      sOwn.spadOwner (0 : Ch) p.1 = 2 ∨ true = false ∧ sOwn.bit (spadR (0 : Ch) p.1) 4 = true) ∧
    (∀ i < 4, (sOwn.chan (0 : Ch)).spadClean (40 + i)) ∧
    (true = true) ∧
    (sOwn.maySpad ra.hf (0 : Ch) false = true) ∧
    (∀ p ∈ spadWords 40,
      sOwn.spadOwner (0 : Ch) p.1 = 2 ∨ false = false ∧ sOwn.bit (spadR (0 : Ch) p.1) 4 = true) ∧
    (false = false) :=
  ⟨inv_sOwn, by unfold Chan.spadClean; decide +kernel⟩
def z162 := ({ra with be := 5})
theorem inv_al : al.Inv := inv_of (by decide +kernel)
theorem test_ScratchpadAndArbiter_2 :
    (al.Inv) ∧
    (regionOf (sp 41) = chRegion (0 : Ch)) ∧
    (areaOf (sp 41) = Area.spad 41) ∧
    (al.vc2 = []) ∧
    (al.egr.completions.length < 256) ∧
    (al.host.isUp = true) ∧
    (al.maySpad z162.hf (0 : Ch) false = true) ∧
    ((al.chan (0 : Ch)).power = ChPower.on ∨ (al.chan (0 : Ch)).power = ChPower.idle) ∧
    ((¬if al.bit (chR (0 : Ch) 36864) 1 = true then
          z162.be = (15 : BitVec 4) ∧ 41 + 3 < 1048576
        else 41 % 4 = 0 ∧ z162.be ≠ (0 : BitVec 4)) ∨
      ¬∀ p ∈ spadWords 41,
          al.spadOwner (0 : Ch) p.1 = 2 ∨ false = false ∧ al.bit (spadR (0 : Ch) p.1) 4 = true) :=
  ⟨inv_al, by decide +kernel⟩
theorem test_ScratchpadAndArbiter_3 :
    (sOwn.Inv) ∧
    (Served sOwn ra (chRegion (0 : Ch)) (36880 + 4 * ↑(3 : Fin 16))) ∧
    (true = true) ∧
    (false = false) :=
  ⟨inv_sOwn, served_of (by decide +kernel), by decide +kernel⟩
theorem test_ScratchpadAndArbiter_4 :
    (sOwn.Inv) ∧
    (¬(fld (sOwn.reg (spadR (0 : Ch) ↑(3 : Fin 16))) 0 2 ≠
          fld (sOwn.reg (spadR (0 : Ch) ↑(3 : Fin 16))) 2 2 ∧
        (∀ (m : March), (sOwn.chan (0 : Ch)).march = some m → m.bank ≠ ↑(3 : Fin 16)) ∧
          ((sOwn.chan (0 : Ch)).power = ChPower.on ∨ (sOwn.chan (0 : Ch)).power = ChPower.idle))) :=
  ⟨inv_sOwn, by decide +kernel⟩
def ho := regs s0 [(spadR 0 3, 1)]
theorem inv_ho : ho.Inv := inv_of (by decide +kernel)
theorem test_ScratchpadAndArbiter_5 :
    (ho.Inv) ∧
    (fld (ho.reg (spadR (0 : Ch) ↑(3 : Fin 16))) 0 2 ≠
        fld (ho.reg (spadR (0 : Ch) ↑(3 : Fin 16))) 2 2 ∧
      (∀ (m : March), (ho.chan (0 : Ch)).march = some m → m.bank ≠ ↑(3 : Fin 16)) ∧
        ((ho.chan (0 : Ch)).power = ChPower.on ∨ (ho.chan (0 : Ch)).power = ChPower.idle)) :=
  ⟨inv_ho, by decide +kernel⟩
theorem test_ScratchpadAndArbiter_6 :
    (sOwn.Inv) ∧
    (Served sOwn ra (chRegion (0 : Ch)) 36944) :=
  ⟨inv_sOwn, served_of (by decide +kernel)⟩
def mm (d : Bool) : March := ⟨0, d, 0, 900, 0⟩
def ma := ch0 (fun x => {x with march := some (mm true)}) sOwn
theorem inv_ma : ma.Inv := inv_of (by decide +kernel)
theorem test_ScratchpadAndArbiter_7 :
    (ma.Inv) ∧
    ((ma.chan (0 : Ch)).march = some (mm true)) ∧
    ((mm true).bank < 16) :=
  ⟨inv_ma, by decide +kernel⟩
def ab (v : Nat) : State := regs s0 [(chR 0 0xD000, v)]
def ab1 := ab 0x400
def ab2 := ab 0x401
theorem inv_ab1 : ab1.Inv := inv_of (by decide +kernel)
theorem inv_ab2 : ab2.Inv := inv_of (by decide +kernel)
theorem test_ScratchpadAndArbiter_8 :
    (ab1.Inv) ∧
    (ab2.Inv) ∧
    (ab1.bit (chR (0 : Ch) 53248) 0 = false) ∧
    ((ab1.chan (0 : Ch)).power ≠ ChPower.off) ∧
    ((rotate (ab1.chan (0 : Ch)).arb.ranks fun i => BitVec.getLsbD (5 : BitVec 5) i) =
      some (0, [1, 2, 3, 4, 0])) ∧
    (ab2.bit (chR (0 : Ch) 53248) 0 = true ∨
      (ab2.chan (0 : Ch)).power = ChPower.off ∨
        (rotate (ab2.chan (0 : Ch)).arb.ranks fun i => BitVec.getLsbD (5 : BitVec 5) i) = none) :=
  ⟨inv_ab1, inv_ab2, by decide +kernel⟩
theorem test_HoldUpAndEbb_1 :
    (s0.Inv) :=
  inv_s0
def pw (f : Supply → Supply) (s : State := s0) : State := {s with pwr := f s.pwr}
def rd := pw (fun p => {p with ride := some 900})
theorem inv_rd : rd.Inv := inv_of (by decide +kernel)
theorem test_HoldUpAndEbb_2 :
    (rd.Inv) ∧
    (rd.pwr.on = true) ∧
    (rd.pwr.ride = some 900) ∧
    (rd.pwr.ebb = none) :=
  ⟨inv_rd, by decide +kernel⟩
def eb0 := pw (fun p => {p with ebb := some 950, ebbStep := 0}) sOwn
def eb1 := pw (fun p => {p with ebb := some 950, ebbStep := 1}) sOut
def eb2 := pw (fun p => {p with ebb := some 950, ebbStep := 2})
theorem inv_eb0 : eb0.Inv := inv_of (by decide +kernel)
theorem test_HoldUpAndEbb_3 :
    (eb0.Inv) ∧
    (eb0.pwr.on = true) ∧
    (eb0.pwr.ebb = some 950) ∧
    (eb0.pwr.ebbStep = 0) :=
  ⟨inv_eb0, by decide +kernel⟩
theorem inv_eb1 : eb1.Inv := inv_of (by decide +kernel)
theorem test_HoldUpAndEbb_4 :
    (eb1.Inv) ∧
    (eb1.pwr.on = true) ∧
    (eb1.pwr.ebb = some 950) ∧
    (eb1.pwr.ebbStep = 1) :=
  ⟨inv_eb1, by decide +kernel⟩
theorem inv_eb2 : eb2.Inv := inv_of (by decide +kernel)
theorem test_HoldUpAndEbb_5 :
    (eb2.Inv) ∧
    (eb2.pwr.on = true) ∧
    (eb2.pwr.ebb = some 950) ∧
    (eb2.pwr.ebbStep = 2) :=
  ⟨inv_eb2, by decide +kernel⟩
def off := pw (fun p => {p with on := false})
def cf := regs (ch0 (fun x => {x with spad := [(5, mkSpad 0x1122334455667788)]}) s0) [(spadR 0 0, 16), (spadR 0 3, 0)]
def q0 : SpadReq := ⟨1, 0, 5, true, 255, 0x99⟩
def q1 : SpadReq := ⟨0, 0, 6, false, 255, 0⟩
def q2 : SpadReq := ⟨4, 0, 7, false, 255, 0⟩
def q3 : SpadReq := ⟨1, 3, 9, true, 0xF0, 0x1111111122222222⟩
def q4 : SpadReq := ⟨1, 3, 9, true, 255, 0x3333333344444444⟩
theorem inv_cf : cf.Inv := inv_of (by decide +kernel)
theorem test_ScratchpadAndArbiter_9 :
    (cf.Inv) ∧
    (regionOf (sp 40) = chRegion (0 : Ch)) ∧
    (areaOf (sp 40) = Area.spad 40) ∧
    (cf.vc2 = []) ∧
    (cf.egr.completions.length < 256) ∧
    (cf.host.isUp = true) ∧
    (cf.maySpad ra.hf (0 : Ch) false = true) ∧
    ((cf.chan (0 : Ch)).power = ChPower.on ∨ (cf.chan (0 : Ch)).power = ChPower.idle) ∧
    (cf.spadForm (0 : Ch) ra.be 40 = true) ∧
    (spadWords 40 = [(0, 5)]) ∧
    (cf.bit (spadR (0 : Ch) 0) 4 = true) ∧
    (∀ i < 4, (cf.chan (0 : Ch)).spadClean (40 + i)) ∧
    ((cf.chan (0 : Ch)).march = none) ∧
    (q0.wf = true) ∧
    (cf.spadOwner (0 : Ch) q0.bank.val = if q0.master.val ≤ 1 then 0 else q0.master.val - 1) ∧
    (q0.bank.val = 0) ∧
    (q0.word.val = 5) ∧
    (q0.write = true) ∧
    (q0.be = (255 : BitVec 8)) :=
  ⟨inv_cf, by unfold Chan.spadClean; decide +kernel⟩
theorem test_ScratchpadAndArbiter_10 :
    (cf.Inv) ∧
    (regionOf (sp 40) = chRegion (0 : Ch)) ∧
    (areaOf (sp 40) = Area.spad 40) ∧
    (cf.vc2 = []) ∧
    (cf.egr.completions.length < 256) ∧
    (cf.host.isUp = true) ∧
    (cf.maySpad ra.hf (0 : Ch) false = true) ∧
    ((cf.chan (0 : Ch)).power = ChPower.on ∨ (cf.chan (0 : Ch)).power = ChPower.idle) ∧
    (cf.spadForm (0 : Ch) ra.be 40 = true) ∧
    (spadWords 40 = [(0, 5)]) ∧
    (cf.bit (spadR (0 : Ch) 0) 4 = true) ∧
    (∀ i < 4, (cf.chan (0 : Ch)).spadClean (40 + i)) ∧
    ((cf.chan (0 : Ch)).march = none) ∧
    (roundWf [q1, q2] = true) ∧
    (q1.write = false) ∧
    (q2.write = false) ∧
    (q1.bank.val = 0) ∧
    (q2.bank.val = 0) ∧
    ((cf.chan (0 : Ch)).spadWord (spadKey 0 q1.word.val) = mkSpad (0 : BitVec 64)) ∧
    ((cf.chan (0 : Ch)).spadWord (spadKey 0 q2.word.val) = mkSpad (0 : BitVec 64)) ∧
    ((cf.chan (0 : Ch)).spadRank 0 = [0, 1, 2, 3, 4]) ∧
    (List.filter (fun m => m == 3 || m == q1.master.val || m == q2.master.val) (cf.spadOrder (0 : Ch) 0) =
      [0, 3, 4]) :=
  ⟨inv_cf, by unfold Chan.spadClean; decide +kernel⟩
theorem test_ScratchpadAndArbiter_11 :
    (cf.Inv) ∧
    (regionOf (sp 40) = chRegion (0 : Ch)) ∧
    (areaOf (sp 40) = Area.spad 40) ∧
    (cf.vc2 = []) ∧
    (cf.egr.completions.length < 256) ∧
    (cf.host.isUp = true) ∧
    (cf.maySpad ra.hf (0 : Ch) false = true) ∧
    ((cf.chan (0 : Ch)).power = ChPower.on ∨ (cf.chan (0 : Ch)).power = ChPower.idle) ∧
    (cf.spadForm (0 : Ch) ra.be 40 = true) ∧
    (spadWords 40 = [(0, 5)]) ∧
    (cf.bit (spadR (0 : Ch) 0) 4 = true) ∧
    (∀ i < 4, (cf.chan (0 : Ch)).spadClean (40 + i)) ∧
    ((cf.chan (0 : Ch)).march = none) ∧
    (q3.wf = true) ∧
    (q4.wf = true) ∧
    (cf.spadOwner (0 : Ch) q3.bank.val = if q3.master.val ≤ 1 then 0 else q3.master.val - 1) ∧
    (q3.master = (1 : Fin 5)) ∧
    (q4.master = (1 : Fin 5)) ∧
    (q3.bank.val ≠ 0) ∧
    (q4.bank = q3.bank) ∧
    (q4.word = q3.word) ∧
    (q3.write = true) ∧
    (q4.write = true) ∧
    (q3.be ≠ (255 : BitVec 8)) ∧
    (q4.be = (255 : BitVec 8)) ∧
    ((cf.chan (0 : Ch)).spadWord (spadKey q3.bank.val q3.word.val) =
      mkSpad ((cf.chan (0 : Ch)).spadWord (spadKey q3.bank.val q3.word.val)).data) ∧
    (mergeBytes q3.be q3.data ((cf.chan (0 : Ch)).spadWord (spadKey q3.bank.val q3.word.val)).data ≠ q4.data) :=
  ⟨inv_cf, by unfold Chan.spadClean; decide +kernel⟩
end Scratchpad

/-! Power and telemetry -/
namespace Power
def pw (f : Supply → Supply) (s : State := s0) : State := {s with pwr := f s.pwr}
theorem test_PowerAndTelemetry_1 :
    (s0.Inv) ∧
    (s0.pwr.on = true) ∧
    (1 < 5) ∧
    (s0.pwr.ebb = none) :=
  ⟨inv_s0, by decide +kernel⟩
theorem test_PowerAndTelemetry_2 :
    (s0.Inv) ∧
    (s0.pwr.on = true) ∧
    (railChannel 5 = some (0 : Ch)) ∧
    ((s0.chan (0 : Ch)).power ≠ ChPower.off) ∧
    ((s0.chan (0 : Ch)).faulted = false) :=
  ⟨inv_s0, by decide +kernel⟩
theorem test_PowerAndTelemetry_3 :
    (s0.Inv) ∧
    (s0.pwr.on = true) :=
  ⟨inv_s0, by decide +kernel⟩
theorem test_PowerAndTelemetry_4 :
    (s0.Inv) ∧
    (s0.pwr.on = true) :=
  ⟨inv_s0, by decide +kernel⟩
def g1 := ch0 (fun x => {x with winSlot := 10, winBlk := 100, winFlow := 5, winExt := 1}) (regs s0 [(modR 0x9000, 1)])
theorem inv_g1 : g1.Inv := inv_of (by decide +kernel)
theorem test_PowerAndTelemetry_5 :
    (g1.Inv) :=
  inv_g1
def rq := pw (fun p => {p with railReq := p.railReq.set 0 (some true)})
theorem inv_rq : rq.Inv := inv_of (by decide +kernel)
theorem test_PowerAndTelemetry_6 :
    (rq.Inv) ∧
    ((rq.chan (0 : Ch)).power = ChPower.on ∨ (rq.chan (0 : Ch)).power = ChPower.idle) ∧
    (rq.pwr.railReq.get (0 : Ch) = some true) ∧
    (rq.pwr.on = true) ∧
    (rq.pwr.ebb = none) ∧
    (68000 ≤ 69000) :=
  ⟨inv_rq, by decide +kernel⟩
theorem test_PowerAndTelemetry_7 :
    (s0.Inv) ∧
    (pmbusPages (BitVec.toNat (0 : Byte)) = some ([0, 1, 2, 3, 4, 5, 6], true)) ∧
    (s0.pwr.page ∈ [0, 1, 2, 3, 4, 5, 6]) ∧
    ((0 : Byte) ≠ (3 : Byte)) :=
  ⟨inv_s0, by decide +kernel⟩
def pg := pw (fun p => {p with page := 2, ride := some 4, pages := List.replicate 7 ⟨true, 3, 0x30, 5, 7⟩, overTemp := Quad.all false, railFault := p.railFault.set 1 true})
theorem inv_pg : pg.Inv := inv_of (by decide +kernel)
theorem test_PowerAndTelemetry_8 :
    (pg.Inv) ∧
    (pg.pwr.page ≤ 6) :=
  ⟨inv_pg, by decide +kernel⟩
end Power

/-! Reset -/
namespace Reset
def bt (f : Boot → Boot) (s : State := s0) : State := {s with boot := f s.boot}
def pw (f : Supply → Supply) (s : State := s0) : State := {s with pwr := f s.pwr}
theorem test_ResetAndStartUp_1 :
    (s0.Inv) ∧
    (Served s0 ra 0 32780) ∧
    (s0.pwr.on = true) ∧
    (s0.boot.inReset = false) :=
  ⟨inv_s0, served_of (by decide +kernel), by decide +kernel⟩
def ir := bt (fun b => {b with inReset := true})
theorem inv_ir : ir.Inv := inv_of (by decide +kernel)
theorem test_ResetAndStartUp_2 :
    (ir.Inv) ∧
    (ir.pwr.on = true) ∧
    (ir.boot.inReset = true) :=
  ⟨inv_ir, by decide +kernel⟩
def off := pw (fun p => {p with on := false})
theorem inv_off : off.Inv := inv_of (by decide +kernel)
theorem test_ResetAndStartUp_3 :
    (off.Inv) ∧
    (off.pwr.on = false) ∧
    (38000 ≤ 48000) ∧
    (∀ (c : Ch), (off.flash c).prog = []) :=
  ⟨inv_off, by decide +kernel⟩
def st1 := bt (fun b => {b with stage := 1})
def st2 := bt (fun b => {b with stage := 2})
def st3 := bt (fun b => {b with stage := 3})
theorem inv_st1 : st1.Inv := inv_of (by decide +kernel)
theorem test_ResetAndStartUp_4 :
    (st1.Inv) ∧
    (st1.boot.stage = 1) ∧
    (st1.pwr.pages.length = 7) :=
  ⟨inv_st1, by decide +kernel⟩
theorem inv_st2 : st2.Inv := inv_of (by decide +kernel)
theorem test_ResetAndStartUp_5 :
    (st2.Inv) ∧
    (st2.boot.stage = 2) ∧
    (st2.bootFirst = none) :=
  ⟨inv_st2, by decide +kernel⟩
theorem inv_st3 : st3.Inv := inv_of (by decide +kernel)
theorem test_ResetAndStartUp_6 :
    (st3.Inv) ∧
    (st3.boot.stage = 3) ∧
    (cfgItems (st3.boot.img st3.boot.slot) = []) :=
  ⟨inv_st3, by decide +kernel⟩
end Reset

/-! Start-up and the nonvolatile store -/
namespace StartUp
def bt (f : Boot → Boot) (s : State := s0) : State := {s with boot := f s.boot}
def imgH (its : List (Nat × Nat)) : List Byte :=
  padTo 256 (([0x4A,0x42,0x4F,0x54] ++ [0,1,0,2] ++ nb 4 7 ++ nb 4 0 ++ nb 4 (8 * its.length)).map (BitVec.ofNat 8)) ++ (its.flatMap (fun p => nb 4 p.1 ++ nb 4 p.2)).map (BitVec.ofNat 8)
def st3 (l : List (Nat × Nat)) : State := bt (fun b => {b with stage := 3, slot := false, imgA := imgH l})
def b1 := st3 [(0x8010, 0x5F01)]
def b2 := st3 [(0xA010, 5), (0x8010, 3)]
theorem inv_b1 : b1.Inv := inv_of (by decide +kernel)
theorem test_ResetAndStartUp_7 :
    (b1.Inv) ∧
    (b1.boot.stage = 3) ∧
    (cfgItems (b1.boot.img b1.boot.slot) = [(32784, 24321)]) ∧
    (bootTarget 32784 = some (0, false, 32784)) ∧
    (modFields 32784 = some [{ lo := 0, n := 1, cls := Cls.rw : Fld }, { lo := 8, n := 7, cls := Cls.rw : Fld }]) ∧
    (writeActs 0 32784 = false) ∧
    (isEventReg 32784 = false) ∧
    (32784 ≠ 20) :=
  ⟨inv_b1, by decide +kernel⟩
theorem inv_b2 : b2.Inv := inv_of (by decide +kernel)
theorem test_ResetAndStartUp_8 :
    (b2.Inv) ∧
    (b2.boot.stage = 3) ∧
    (cfgItems (b2.boot.img b2.boot.slot) = [(40976, 5), (32784, 3)]) ∧
    (bootTarget 40976 = none) :=
  ⟨inv_b2, by decide +kernel⟩
def c2 (f : Boot → Boot) : State := bt (fun b => f {b with stage := 2})
def c21 := c2 (fun b => {b with revoked := 15, imgA := imgH [], imgB := []})
theorem inv_c21 : c21.Inv := inv_of (by decide +kernel)
theorem test_ResetAndStartUp_9 :
    (c21.Inv) ∧
    (c21.boot.stage = 2) ∧
    (c21.bootFirst = some false) ∧
    (c21.bootGood false = false) :=
  ⟨inv_c21, by decide +kernel⟩
def fl (f : Flash → Flash) (s : State := s0) : State := bt (fun b => {b with flash := Quad.all (f flash0)}) s
def n1 := fl (fun f => {f with buf := [1,2,3], openedAt := 400})
theorem test_NonvolatileStore_1 :
    ((n1.flash (0 : Ch)).buf ≠ [] ∧ n1.pwr.ebb = none ∧ n1.pwr.on = true) ∧
    (¬((s0.flash (1 : Ch)).buf ≠ [] ∧ s0.pwr.ebb = none ∧ s0.pwr.on = true)) :=
  by decide +kernel
def jr : JRec := ⟨3, [1,2,3], true⟩
def n2 := fl (fun f => {f with prog := [(jr, 600)]})
theorem inv_n2 : n2.Inv := inv_of (by decide +kernel)
theorem test_NonvolatileStore_2 :
    (n2.Inv) ∧
    ((n2.flash (0 : Ch)).prog = [(jr, 600)]) ∧
    (n2.pwr.on = true) ∧
    ((n2.chan (0 : Ch)).mgr.up = false ∨ { (n2.flash (0 : Ch)) with recs := (n2.flash (0 : Ch)).recs ++ [jr], prog := [] }.pct < min (n2.field (modR 32784) 8 7) 95) :=
  ⟨inv_n2, by decide +kernel⟩
def img0 (its : List (BitVec 256)) (fl : Nat := 0) : List Byte := imageBytes 0 1 0 fl ((its.map (fun i => toBytes 32 i.toNat)).flatten)
def wrec (t k : Nat) : BitVec 256 := keyItem 1 t k (wordImage (mkWord 5 0xFFFF (mkEcf true true false 9)))
def r0 := regs s0 [(modR 0x8008, 0xF0)]
def r1 := fl (fun f => {f with images := [img0 [wrec 5 3]], gen := 1}) r0
theorem inv_r0 : r0.Inv := inv_of (by decide +kernel)
theorem inv_r1 : r1.Inv := inv_of (by decide +kernel)
theorem test_NonvolatileStore_3 :
    (r0.Inv) ∧
    (r1.Inv) ∧
    (r0.bit (modR 32776) (4 + ↑(0 : Ch)) = true) ∧
    ((r0.flash (0 : Ch)).restoreDone = false) ∧
    ((r0.chan (0 : Ch)).power = ChPower.on) ∧
    ((r0.chan (0 : Ch)).mgr.up = true) ∧
    ((r0.chan (0 : Ch)).mgr.restorer = none) ∧
    ((r0.flash (0 : Ch)).newest = none ∨
      ∃ img, (r0.flash (0 : Ch)).newest = some img ∧ bytesAt img 20 1 ≠ ↑(0 : Ch)) ∧
    (r1.bit (modR 32776) (4 + ↑(0 : Ch)) = true) ∧
    ((r1.flash (0 : Ch)).restoreDone = false) ∧
    ((r1.chan (0 : Ch)).power = ChPower.on) ∧
    ((r1.chan (0 : Ch)).mgr.up = true) ∧
    ((r1.chan (0 : Ch)).mgr.restorer = none) ∧
    ((r1.flash (0 : Ch)).newest =
      some
        [BitVec.ofNat 8 74, BitVec.ofNat 8 73, BitVec.ofNat 8 77,
          BitVec.ofNat 8 71, BitVec.ofNat 8 0, BitVec.ofNat 8 0,
          BitVec.ofNat 8 0, BitVec.ofNat 8 0, BitVec.ofNat 8 0,
          BitVec.ofNat 8 0, BitVec.ofNat 8 0, BitVec.ofNat 8 0,
          BitVec.ofNat 8 0, BitVec.ofNat 8 0, BitVec.ofNat 8 0,
          BitVec.ofNat 8 0, BitVec.ofNat 8 0, BitVec.ofNat 8 0,
          BitVec.ofNat 8 0, BitVec.ofNat 8 1, BitVec.ofNat 8 0,
          BitVec.ofNat 8 0, BitVec.ofNat 8 0, BitVec.ofNat 8 0,
          BitVec.ofNat 8 0, BitVec.ofNat 8 0, BitVec.ofNat 8 0,
          BitVec.ofNat 8 0, BitVec.ofNat 8 0, BitVec.ofNat 8 0,
          BitVec.ofNat 8 0, BitVec.ofNat 8 96, BitVec.ofNat 8 1,
          BitVec.ofNat 8 5, BitVec.ofNat 8 0, BitVec.ofNat 8 0,
          BitVec.ofNat 8 3, BitVec.ofNat 8 0, BitVec.ofNat 8 0,
          BitVec.ofNat 8 0, BitVec.ofNat 8 0, BitVec.ofNat 8 0,
          BitVec.ofNat 8 0, BitVec.ofNat 8 0, BitVec.ofNat 8 0,
          BitVec.ofNat 8 0, BitVec.ofNat 8 0, BitVec.ofNat 8 0,
          BitVec.ofNat 8 0, BitVec.ofNat 8 5, BitVec.ofNat 8 0,
          BitVec.ofNat 8 0, BitVec.ofNat 8 0, BitVec.ofNat 8 0,
          BitVec.ofNat 8 0, BitVec.ofNat 8 0, BitVec.ofNat 8 0,
          BitVec.ofNat 8 0, BitVec.ofNat 8 255, BitVec.ofNat 8 255,
          BitVec.ofNat 8 0, BitVec.ofNat 8 0, BitVec.ofNat 8 147,
          BitVec.ofNat 8 0, BitVec.ofNat 8 0, BitVec.ofNat 8 0,
          BitVec.ofNat 8 0, BitVec.ofNat 8 0, BitVec.ofNat 8 0,
          BitVec.ofNat 8 0, BitVec.ofNat 8 0, BitVec.ofNat 8 0,
          BitVec.ofNat 8 0, BitVec.ofNat 8 0, BitVec.ofNat 8 0,
          BitVec.ofNat 8 0, BitVec.ofNat 8 0, BitVec.ofNat 8 0,
          BitVec.ofNat 8 0, BitVec.ofNat 8 0, BitVec.ofNat 8 0,
          BitVec.ofNat 8 0, BitVec.ofNat 8 0, BitVec.ofNat 8 0,
          BitVec.ofNat 8 0, BitVec.ofNat 8 0, BitVec.ofNat 8 0,
          BitVec.ofNat 8 0, BitVec.ofNat 8 231, BitVec.ofNat 8 115,
          BitVec.ofNat 8 170, BitVec.ofNat 8 21, BitVec.ofNat 8 94,
          BitVec.ofNat 8 161, BitVec.ofNat 8 192, BitVec.ofNat 8 222]) ∧
    (bytesAt
        [BitVec.ofNat 8 74, BitVec.ofNat 8 73, BitVec.ofNat 8 77,
          BitVec.ofNat 8 71, BitVec.ofNat 8 0, BitVec.ofNat 8 0,
          BitVec.ofNat 8 0, BitVec.ofNat 8 0, BitVec.ofNat 8 0,
          BitVec.ofNat 8 0, BitVec.ofNat 8 0, BitVec.ofNat 8 0,
          BitVec.ofNat 8 0, BitVec.ofNat 8 0, BitVec.ofNat 8 0,
          BitVec.ofNat 8 0, BitVec.ofNat 8 0, BitVec.ofNat 8 0,
          BitVec.ofNat 8 0, BitVec.ofNat 8 1, BitVec.ofNat 8 0,
          BitVec.ofNat 8 0, BitVec.ofNat 8 0, BitVec.ofNat 8 0,
          BitVec.ofNat 8 0, BitVec.ofNat 8 0, BitVec.ofNat 8 0,
          BitVec.ofNat 8 0, BitVec.ofNat 8 0, BitVec.ofNat 8 0,
          BitVec.ofNat 8 0, BitVec.ofNat 8 96, BitVec.ofNat 8 1,
          BitVec.ofNat 8 5, BitVec.ofNat 8 0, BitVec.ofNat 8 0,
          BitVec.ofNat 8 3, BitVec.ofNat 8 0, BitVec.ofNat 8 0,
          BitVec.ofNat 8 0, BitVec.ofNat 8 0, BitVec.ofNat 8 0,
          BitVec.ofNat 8 0, BitVec.ofNat 8 0, BitVec.ofNat 8 0,
          BitVec.ofNat 8 0, BitVec.ofNat 8 0, BitVec.ofNat 8 0,
          BitVec.ofNat 8 0, BitVec.ofNat 8 5, BitVec.ofNat 8 0,
          BitVec.ofNat 8 0, BitVec.ofNat 8 0, BitVec.ofNat 8 0,
          BitVec.ofNat 8 0, BitVec.ofNat 8 0, BitVec.ofNat 8 0,
          BitVec.ofNat 8 0, BitVec.ofNat 8 255, BitVec.ofNat 8 255,
          BitVec.ofNat 8 0, BitVec.ofNat 8 0, BitVec.ofNat 8 147,
          BitVec.ofNat 8 0, BitVec.ofNat 8 0, BitVec.ofNat 8 0,
          BitVec.ofNat 8 0, BitVec.ofNat 8 0, BitVec.ofNat 8 0,
          BitVec.ofNat 8 0, BitVec.ofNat 8 0, BitVec.ofNat 8 0,
          BitVec.ofNat 8 0, BitVec.ofNat 8 0, BitVec.ofNat 8 0,
          BitVec.ofNat 8 0, BitVec.ofNat 8 0, BitVec.ofNat 8 0,
          BitVec.ofNat 8 0, BitVec.ofNat 8 0, BitVec.ofNat 8 0,
          BitVec.ofNat 8 0, BitVec.ofNat 8 0, BitVec.ofNat 8 0,
          BitVec.ofNat 8 0, BitVec.ofNat 8 0, BitVec.ofNat 8 0,
          BitVec.ofNat 8 0, BitVec.ofNat 8 231, BitVec.ofNat 8 115,
          BitVec.ofNat 8 170, BitVec.ofNat 8 21, BitVec.ofNat 8 94,
          BitVec.ofNat 8 161, BitVec.ofNat 8 192, BitVec.ofNat 8 222]
        20 1 =
      ↑(0 : Ch)) :=
  ⟨inv_r0, inv_r1, by decide +kernel⟩
def u1 := regs s0 [(modR 0x8070, 0), (modR 0x8074, 64), (modR 0x8078, 128)]
def u3 := bt (fun b => {b with updBusy := some ([1], 1, 4)}) u1
theorem inv_u1 : u1.Inv := inv_of (by decide +kernel)
theorem test_NonvolatileStore_4 :
    (u1.Inv) ∧
    (Served u1 ra 0 32880) :=
  ⟨inv_u1, served_of (by decide +kernel)⟩
theorem test_NonvolatileStore_5 :
    (u3.boot.updBusy = some ([(1 : Byte)], 1, 4)) ∧
    (1 = 1) :=
  by decide +kernel
end StartUp

/-! Clauses at the ends of ranges -/
namespace Corners
def w160s : List (Nat × WordCell) := [(2, mkWord 0x1234 (BitVec.allOnes 80) (mkEcf true true true 7)), (3, mkWord 5 (BitVec.allOnes 80) 0)]
def u160 : UnitCell := unit3 ⟨1, 5, 0, true⟩
def eMod1 : Exec := exec0 0x12 ([5, 1] ++ nb 6 0 ++ nb 8 0x88 ++ nb 8 0x88)
def t160 (s : State) : State := mg (fun m => { m with tables := [(5, ⟨1, true, 1, 0xFFFFFFFF, [0]⟩)] }) (regs s [(chR 0 0x1414, 11), (chI 0 0x100000, 43)])
def sMo := ch0 (fun x => {x with ep := {x.ep with st1 := .staged}, arr := ⟨w160s, [(2, u160), (3, u160)], [(1, mkAd 0x88)], []⟩}) (t160 (cmd eMod1 [0]))
def wd : List Nat := nb 10 0x34 ++ nb 10 0xFF
def eIR : Exec := exec0 0x10 ([5, 0] ++ nb 3 9 ++ nb 3 0 ++ nb 8 0x55 ++ wd ++ wd ++ [0,1,0,9,0,0,0,0,1,0,0,0])
def sIR := t160 (cmd eIR)
def eBk (n off len : Nat) : Exec := exec0 0x14 ([5, 0, 0, 0] ++ nb 4 n ++ nb 4 off ++ nb 4 len)
def stg0 (l : List Nat) (s : State) : State := ch0 (fun x => x.stagePutBytes 0 0 (l.map (BitVec.ofNat 8))) s
def sB3 := stg0 ([5,0] ++ nb 3 9 ++ nb 3 1 ++ nb 8 0x55 ++ List.replicate 48 0) (cmd (eBk 1 0 64) [0])
def eU : Exec := exec0 0x72 (nb 4 0 ++ nb 4 64) 1
def u3 := ch0 (fun x => {x with hbm := [(stageUnit 0 0, ⟨5, 0x1234567890ABCDEF⟩)]}) (cmd eU)
theorem inv_sMo : sMo.Inv := inv_of (by decide +kernel)
theorem test_RuleCommands_17 :
    (sMo.Inv) ∧
    (Turn sMo (0 : Ch) (↑(2 : Fin 8)) eMod1 18) ∧
    (ArrayQueue sMo (0 : Ch)) ∧
    (Passes (sMo.turn (0 : Ch)) (0 : Ch) ((sMo.turn (0 : Ch)).ruleModifyChecks (0 : Ch) eMod1)) ∧
    ((sMo.turn (0 : Ch)).keyWay (0 : Ch) eMod1 = some ([1], Track.staged)) ∧
    (List.find? (fun k => [1].any fun i => ((sMo.turn (0 : Ch)).planned (0 : Ch)).live i k)
        (((sMo.turn (0 : Ch)).planned (0 : Ch)).carriers
          ((sMo.turn (0 : Ch)).tableOf (0 : Ch) (eMod1.par 0 1))
          (BitVec.ofNat 64 (eMod1.par 8 8) &&&
            ((sMo.turn (0 : Ch)).tableOf (0 : Ch) (eMod1.par 0 1)).mask)) =
      some 2) ∧
    (([0, 1].any fun i => ((sMo.turn (0 : Ch)).planned (0 : Ch)).live i 2 && ! [1].contains i) =
      true) ∧
    (((sMo.turn (0 : Ch)).planned (0 : Ch)).freeEntry
        ((sMo.turn (0 : Ch)).tableOf (0 : Ch) (eMod1.par 0 1)).width
        ((sMo.turn (0 : Ch)).tableOf (0 : Ch) (eMod1.par 0 1)).blocks
        (((sMo.turn (0 : Ch)).planned (0 : Ch)).ent
            ((sMo.turn (0 : Ch)).tableOf (0 : Ch) (eMod1.par 0 1)).width 2).ranged =
      none) :=
  ⟨inv_sMo, turn_of (by decide +kernel), by unfold ArrayQueue Passes; decide +kernel⟩
theorem inv_sIR : sIR.Inv := inv_of (by decide +kernel)
theorem test_RuleCommands_18 :
    (sIR.Inv) ∧
    (Turn sIR (0 : Ch) (↑(2 : Fin 8)) eIR 16) ∧
    (ArrayQueue sIR (0 : Ch)) ∧
    (Passes (sIR.turn (0 : Ch)) (0 : Ch) ((sIR.turn (0 : Ch)).ruleInsertChecks (0 : Ch) eIR)) ∧
    ((sIR.turn (0 : Ch)).reach (0 : Ch) ((sIR.turn (0 : Ch)).planned (0 : Ch))
        ((sIR.turn (0 : Ch)).tableOf (0 : Ch) (eIR.par 0 1)) (eIR.par 1 1 % 4)
        ((entOf (List.drop 16 eIR.req) (insertWords eIR.plen)).ad &&&
          ((sIR.turn (0 : Ch)).tableOf (0 : Ch) (eIR.par 0 1)).mask) =
      some ([0, 1], Track.no)) ∧
    (List.find? (fun k => [0, 1].any fun i => ((sIR.turn (0 : Ch)).planned (0 : Ch)).live i k)
        (((sIR.turn (0 : Ch)).planned (0 : Ch)).carriers
          ((sIR.turn (0 : Ch)).tableOf (0 : Ch) (eIR.par 0 1))
          ((entOf (List.drop 16 eIR.req) (insertWords eIR.plen)).ad &&&
            ((sIR.turn (0 : Ch)).tableOf (0 : Ch) (eIR.par 0 1)).mask)) =
      none) ∧
    (((sIR.turn (0 : Ch)).planned (0 : Ch)).freeEntry
        ((sIR.turn (0 : Ch)).tableOf (0 : Ch) (eIR.par 0 1)).width
        ((sIR.turn (0 : Ch)).tableOf (0 : Ch) (eIR.par 0 1)).blocks
        (entOf (List.drop 16 eIR.req) (insertWords eIR.plen)).ranged =
      none) :=
  ⟨inv_sIR, turn_of (by decide +kernel), by unfold ArrayQueue Passes; decide +kernel⟩
def z164 := (eBk 1 0 64)
theorem inv_sB3 : sB3.Inv := inv_of (by decide +kernel)
theorem test_RuleCommands_19 :
    (sB3.Inv) ∧
    (Turn sB3 (0 : Ch) (↑(2 : Fin 8)) z164 20) ∧
    (ArrayQueue sB3 (0 : Ch)) ∧
    (z164.phase = 1 ∨ Passes (sB3.turn (0 : Ch)) (0 : Ch) ((sB3.turn (0 : Ch)).bulkInsertChecks (0 : Ch) z164)) ∧
    (((sB3.turn (0 : Ch)).chan (0 : Ch)).stageBytes z164.hf (z164.stOff 8) (z164.stLen 8) =
      Staged.bytes
        [BitVec.ofNat 8 5, BitVec.ofNat 8 0, BitVec.ofNat 8 0,
          BitVec.ofNat 8 0, BitVec.ofNat 8 9, BitVec.ofNat 8 0,
          BitVec.ofNat 8 0, BitVec.ofNat 8 1, BitVec.ofNat 8 0,
          BitVec.ofNat 8 0, BitVec.ofNat 8 0, BitVec.ofNat 8 0,
          BitVec.ofNat 8 0, BitVec.ofNat 8 0, BitVec.ofNat 8 0,
          BitVec.ofNat 8 85, BitVec.ofNat 8 0, BitVec.ofNat 8 0,
          BitVec.ofNat 8 0, BitVec.ofNat 8 0, BitVec.ofNat 8 0,
          BitVec.ofNat 8 0, BitVec.ofNat 8 0, BitVec.ofNat 8 0,
          BitVec.ofNat 8 0, BitVec.ofNat 8 0, BitVec.ofNat 8 0,
          BitVec.ofNat 8 0, BitVec.ofNat 8 0, BitVec.ofNat 8 0,
          BitVec.ofNat 8 0, BitVec.ofNat 8 0, BitVec.ofNat 8 0,
          BitVec.ofNat 8 0, BitVec.ofNat 8 0, BitVec.ofNat 8 0,
          BitVec.ofNat 8 0, BitVec.ofNat 8 0, BitVec.ofNat 8 0,
          BitVec.ofNat 8 0, BitVec.ofNat 8 0, BitVec.ofNat 8 0,
          BitVec.ofNat 8 0, BitVec.ofNat 8 0, BitVec.ofNat 8 0,
          BitVec.ofNat 8 0, BitVec.ofNat 8 0, BitVec.ofNat 8 0,
          BitVec.ofNat 8 0, BitVec.ofNat 8 0, BitVec.ofNat 8 0,
          BitVec.ofNat 8 0, BitVec.ofNat 8 0, BitVec.ofNat 8 0,
          BitVec.ofNat 8 0, BitVec.ofNat 8 0, BitVec.ofNat 8 0,
          BitVec.ofNat 8 0, BitVec.ofNat 8 0, BitVec.ofNat 8 0,
          BitVec.ofNat 8 0, BitVec.ofNat 8 0, BitVec.ofNat 8 0,
          BitVec.ofNat 8 0]) ∧
    (z164.nums.getD 0 0 < z164.par 4 4) ∧
    (entChk
        (List.take (bulkSize ((sB3.turn (0 : Ch)).tableOf (0 : Ch) (z164.par 0 1)).width)
          (List.drop
            (z164.nums.getD 0 0 *
              bulkSize ((sB3.turn (0 : Ch)).tableOf (0 : Ch) (z164.par 0 1)).width)
            [BitVec.ofNat 8 5, BitVec.ofNat 8 0, BitVec.ofNat 8 0,
              BitVec.ofNat 8 0, BitVec.ofNat 8 9, BitVec.ofNat 8 0,
              BitVec.ofNat 8 0, BitVec.ofNat 8 1, BitVec.ofNat 8 0,
              BitVec.ofNat 8 0, BitVec.ofNat 8 0, BitVec.ofNat 8 0,
              BitVec.ofNat 8 0, BitVec.ofNat 8 0, BitVec.ofNat 8 0,
              BitVec.ofNat 8 85, BitVec.ofNat 8 0, BitVec.ofNat 8 0,
              BitVec.ofNat 8 0, BitVec.ofNat 8 0, BitVec.ofNat 8 0,
              BitVec.ofNat 8 0, BitVec.ofNat 8 0, BitVec.ofNat 8 0,
              BitVec.ofNat 8 0, BitVec.ofNat 8 0, BitVec.ofNat 8 0,
              BitVec.ofNat 8 0, BitVec.ofNat 8 0, BitVec.ofNat 8 0,
              BitVec.ofNat 8 0, BitVec.ofNat 8 0, BitVec.ofNat 8 0,
              BitVec.ofNat 8 0, BitVec.ofNat 8 0, BitVec.ofNat 8 0,
              BitVec.ofNat 8 0, BitVec.ofNat 8 0, BitVec.ofNat 8 0,
              BitVec.ofNat 8 0, BitVec.ofNat 8 0, BitVec.ofNat 8 0,
              BitVec.ofNat 8 0, BitVec.ofNat 8 0, BitVec.ofNat 8 0,
              BitVec.ofNat 8 0, BitVec.ofNat 8 0, BitVec.ofNat 8 0,
              BitVec.ofNat 8 0, BitVec.ofNat 8 0, BitVec.ofNat 8 0,
              BitVec.ofNat 8 0, BitVec.ofNat 8 0, BitVec.ofNat 8 0,
              BitVec.ofNat 8 0, BitVec.ofNat 8 0, BitVec.ofNat 8 0,
              BitVec.ofNat 8 0, BitVec.ofNat 8 0, BitVec.ofNat 8 0,
              BitVec.ofNat 8 0, BitVec.ofNat 8 0, BitVec.ofNat 8 0,
              BitVec.ofNat 8 0]))
        (widthWords ((sB3.turn (0 : Ch)).tableOf (0 : Ch) (z164.par 0 1)).width) =
      some (259, 7)) :=
  ⟨inv_sB3, turn_of (by decide +kernel), by unfold ArrayQueue Passes; decide +kernel⟩
theorem inv_u3 : u3.Inv := inv_of (by decide +kernel)
theorem test_ImageCommands_10 :
    (u3.Inv) ∧
    (Turn u3 (0 : Ch) (↑(2 : Fin 8)) eU 114) ∧
    (eU.phase = 1) ∧
    (List.length (u3.chan (0 : Ch)).mgr.execs ≤ 1) ∧
    ((u3.chan (0 : Ch)).mgr.items = []) ∧
    ((u3.chan (0 : Ch)).stageBytes eU.hf (eU.stOff 0) (eU.stLen 0) = Staged.bad 0) :=
  ⟨inv_u3, turn_of (by decide +kernel), by decide +kernel⟩
def eU2 : Exec := exec0 0x72 (nb 4 0 ++ nb 4 64) 2
def u1 := cmd eU
def u2 := cmd eU2
theorem inv_u1 : u1.Inv := inv_of (by decide +kernel)
theorem test_ImageCommands_11 :
    (u1.Inv) ∧
    (Turn u1 (0 : Ch) (↑(2 : Fin 8)) eU 114) ∧
    (eU.phase = 1) ∧
    (List.length (u1.chan (0 : Ch)).mgr.execs ≤ 1) ∧
    ((u1.chan (0 : Ch)).mgr.items = []) ∧
    ((u1.chan (0 : Ch)).stageBytes eU.hf (eU.stOff 0) (eU.stLen 0) =
      Staged.bytes
        [BitVec.ofNat 8 0, BitVec.ofNat 8 0, BitVec.ofNat 8 0,
          BitVec.ofNat 8 0, BitVec.ofNat 8 0, BitVec.ofNat 8 0,
          BitVec.ofNat 8 0, BitVec.ofNat 8 0, BitVec.ofNat 8 0,
          BitVec.ofNat 8 0, BitVec.ofNat 8 0, BitVec.ofNat 8 0,
          BitVec.ofNat 8 0, BitVec.ofNat 8 0, BitVec.ofNat 8 0,
          BitVec.ofNat 8 0, BitVec.ofNat 8 0, BitVec.ofNat 8 0,
          BitVec.ofNat 8 0, BitVec.ofNat 8 0, BitVec.ofNat 8 0,
          BitVec.ofNat 8 0, BitVec.ofNat 8 0, BitVec.ofNat 8 0,
          BitVec.ofNat 8 0, BitVec.ofNat 8 0, BitVec.ofNat 8 0,
          BitVec.ofNat 8 0, BitVec.ofNat 8 0, BitVec.ofNat 8 0,
          BitVec.ofNat 8 0, BitVec.ofNat 8 0, BitVec.ofNat 8 0,
          BitVec.ofNat 8 0, BitVec.ofNat 8 0, BitVec.ofNat 8 0,
          BitVec.ofNat 8 0, BitVec.ofNat 8 0, BitVec.ofNat 8 0,
          BitVec.ofNat 8 0, BitVec.ofNat 8 0, BitVec.ofNat 8 0,
          BitVec.ofNat 8 0, BitVec.ofNat 8 0, BitVec.ofNat 8 0,
          BitVec.ofNat 8 0, BitVec.ofNat 8 0, BitVec.ofNat 8 0,
          BitVec.ofNat 8 0, BitVec.ofNat 8 0, BitVec.ofNat 8 0,
          BitVec.ofNat 8 0, BitVec.ofNat 8 0, BitVec.ofNat 8 0,
          BitVec.ofNat 8 0, BitVec.ofNat 8 0, BitVec.ofNat 8 0,
          BitVec.ofNat 8 0, BitVec.ofNat 8 0, BitVec.ofNat 8 0,
          BitVec.ofNat 8 0, BitVec.ofNat 8 0, BitVec.ofNat 8 0,
          BitVec.ofNat 8 0]) ∧
    (imageGood false u1.boot.revoked
        [BitVec.ofNat 8 0, BitVec.ofNat 8 0, BitVec.ofNat 8 0,
          BitVec.ofNat 8 0, BitVec.ofNat 8 0, BitVec.ofNat 8 0,
          BitVec.ofNat 8 0, BitVec.ofNat 8 0, BitVec.ofNat 8 0,
          BitVec.ofNat 8 0, BitVec.ofNat 8 0, BitVec.ofNat 8 0,
          BitVec.ofNat 8 0, BitVec.ofNat 8 0, BitVec.ofNat 8 0,
          BitVec.ofNat 8 0, BitVec.ofNat 8 0, BitVec.ofNat 8 0,
          BitVec.ofNat 8 0, BitVec.ofNat 8 0, BitVec.ofNat 8 0,
          BitVec.ofNat 8 0, BitVec.ofNat 8 0, BitVec.ofNat 8 0,
          BitVec.ofNat 8 0, BitVec.ofNat 8 0, BitVec.ofNat 8 0,
          BitVec.ofNat 8 0, BitVec.ofNat 8 0, BitVec.ofNat 8 0,
          BitVec.ofNat 8 0, BitVec.ofNat 8 0, BitVec.ofNat 8 0,
          BitVec.ofNat 8 0, BitVec.ofNat 8 0, BitVec.ofNat 8 0,
          BitVec.ofNat 8 0, BitVec.ofNat 8 0, BitVec.ofNat 8 0,
          BitVec.ofNat 8 0, BitVec.ofNat 8 0, BitVec.ofNat 8 0,
          BitVec.ofNat 8 0, BitVec.ofNat 8 0, BitVec.ofNat 8 0,
          BitVec.ofNat 8 0, BitVec.ofNat 8 0, BitVec.ofNat 8 0,
          BitVec.ofNat 8 0, BitVec.ofNat 8 0, BitVec.ofNat 8 0,
          BitVec.ofNat 8 0, BitVec.ofNat 8 0, BitVec.ofNat 8 0,
          BitVec.ofNat 8 0, BitVec.ofNat 8 0, BitVec.ofNat 8 0,
          BitVec.ofNat 8 0, BitVec.ofNat 8 0, BitVec.ofNat 8 0,
          BitVec.ofNat 8 0, BitVec.ofNat 8 0, BitVec.ofNat 8 0,
          BitVec.ofNat 8 0] =
      false) :=
  ⟨inv_u1, turn_of (by decide +kernel), by decide +kernel⟩
theorem inv_u2 : u2.Inv := inv_of (by decide +kernel)
theorem test_ImageCommands_12 :
    (u2.Inv) ∧
    (Turn u2 (0 : Ch) (↑(2 : Fin 8)) eU2 114) ∧
    (eU2.phase = 2) :=
  ⟨inv_u2, turn_of (by decide +kernel), by decide +kernel⟩
def eR : Exec := exec0 0x41 [0,0,0,0] 1
def n1 := cmd eR
theorem inv_n1 : n1.Inv := inv_of (by decide +kernel)
theorem test_PlacementAndProfiles_10 :
    (n1.Inv) ∧
    (Turn n1 (0 : Ch) (↑(2 : Fin 8)) eR 65) ∧
    (eR.phase = 1) :=
  ⟨inv_n1, turn_of (by decide +kernel), by decide +kernel⟩
def eT : Exec := exec0 0x60 [3, 0, 0, 0] 1 [1]
def t1 := regs (cmd eT) [(spadR 0 3, 5)]
theorem inv_t1 : t1.Inv := inv_of (by decide +kernel)
theorem test_TestAndChannelCommands_24 :
    (t1.Inv) ∧
    (Turn t1 (0 : Ch) (↑(2 : Fin 8)) eT 96) ∧
    (eT.par 0 1 < 16) ∧
    (eT.phase = 1) ∧
    (t1.spadOwner (0 : Ch) (eT.par 0 1) ≠ 3 ∨ (t1.chan (0 : Ch)).march.isSome = true) :=
  ⟨inv_t1, turn_of (by decide +kernel), by decide +kernel⟩
def l1 : State := {s0 with host := {s0.host with lanes := 0xFF}}
theorem inv_l1 : l1.Inv := inv_of (by decide +kernel)
theorem test_LinkStates_12 :
    (l1.Inv) ∧
    ((l1.port Port.host).state = LinkState.up) ∧
    ((l1.port Port.host).lanes.getLsbD ↑(9 : Fin 16) = false) :=
  ⟨inv_l1, by decide +kernel⟩
def b1 : State := {s0 with boot := {s0.boot with inReset := true}}
theorem test_TidePeriods_6 :
    (b1.boot.inReset = true) :=
  by decide +kernel
def f1 : IndFlight := ⟨0x50000, true, 0x55, ra, 950⟩
def i1 := s0.setPair { s0.pair 1 0 with flight := some f1 }
theorem inv_i1 : i1.Inv := inv_of (by decide +kernel)
theorem test_IndirectAccess_6 :
    (i1.Inv) ∧
    (i1.vc2 = []) ∧
    ((i1.pair ↑(1 : Fin 5) ↑(0 : Fin 9)).flight = some f1) ∧
    (indOwner (↑(1 : Fin 5)) f1.addr = none) :=
  ⟨inv_i1, by decide +kernel⟩
end Corners

/-! Credits, lines and deadlines -/
namespace Lines
theorem test_FlowWorkGetsItsLines_1 :
    (sTk.Inv) ∧
    (List.find? (fun t => t.granted.isNone && (sTk.flowDue (0 : Ch)).groupFits (0 : Ch) t) ((sTk.flowDue (0 : Ch)).chan (0 : Ch)).flow.tickets = some { id := 0, owner := FlowOwner.ctx 0, table := 3, key := BitVec.ofNat 640 4660, h1 := BitVec.ofNat 32 0, b1 := 339, b2 := 259, extra := [], lines := true, arrivedAt := 1100, granted := none, linesAt := 0, joined := false : Ticket }) :=
  ⟨inv_sTk, by decide +kernel⟩
def nl : State := sComm (lines0 (fun i => line i false))
def dl : State := sComm [{ line 7 true recF (mkB6 1 0 false) with dirty := true }]
theorem inv_nl : nl.Inv := inv_of (by decide +kernel)
theorem test_FlowWorkGetsItsLines_2 :
    (nl.Inv) ∧
    (s0.bucketSlot (0 : Ch) 3 bks.1 < flowSlots) ∧
    (List.find? (fun l => l.slot == s0.bucketSlot (0 : Ch) 3 bks.1) ((nl.flowDue (0 : Ch)).chan (0 : Ch)).flow.lines = some { slot := 1356, data := BitVec.ofNat 512 0, sb := BitVec.ofNat 64 0, arrived := false, dirty := false, lastUse := 1150, changedAt := 1150 : CacheLine }) ∧
    ({ slot := 1356, data := BitVec.ofNat 512 0, sb := BitVec.ofNat 64 0, arrived := false, dirty := false, lastUse := 1150, changedAt := 1150 : CacheLine }.arrived = false) :=
  ⟨inv_nl, by decide +kernel⟩
theorem inv_dl : dl.Inv := inv_of (by decide +kernel)
theorem test_FlowWorkGetsItsLines_3 :
    (dl.Inv) ∧
    (7 < flowSlots) ∧
    (List.find? (fun l => l.slot == 7 && l.dirty) ((dl.flowDue (0 : Ch)).chan (0 : Ch)).flow.lines = some { slot := 7, data := BitVec.ofNat 512 29251294086901960904428632845543033854826871802195301669841869, sb := BitVec.ofNat 64 119742726401, arrived := true, dirty := true, lastUse := 1150, changedAt := 1150 : CacheLine }) :=
  ⟨inv_dl, by decide +kernel⟩
theorem test_CreditsIssued_1 :
    (s0.Inv) ∧
    (s0.nextCreditSlot (0 : Ch)
        (match (s0.chan (0 : Ch)).lastCredit with
        | none => s0.cycleAt (0 : Ch) s0.now
        | some l => max (s0.cycleAt (0 : Ch) s0.now) (l + 1)) =
      some 84) ∧
    ((rotate (s0.chan (0 : Ch)).creditRanks fun i =>
        (if s0.mirrorActive (Fin.ofNat 4 i) = true then s0.mirrorOf (Fin.ofNat 4 i) == some (0 : Ch)
          else Fin.ofNat 4 i == (0 : Ch)) &&
          s0.slotCreditOk (Fin.ofNat 4 i)) =
      some (↑(0 : Ch), [1, 2, 3, 0])) :=
  ⟨inv_s0, by decide +kernel⟩
theorem test_CreditsIssued_2 :
    ((sCas 0).cascEn = true) ∧
    ((sCas 0).pwr.hold = false) ∧
    ((sCas 0).casc.pos = 0) ∧
    ((sCas 0).groupInflight (0 : Ch) + ((sCas 0).chan (0 : Ch)).grpOut + 1 ≤ (sCas 0).groupCtx) ∧
    ((sCas 0).keyCredit 80 = true) :=
  by decide +kernel
def gc : State := { sCas 0 with dn := { lup with hostCr := [9000, 9000, 9000, 9000, 9000] } }
def gf : State := ch0 (fun x => { x with grpOut := 4096 }) gc
theorem test_CreditsIssued_3 :
    (gf.groupCtx < gf.groupInflight (0 : Ch) + (gf.chan (0 : Ch)).grpOut + 1) :=
  by decide +kernel
end Lines

/-! Clauses at the ends of commands -/
namespace Ends
def eT : Exec := exec0 0x60 [3, 0, 0, 0] 4 [1]
def t9 := cmd eT
theorem inv_t9 : t9.Inv := inv_of (by decide +kernel)
theorem test_TestAndChannelCommands_25 :
    (t9.Inv) ∧
    (Turn t9 (0 : Ch) (↑(2 : Fin 8)) eT 96) ∧
    (eT.par 0 1 < 16) ∧
    (eT.phase = 4) ∧
    (eT.par 0 1 ≠ 0) ∧
    (eT.nums.getD 0 0 < 4) :=
  ⟨inv_t9, turn_of (by decide +kernel), by decide +kernel⟩
/-- The first staging unit of host function 0 is uncorrectable. -/
def badStage (n : Nat) (s : State) : State := ch0 (fun x => let y := x.stagePutBytes 0 0 (List.replicate n 1)
  {y with hbm := y.hbm.map (fun p => if p.1 = stageUnit 0 0 then (p.1, {p.2 with sb := 0x1234567890ABCDEF}) else p)}) s
def eP : Exec := exec0 0x50 ([9, 1, 0, 0] ++ nb 4 0 ++ nb 4 384) 1
def p1 := badStage 384 (cmd eP)
theorem inv_p1 : p1.Inv := inv_of (by decide +kernel)
theorem test_PlacementAndProfiles_11 :
    (p1.Inv) ∧
    (Turn p1 (0 : Ch) (↑(2 : Fin 8)) eP 80) ∧
    (eP.phase = 1) ∧
    ((p1.turn (0 : Ch)).stagedBad (0 : Ch) eP 4 = some 0) :=
  ⟨inv_p1, turn_of (by decide +kernel), by decide +kernel⟩
def eR : Exec := exec0 0x81 ([2, 0, 0, 0] ++ nb 4 0 ++ nb 4 0 ++ nb 4 128) 1 [0, 1, 0]
def p2 := badStage 128 (cmd eR)
theorem inv_p2 : p2.Inv := inv_of (by decide +kernel)
theorem test_ImageCommands_13 :
    (p2.Inv) ∧
    (Turn p2 (0 : Ch) (↑(2 : Fin 8)) eR 129) ∧
    (eR.phase ≠ 0) ∧
    (eR.par 0 1 = 2) ∧
    ((p2.turn (0 : Ch)).stagedBad (0 : Ch) eR 8 = some 0) :=
  ⟨inv_p2, turn_of (by decide +kernel), by decide +kernel⟩
def eE : Exec := exec0 0x24 (nb 4 0 ++ nb 4 128) 1 [1]
def p3 := badStage 128 (cmd eE)
theorem inv_p3 : p3.Inv := inv_of (by decide +kernel)
theorem test_EpochCommands_18 :
    (p3.Inv) ∧
    (Turn p3 (0 : Ch) (↑(2 : Fin 8)) eE 36) ∧
    (ArrayQueue p3 (0 : Ch)) ∧
    (eE.phase = 1) ∧
    ((p3.turn (0 : Ch)).stagedBad (0 : Ch) eE 0 = some 0) :=
  ⟨inv_p3, turn_of (by decide +kernel), by unfold ArrayQueue; decide +kernel⟩
def e22 (ph : Nat := 0) : Exec := exec0 0x22 [] ph [4]
def due (s : State) : State := tm0 (fun t => {t with tickAt := 960}) (ch0 (fun x => {x with ep := {x.ep with st1 := .staged, armed := true}}) s)
def p4 := due (cmd e22)
theorem inv_p4 : p4.Inv := inv_of (by decide +kernel)
theorem test_EpochCommands_19 :
    (p4.Inv) ∧
    (Turn p4 (0 : Ch) (↑(2 : Fin 8)) e22 34) ∧
    (ArrayQueue p4 (0 : Ch)) ∧
    (e22.phase = 0) ∧
    (Passes (p4.turn (0 : Ch)) (0 : Ch) ((p4.turn (0 : Ch)).epochAbortChecks (0 : Ch) e22)) ∧
    (p4.schedDue (0 : Ch) = true) :=
  ⟨inv_p4, turn_of (by decide +kernel), by unfold ArrayQueue Passes; decide +kernel⟩
def eFf (m : Nat) : Exec := exec0 0x34 ([3, m, 0, 0] ++ nb 4 0)
def k1 := cmd (eFf 0) [] (mg (fun m => sM.chan 0 |>.mgr) sPen)
def z166 := (eFf 0)
theorem inv_k1 : k1.Inv := inv_of (by decide +kernel)
theorem test_FlowCommands_29 :
    (k1.Inv) ∧
    (Turn k1 (0 : Ch) (↑(2 : Fin 8)) z166 52) ∧
    (z166.phase ≠ 1) ∧
    (Passes (k1.turn (0 : Ch)) (0 : Ch) ((k1.turn (0 : Ch)).flowFlushChecks (0 : Ch) z166)) ∧
    ((k1.turn (0 : Ch)).holds (0 : Ch) (↑(2 : Fin 8)) (flowKeyLock (z166.par 0 1)) = false) :=
  ⟨inv_k1, turn_of (by decide +kernel), by unfold Passes; decide +kernel⟩
def eFl : Exec := exec0 0x35 [3, 3, 0, 0]
def k2 := cmd eFl [] (mg (fun m => sM.chan 0 |>.mgr) sPen)
theorem inv_k2 : k2.Inv := inv_of (by decide +kernel)
theorem test_FlowCommands_30 :
    (k2.Inv) ∧
    (Turn k2 (0 : Ch) (↑(2 : Fin 8)) eFl 53) ∧
    (eFl.phase ≠ 1) ∧
    (Passes (k2.turn (0 : Ch)) (0 : Ch) ((k2.turn (0 : Ch)).flowRelocateChecks (0 : Ch) eFl)) ∧
    ((k2.turn (0 : Ch)).holds (0 : Ch) (↑(2 : Fin 8)) (flowKeyLock (eFl.par 0 1)) = false) :=
  ⟨inv_k2, turn_of (by decide +kernel), by unfold Passes; decide +kernel⟩
def rdy (s : State) : State := ch0 (fun x => match x.flow.tickets with
  | [] => x
  | tk :: l => {x with flow := {x.flow with
      tickets := {tk with granted := some 900, linesAt := 950} :: l,
      lines := (s.ticketSlots 0 tk).dedup.map (fun i => let v := x.hbmSlot i; ⟨i, v.data, v.sb, true, false, 900, 900⟩)
      exports := List.replicate 2048 []}}) s
def kp := cmd (eFf 4) [flowKeyLock 3] (mg (fun m => sM.chan 0 |>.mgr) sPen)
def rp := rdy (nx (exec (.flowFlush 0 2) kp))
def exOf (s : State) : Exec := ((s.chan 0).mgr.exec? 2).getD Exec.none
def tkOf (s : State) : Ticket := (s.chan 0).flow.tickets.headD tk0
theorem inv_rp : rp.Inv := inv_of (by decide +kernel)
theorem test_FlowCommands_31 :
    (rp.Inv) ∧
    (Turn rp (0 : Ch) (↑(2 : Fin 8)) (exOf rp) 52) ∧
    ((exOf rp).phase = 1) ∧
    ((exOf rp).nums.getD 2 0 = (tkOf rp).id + 1) ∧
    (List.find? (fun k => k.id == (tkOf rp).id) (((rp.turn (0 : Ch)).flowDue (0 : Ch)).chan (0 : Ch)).flow.tickets =
      some (tkOf rp)) ∧
    ((tkOf rp).table = (exOf rp).par 0 1) ∧
    ((exOf rp).par 0 1 < 16) ∧
    ((List.map (fun x => x.slot) (rp.chan (0 : Ch)).flow.lines).Nodup) ∧
    (swf (fun x => penNone) (rp.chan (0 : Ch)).flow.pen = true) ∧
    (((rp.turn (0 : Ch)).flowDue (0 : Ch)).ticketReady (0 : Ch) (tkOf rp) = true) ∧
    (2 ^ 25 ≤ (exOf rp).nums.getD 0 0) ∧
    ((((((rp.turn (0 : Ch)).flowDue (0 : Ch)).chan (0 : Ch)).penEntry
                ((exOf rp).nums.getD 0 0 - 2 ^ 25)).occ ==
            (0 : BitVec 2) ||
          ((((rp.turn (0 : Ch)).flowDue (0 : Ch)).chan (0 : Ch)).penEntry
                ((exOf rp).nums.getD 0 0 - 2 ^ 25)).occ ==
            (3 : BitVec 2) ||
        ((((rp.turn (0 : Ch)).flowDue (0 : Ch)).chan (0 : Ch)).penEntry
              ((exOf rp).nums.getD 0 0 - 2 ^ 25)).table !=
          (exOf rp).par 0 1) =
      false) ∧
    (¬(((exOf rp).par 1 1).testBit 2 = false ∨
        rp.host.isUp = false ∨
          (((rp.turn (0 : Ch)).flowDue (0 : Ch)).chan (0 : Ch)).flow.exports.length +
              (List.filter
                  (fun r =>
                    !((((rp.turn (0 : Ch)).flowDue (0 : Ch)).fixPenRecord (0 : Ch)
                                ((((rp.turn (0 : Ch)).flowDue (0 : Ch)).chan (0 : Ch)).penPlace
                                  ((exOf rp).nums.getD 0 0 - 2 ^ 25))).chan
                            (0 : Ch)).recordBad
                        r)
                  (if
                      (((((rp.turn (0 : Ch)).flowDue (0 : Ch)).chan (0 : Ch)).penEntry
                                  ((exOf rp).nums.getD 0 0 - 2 ^ 25)).occ ==
                              (0 : BitVec 2) ||
                            ((((rp.turn (0 : Ch)).flowDue (0 : Ch)).chan (0 : Ch)).penEntry
                                  ((exOf rp).nums.getD 0 0 - 2 ^ 25)).occ ==
                              (3 : BitVec 2) ||
                          ((((rp.turn (0 : Ch)).flowDue (0 : Ch)).chan (0 : Ch)).penEntry
                                ((exOf rp).nums.getD 0 0 - 2 ^ 25)).table !=
                            (exOf rp).par 0 1) =
                        true then
                    []
                  else
                    ((((rp.turn (0 : Ch)).flowDue (0 : Ch)).fixPenRecord (0 : Ch)
                              ((((rp.turn (0 : Ch)).flowDue (0 : Ch)).chan (0 : Ch)).penPlace
                                ((exOf rp).nums.getD 0 0 - 2 ^ 25))).chan
                          (0 : Ch)).flushPick
                      ((exOf rp).par 1 1 % 4) ((exOf rp).par 2 1)
                      ((exOf rp).par 3 1)
                      [((((rp.turn (0 : Ch)).flowDue (0 : Ch)).chan (0 : Ch)).penPlace
                            ((exOf rp).nums.getD 0 0 - 2 ^ 25),
                          ((((rp.turn (0 : Ch)).flowDue (0 : Ch)).chan (0 : Ch)).penEntry
                                ((exOf rp).nums.getD 0 0 - 2 ^ 25)).occ ==
                            (2 : BitVec 2))])).length ≤
            2048)) :=
  ⟨inv_rp, turn_of (by decide +kernel), by decide +kernel⟩
def eU : Exec := exec0 0x72 [0,0,0,0,0,0,0,0] 2
def sH5 := {mg (fun m => { m with up := false, loading := true, upd := some ⟨0, 0, 0x102, false, false, some 400⟩, execs := [], boxes := m.boxes.set 0 ⟨.running, eU.req⟩ }) sM with now := msT 201}
theorem inv_sH5 : sH5.Inv := inv_of (by decide +kernel)
theorem test_ManagerHaltsAndReturns_2 :
    (sH5.Inv) ∧
    ((sH5.chan (0 : Ch)).mgr.upd = some { mbx := 0, hf := 0, seq := 258, noEvent := false, old := false, haltAt := some 400 : MgrUpd }) ∧
    ({ mbx := 0, hf := 0, seq := 258, noEvent := false, old := false, haltAt := some 400 : MgrUpd }.haltAt = some 400) ∧
    (sH5.host.isUp = true) ∧
    (400 + msT 200 < sH5.now) :=
  ⟨inv_sH5, by decide +kernel⟩
def c9 : State := { sCas 1 with up := LinkPort.reset, dn := LinkPort.reset }
theorem inv_c9 : c9.Inv := inv_of (by decide +kernel)
theorem test_CascadePorts_2 :
    (c9.Inv) ∧
    (Port.up ≠ Port.host) ∧
    (c9.cascEn = true) ∧
    (c9.connected Port.up = true) ∧
    ((c9.port Port.up).isUp = false) ∧
    (Port.up = Port.up → BitVec.toNat (0 : BitVec 3) + 1 = c9.casc.pos) ∧
    (Port.up = Port.down → BitVec.toNat (0 : BitVec 3) = c9.casc.pos + 1) ∧
    (formWidth (BitVec.zeroExtend 16 (112 : BitVec 8)) c9.cascLanes = none) :=
  ⟨inv_c9, by decide +kernel⟩
def swM (m : Mgr → Mgr) (w : List Nat) : State := ch0 (fun x => {x with mgr := m x.mgr, ep := {x.ep with st1 := .retiring, retireWork := w}})
def swW : Mgr → Mgr := fun m => {m with execs := [(2, Exec.sweep 900)], sweeping := true, locks := [(0, ⟨0, 2, 800⟩)], items := [⟨2, ecfItem 5 3 0⟩]}
theorem test_CommitAndSlackWater_4 :
    (((swM swW []).chan (0 : Ch)).othState = EpState.retiring) ∧
    (((swM swW []).chan (0 : Ch)).mgr.up = true) ∧
    (((swM swW []).chan (0 : Ch)).power = ChPower.on) ∧
    (((swM swW []).chan (0 : Ch)).mgr.sweepHolder = some 2) ∧
    (((swM swW []).chan (0 : Ch)).mgr.exec? 2 = some { mbx := 16, hf := 0, req := [BitVec.ofNat 8 35], phase := 1, want := [], broken := none, attempt := 0, nums := [], since := 900, resp := none, jpos := none, encTold := false : Exec }) ∧
    ({ mbx := 16, hf := 0, req := [BitVec.ofNat 8 35], phase := 1, want := [], broken := none, attempt := 0, nums := [], since := 900, resp := none, jpos := none, encTold := false : Exec }.broken = none) ∧
    ({ mbx := 16, hf := 0, req := [BitVec.ofNat 8 35], phase := 1, want := [], broken := none, attempt := 0, nums := [], since := 900, resp := none, jpos := none, encTold := false : Exec }.want = []) ∧
    (((swM swW []).chan (0 : Ch)).ep.retireWork = []) ∧
    ((swM swW []).writing (0 : Ch) 2 = true) :=
  by decide +kernel
end Ends

/-! Replayed fences and the start-up restore -/
namespace Replays
def img0 (its : List (BitVec 256)) (fl : Nat := 0) : List Byte := imageBytes 0 1 0 fl ((its.map (fun i => toBytes 32 i.toNat)).flatten)
def wrec (t k : Nat) : BitVec 256 := keyItem 1 t k (wordImage (mkWord 5 0xFFFF (mkEcf true true false 9)))
def withImg (its : List (BitVec 256)) (s : State) (rs : List JRec := []) : State := {s with boot := {s.boot with flash := Quad.all {flash0 with images := [img0 its], gen := 1, recs := rs, jseq := rs.length}}}
def u0 := regs (withImg [wrec 5 3] s0) [(modR 0x8008, 0xF0)]
def full8 := mg (fun m => {m with execs := (List.range 8).map (fun i => (i, exec0 0x13 [5]))}) u0
theorem inv_full8 : full8.Inv := inv_of (by decide +kernel)
theorem test_NonvolatileStore_6 :
    (full8.Inv) ∧
    (full8.bit (modR 32776) (4 + ↑(0 : Ch)) = true) ∧
    ((full8.flash (0 : Ch)).restoreDone = false) ∧
    ((full8.chan (0 : Ch)).power = ChPower.on) ∧
    ((full8.chan (0 : Ch)).mgr.up = true) ∧
    ((full8.chan (0 : Ch)).mgr.restorer = none) ∧
    ((full8.flash (0 : Ch)).newest = some (img0 [wrec 5 3])) ∧
    (bytesAt (img0 [wrec 5 3]) 20 1 = ↑(0 : Ch)) ∧
    (∀ h < 8, ((full8.chan (0 : Ch)).mgr.exec? h).isSome = true) :=
  ⟨inv_full8, by decide +kernel⟩
def st (ph : Nat) (nums : List Nat) (held : List Nat) (s : State := u0) : State := mg (fun m => {m with execs := [(0, {Exec.startup 900 with phase := ph, nums := nums})], locks := held.zipIdx.map (fun p => (p.2, ⟨p.1, 0, 800⟩))}) s
def sx (ph : Nat) (nums : List Nat) : Exec := {Exec.startup 900 with phase := ph, nums := nums}
def u1 := st 1 [0, 1, 0] [0]
theorem inv_u1 : u1.Inv := inv_of (by decide +kernel)
theorem test_NonvolatileStore_7 :
    (u1.Inv) ∧
    (u1.bit (modR 32776) (4 + ↑(0 : Ch)) = true) ∧
    ((u1.flash (0 : Ch)).restoreDone = false) ∧
    ((u1.chan (0 : Ch)).power = ChPower.on) ∧
    ((u1.chan (0 : Ch)).mgr.up = true) ∧
    ((u1.chan (0 : Ch)).mgr.restorer = some (0, sx 1 [0, 1, 0])) ∧
    ((u1.chan (0 : Ch)).mgr.exec? 0 = some (sx 1 [0, 1, 0])) ∧
    ((sx 1 [0, 1, 0]).resp = none) ∧
    ((u1.flash (0 : Ch)).generation ((sx 1 [0, 1, 0]).nums.getD 1 0) =
      some (img0 [wrec 5 3])) ∧
    ((sx 1 [0, 1, 0]).want = []) ∧
    ((sx 1 [0, 1, 0]).broken = none) ∧
    ((sx 1 [0, 1, 0]).phase = 1) ∧
    (List.drop ((sx 1 [0, 1, 0]).nums.headD 0)
        (restoreSteps (img0 [wrec 5 3])
          ((u1.flash (0 : Ch)).replay
              (if (sx 1 [0, 1, 0]).phase = 0 then (u1.flash (0 : Ch)).head
              else (sx 1 [0, 1, 0]).nums.getD 2 0)
              (u1.flash (0 : Ch)).recs.length (bytesAt (img0 [wrec 5 3]) 8 8)).1) =
      [RStep.item (wrec 5 3), RStep.bulk]) ∧
    ([RStep.bulk] = [] ∨
      [RStep.bulk] = [RStep.bulk] ∧
        tiFlows (img0 [wrec 5 3]) = false ∧ tiExt (img0 [wrec 5 3]) = false) ∧
    (itemType (wrec 5 3) < 16) ∧
    (itemType (wrec 5 3) ≠ 4) ∧
    (itemType (wrec 5 3) ≠ 5) ∧
    (u1.holds (0 : Ch) 0
        (wordKey (itemBank (wrec 5 3)) (itemBlock (wrec 5 3))
            (itemWord (wrec 5 3)) /
          4096) =
      true) ∧
    (ArrayQueue u1 (0 : Ch)) :=
  ⟨inv_u1, by unfold ArrayQueue; decide +kernel⟩
def u2 := st 2 [2, 1, 0] [0]
def u2w := mg (fun m => {m with items := [⟨0, ecfItem 5 3 0⟩]}) u2
def u3 := st 3 [2, 1, 0] [0]
def u3r := ch0 (fun x => {x with ep := {x.ep with st1 := .retiring}}) u3
def u1w := mg (fun m => {m with execs := [(0, {sx 1 [0,1,0] with want := [0]})]}) u1
theorem inv_u2 : u2.Inv := inv_of (by decide +kernel)
theorem test_NonvolatileStore_8 :
    (u2.Inv) ∧
    (u2.bit (modR 32776) (4 + ↑(0 : Ch)) = true) ∧
    ((u2.flash (0 : Ch)).restoreDone = false) ∧
    ((u2.chan (0 : Ch)).power = ChPower.on) ∧
    ((u2.chan (0 : Ch)).mgr.up = true) ∧
    ((u2.chan (0 : Ch)).mgr.restorer = some (0, sx 2 [2, 1, 0])) ∧
    ((u2.chan (0 : Ch)).mgr.exec? 0 = some (sx 2 [2, 1, 0])) ∧
    ((sx 2 [2, 1, 0]).resp = none) ∧
    ((u2.flash (0 : Ch)).generation ((sx 2 [2, 1, 0]).nums.getD 1 0) =
      some (img0 [wrec 5 3])) ∧
    ((sx 2 [2, 1, 0]).want = []) ∧
    ((sx 2 [2, 1, 0]).broken = none) ∧
    ((sx 2 [2, 1, 0]).phase = 2) ∧
    (u2.writing (0 : Ch) 0 = false) :=
  ⟨inv_u2, by decide +kernel⟩
theorem inv_u2w : u2w.Inv := inv_of (by decide +kernel)
theorem test_NonvolatileStore_9 :
    (u2w.Inv) ∧
    (u2w.bit (modR 32776) (4 + ↑(0 : Ch)) = true) ∧
    ((u2w.flash (0 : Ch)).restoreDone = false) ∧
    ((u2w.chan (0 : Ch)).power = ChPower.on) ∧
    ((u2w.chan (0 : Ch)).mgr.up = true) ∧
    ((u2w.chan (0 : Ch)).mgr.restorer = some (0, sx 2 [2, 1, 0])) ∧
    ((u2w.chan (0 : Ch)).mgr.exec? 0 = some (sx 2 [2, 1, 0])) ∧
    ((sx 2 [2, 1, 0]).resp = none) ∧
    ((u2w.flash (0 : Ch)).generation ((sx 2 [2, 1, 0]).nums.getD 1 0) =
      some (img0 [wrec 5 3])) ∧
    ((sx 2 [2, 1, 0]).want = []) ∧
    ((sx 2 [2, 1, 0]).broken = none) ∧
    ((sx 2 [2, 1, 0]).phase = 2) ∧
    (u2w.writing (0 : Ch) 0 = true) :=
  ⟨inv_u2w, by decide +kernel⟩
theorem inv_u3 : u3.Inv := inv_of (by decide +kernel)
theorem test_NonvolatileStore_10 :
    (u3.Inv) ∧
    (u3.bit (modR 32776) (4 + ↑(0 : Ch)) = true) ∧
    ((u3.flash (0 : Ch)).restoreDone = false) ∧
    ((u3.chan (0 : Ch)).power = ChPower.on) ∧
    ((u3.chan (0 : Ch)).mgr.up = true) ∧
    ((u3.chan (0 : Ch)).mgr.restorer = some (0, sx 3 [2, 1, 0])) ∧
    ((u3.chan (0 : Ch)).mgr.exec? 0 = some (sx 3 [2, 1, 0])) ∧
    ((sx 3 [2, 1, 0]).resp = none) ∧
    ((u3.flash (0 : Ch)).generation ((sx 3 [2, 1, 0]).nums.getD 1 0) =
      some (img0 [wrec 5 3])) ∧
    ((sx 3 [2, 1, 0]).want = []) ∧
    ((sx 3 [2, 1, 0]).broken = none) ∧
    ((sx 3 [2, 1, 0]).phase = 3) ∧
    ((u3.chan (0 : Ch)).othState ≠ EpState.retiring) :=
  ⟨inv_u3, by decide +kernel⟩
theorem inv_u3r : u3r.Inv := inv_of (by decide +kernel)
theorem test_NonvolatileStore_11 :
    (u3r.Inv) ∧
    (u3r.bit (modR 32776) (4 + ↑(0 : Ch)) = true) ∧
    ((u3r.flash (0 : Ch)).restoreDone = false) ∧
    ((u3r.chan (0 : Ch)).power = ChPower.on) ∧
    ((u3r.chan (0 : Ch)).mgr.up = true) ∧
    ((u3r.chan (0 : Ch)).mgr.restorer = some (0, sx 3 [2, 1, 0])) ∧
    ((u3r.chan (0 : Ch)).mgr.exec? 0 = some (sx 3 [2, 1, 0])) ∧
    ((sx 3 [2, 1, 0]).resp = none) ∧
    ((u3r.flash (0 : Ch)).generation ((sx 3 [2, 1, 0]).nums.getD 1 0) =
      some (img0 [wrec 5 3])) ∧
    ((sx 3 [2, 1, 0]).want = []) ∧
    ((sx 3 [2, 1, 0]).broken = none) ∧
    ((sx 3 [2, 1, 0]).phase = 3) ∧
    ((u3r.chan (0 : Ch)).othState = EpState.retiring) :=
  ⟨inv_u3r, by decide +kernel⟩
def z167 := ({sx 1 [0,1,0] with want := [0]})
theorem inv_u1w : u1w.Inv := inv_of (by decide +kernel)
theorem test_NonvolatileStore_12 :
    (u1w.Inv) ∧
    (u1w.bit (modR 32776) (4 + ↑(0 : Ch)) = true) ∧
    ((u1w.flash (0 : Ch)).restoreDone = false) ∧
    ((u1w.chan (0 : Ch)).power = ChPower.on) ∧
    ((u1w.chan (0 : Ch)).mgr.up = true) ∧
    ((u1w.chan (0 : Ch)).mgr.restorer = some (0, z167)) ∧
    ((u1w.chan (0 : Ch)).mgr.exec? 0 = some z167) ∧
    (z167.resp = none) ∧
    ((u1w.flash (0 : Ch)).generation (z167.nums.getD 1 0) = some (img0 [wrec 5 3])) ∧
    (z167.want ≠ [] ∨ z167.broken.isSome = true) :=
  ⟨inv_u1w, by decide +kernel⟩
end Replays

/-! Clauses over every operand -/
namespace Operands
def c4 := ch0 (fun x => {x with causes := 1, ready := false}) s0
theorem inv_c4 : c4.Inv := inv_of (by decide +kernel)
theorem test_ChannelFaults_5 :
    (c4.Inv) ∧
    (↑(0 : Fin 6) < 2) ∧
    (2 ≤ ↑(4 : Fin 6)) :=
  ⟨inv_c4, by decide +kernel⟩
def pw (f : Supply → Supply) (s : State := s0) : State := {s with pwr := f s.pwr}
theorem test_HoldUpAndEbb_6 :
    (s0.Inv) ∧
    (s0.pwr.on = true) ∧
    (40000 ≤ 40000) ∧
    (s0.pwr.ebb = none) :=
  ⟨inv_s0, by decide +kernel⟩
def eb0 := pw (fun p => {p with ebb := some 950, ebbStep := 0})
theorem inv_eb0 : eb0.Inv := inv_of (by decide +kernel)
theorem test_HoldUpAndEbb_7 :
    (eb0.Inv) ∧
    (eb0.pwr.on = true) ∧
    (39000 ≤ 40000) ∧
    (eb0.pwr.ebb.isSome = true) :=
  ⟨inv_eb0, by decide +kernel⟩
end Operands

/-! Hypotheses that need a word of proof -/
namespace Words
theorem test_CodeCorrectsOneSymbol_1 : ([1, 2] : List Byte).length ≤ 252 ∧ 4 < ([1, 2] : List Byte).length + 3 ∧ 0 < 255 ∧ 255 < 256 := by decide
theorem test_WinnerOfALookup_1 : bestBy Cand.beats [⟨3, 26, 600, 50000, 0⟩, ⟨1, 30, 2046, 50000, 1⟩] = some ⟨1, 30, 2046, 50000, 1⟩ := by
  decide +kernel
theorem test_RangeUnitMatch_1 : (⟨5, 4, 0, true⟩ : RangeUnit).en = true ∧ (4 : BitVec 16).toNat < (5 : BitVec 16).toNat ∧
    (⟨4, 5, 0, false⟩ : RangeUnit).en = false := by decide
theorem test_MemoriesReadBack_1 :
    swf regReset s0.regs = true ∧ arr0.wf = true ∧ hbmWf slotsFull = true ∧ spadWf [(3, ⟨5, 7⟩)] = true ∧
      (∀ l ∈ (sNew.chan 0).flow.lines, l.slot = s0.bucketSlot 0 3 bks.1 → l.arrived = true) ∧
      (∃ l ∈ (sNew.chan 0).flow.lines, l.slot = s0.bucketSlot 0 3 bks.1) ∧ (∀ l ∈ (sNew.chan 0).flow.lines, l.slot ≠ 7) := by
  decide +kernel
theorem test_EmptyQueueIdles_1 : State.reset.pending = [] := rfl
theorem test_EveryCommandCompletes_1 : s0.Inv ∧ (0 < flowSlots ∧ flowSlots ≤ 134217728) ∧
    ∀ c slot, (Instr.lineArrival 0 0 = .lineArrival c slot ∨ Instr.lineArrival 0 0 = .cacheWriteback c slot) → slot < flowSlots :=
  ⟨inv_s0, by decide, fun c slot h => by rcases h with h | h <;> cases h; decide⟩
theorem test_EveryCommandCompletes_2 : ∃ t, exec (.groupCreditIssue 0) s0 = .next t := ⟨_, rfl⟩
theorem test_StepKeepsInvariant_1 : s0.Inv ∧ step s0 = .next { s0 with now := s0.now + 1 } :=
  ⟨inv_s0, rfl⟩
theorem test_FlowWorkGetsItsLines_5 :
    sFl.Inv ∧ bestBy arrivesBefore (((sFl.chan 0).ctxs.filter (fun k => k.phase != .cancelled)).filterMap
      (fun k => (k.hashAt).map (fun t => (k, t)))) = some (kF, (kF.hashAt).getD 0) ∧ (kF.hashAt).getD 0 ≤ kF.deadline :=
  ⟨inv_of (by decide +kernel), by decide +kernel⟩
/-- A staged image of zeros has no good header, whatever the fuses and the signature say. -/
theorem test_ImageCommands_13 : Corners.u1.Inv ∧ Turn Corners.u1 0 2 Corners.eU 0x72 ∧ Corners.eU.phase = 1 ∧
    (Corners.u1.chan 0).mgr.execs.length ≤ 1 ∧ (Corners.u1.chan 0).mgr.items = [] ∧
    (Corners.u1.chan 0).stageBytes Corners.eU.hf (Corners.eU.stOff 0) (Corners.eU.stLen 0) = .bytes (List.replicate 64 0) ∧
    imageGood false Corners.u1.boot.revoked (List.replicate 64 0) = false :=
  ⟨Corners.inv_u1, turn_of (by decide +kernel), by decide +kernel⟩
end Words

/-! Worked examples of the spec -/
namespace Worked
/-- Chapter 02, the port-range rule: its words, its units and its key. -/
def word600 : WordCell := mkWord 0x00000006000000000042 0x000000FF00000000FFFF (mkEcf true true true 50000)
def word601 : WordCell := mkWord 0x00000A14000008000A63 0x0000FFFF0000FC00FFFF (mkEcf true true true 0)
def u0 : RangeUnit := ⟨8000, 8099, 0, true⟩
def u1 : RangeUnit := ⟨1024, 65535, 1, true⟩
def rangeArr : ArrayMem := ⟨[(600, word600), (601, word601)], [(600, unit3 u0), (601, unit3 u1)], [], []⟩
def keyBytes20 : List Byte := [0x00, 0x00, 0x0A, 0x14, 0x03, 0x04, 0x0A, 0x07, 0x0A, 0x63, 0x00, 0x00, 0x00, 0x06, 0xC7, 0x38, 0x1F, 0x90, 0x00, 0x42]
theorem test_range_rule_ecf : word600.ecf = 0x0C3507 ∧ word601.ecf = 0x000007 := by decide +kernel
theorem test_range_rule_words : wordMatches word600 0x00000006C7381F900042 = true ∧ wordMatches word601 0x00000A1403040A070A63 = true ∧
    wordMatches word600 0x00000006C7381F900043 = false := by decide +kernel
theorem test_range_rule_units : unitMatches u0 [0x1F90, 0xC738] = true ∧ unitMatches u1 [0x1F90, 0xC738] = true ∧
    unitMatches u0 [8100, 0xC738] = false := by decide +kernel
theorem test_range_image : rangeImage u0 u1 = [0x1F, 0x40, 0x1F, 0xA3, 0x04, 0x00, 0xFF, 0xFF, 0x31, 0, 0, 0] := by decide +kernel
theorem test_index_of_rule_c : globalIndex 0 0 1 30 2046 = 0x0005E7FE ∧ globalIndex 0 0 20 5 1235 = 0x005054D3 := by decide +kernel
/-- Chapters 03 and 15: the firewall search and its result. -/
def fw : SearchFrame := ⟨0, 0, 4, 3, 1, 0, false, 0x1234, 0, BitVec.ofNat 640 (ofBytes keyBytes20), false⟩
def fwRes : Result := { bareResult .ok with
  epochUsed := 0x12
  recs := [{ missRec false false with hit := true, prio := 50000, index := 0x0005E7FE, ad := 0x00020C0100000011 },
    { missRec false false with hit := true, prio := 22, index := 0x005054D3, ad := 0x3A07 }, missRec false false] }
theorem test_search_frame : searchBytes fw = [0x10, 0x00, 0x81, 0xA0, 0x12, 0x34, 0x00, 0x00] ++ keyBytes20 := by decide +kernel
theorem test_result_frame : resultBytes 0 3 0x1234 fwRes =
    [0x18, 0x01, 0x80, 0x03, 0x12, 0x34, 0x00, 0x12, 0x00, 0x10, 0xC3, 0x50, 0x00, 0x05, 0xE7, 0xFE, 0x00, 0x02, 0x0C, 0x01, 0x00, 0x00, 0x00, 0x11]
    ++ [0x04, 0x10, 0x00, 0x16, 0x00, 0x50, 0x54, 0xD3, 0x00, 0x00, 0x00, 0x00, 0x00, 0x00, 0x3A, 0x07,
      0x08, 0x00, 0x00, 0x00, 0x1F, 0xFF, 0xFF, 0xFF, 0x00, 0x00, 0x00, 0x00, 0x00, 0x00, 0x00, 0x00] := by decide +kernel
/-- Chapter 14: the check value of the CRC-16 (R370). -/
theorem test_crc16 : crc16 [0x31, 0x32, 0x33, 0x34, 0x35, 0x36, 0x37, 0x38, 0x39] = 0x29B1 := by decide +kernel
/-- Chapter 10: the response of the RULE_INSERT of step 7. -/
theorem test_response : responseBytes stOK 0x0101 0x10 2 0x033D8D40 [] =
    [0x00, 0x00, 0x01, 0x01, 0x00, 0x00, 0x10, 0x02, 0x00, 0x00, 0x00, 0x00, 0x03, 0x3D, 0x8D, 0x40] := by decide +kernel
/-- Chapter 16: the bit word of bit 0 of TBL_CFG[40] of channel 3. -/
theorem test_bit_word : areaOf 0x04829400 = .bitWord 0x14A0 0 ∧ regionOf 0x04829400 = 4 := by decide +kernel
/-- Chapter 18: the event of the excluded block. -/
theorem test_event_frame : (eventBytes ⟨0x0102, 460, 1219, 7, 9, 0⟩).take 8 = [0x40, 0x00, 0x01, 0x02, 0x00, 0x1C, 0xC4, 0xC3] := by
  decide +kernel
end Worked

/-! What no sender forms (WellFormed.lean), an ill-formed and a well-formed command for each check -/
namespace Smoke
theorem test_wf_search : (Instr.search { f0 with key := 1#640 <<< 80 }).wf = false ∧ (Instr.search { f0 with klen := 1, key := 1#640 <<< 80 }).wf = true := by
  decide +kernel
theorem test_wf_casc_key : (Instr.cascKeyFrame hdr0 { f0 with key := 1#640 <<< 80 }).wf = false ∧ (Instr.cascKeyFrame hdr0 f0).wf = true := by
  decide +kernel
theorem test_wf_wash_records : (Instr.cascWashFrame hdr0 { bareResult .ok with recs := List.replicate 5 (missRec false false) }).wf = false ∧
    (Instr.cascWashFrame hdr0 { bareResult .ok with recs := List.replicate 4 (missRec false false) }).wf = true := by decide +kernel
theorem test_wf_wash_ext : (Instr.cascWashFrame hdr0 { bareResult .ok with recs := [missRec false true] }).wf = false ∧
    (Instr.cascWashFrame hdr0 { bareResult .ok with recs := [missRec false true], ext := [0] }).wf = true := by decide +kernel
theorem test_wf_mbx_write : (Instr.mbxWrite 0 0 0 0 0 2 [1]).wf = false ∧ (Instr.mbxWrite 0 0 0 0 0 2 [1, 2]).wf = true := by decide +kernel
theorem test_wf_bulk_write : (Instr.bulkWrite 0 0 0 1 0 [1]).wf = false ∧ (Instr.bulkWrite 0 0 0 1 0 [1, 2]).wf = true := by decide +kernel
theorem test_wf_write_direct : (Instr.writeDirect 0 0 []).wf = false ∧ (Instr.writeDirect 0 0 (List.replicate 33 0)).wf = false ∧
    (Instr.writeDirect 0 0 [5]).wf = true := by decide +kernel
theorem test_wf_rivals : (Instr.linkEnable { ra with rivals := [⟨false, 0x7004, none⟩, ⟨false, 0x7004, none⟩] }).wf = false ∧
    (Instr.linkEnable { ra with rivals := [⟨false, 0x7004, none⟩, ⟨true, 0x7004, none⟩] }).wf = true := by decide +kernel
theorem test_wf_spad_round :
    (Instr.spadWindowAccess ra 0 false ⟨0, [[⟨2, 5, 9, false, 255, 0⟩, ⟨2, 6, 9, false, 255, 0⟩]]⟩).wf = false ∧
    (Instr.spadWindowAccess ra 0 false ⟨0, [[⟨3, 5, 9, false, 255, 0⟩]]⟩).wf = false ∧
    (Instr.spadWindowAccess ra 0 false ⟨0, [[⟨0, 5, 9, true, 255, 0⟩]]⟩).wf = false ∧
    (Instr.spadWindowAccess ra 0 false ⟨0, [[⟨2, 5, 9, true, 15, 0⟩]]⟩).wf = false ∧
    (Instr.spadWindowAccess ra 0 false ⟨0, [[⟨0, 5, 9, false, 255, 0⟩, ⟨1, 5, 9, true, 15, 3⟩]]⟩).wf = true := by decide +kernel
/-- No row of the table gives bits: no word spells a command. -/
theorem test_no_word : decodeTableWord 0 0 = none ∧ State.reset.withFetchWord 32 5 = State.reset := ⟨rfl, rfl⟩
end Smoke

end Sys2Proof.Tests
end

section
/-! The match of one word and of one range unit (chapter 02, R33 and R53). -/

namespace Sys2Proof.Machine

/-- Table 02.1 at one position: with mask, data and key bit given, the array's compare finds no difference. -/
theorem ternaryBit_matches_iff (mask data key : Bool) :
    (mask && (data ^^ key)) = false ↔ (mask = true → data = key) := by
  cases mask with
  | false => simp
  | true => simp

/-- The compare of a whole word is the compare of its positions, at any width. -/
theorem ternaryCompare_eq_zero_iff {n : Nat} (mask data key : BitVec n) :
    mask &&& (data ^^^ key) = 0#n ↔
      ∀ i, i < n → mask.getLsbD i = true → data.getLsbD i = key.getLsbD i := by
  have position (i : Nat) : (mask &&& (data ^^^ key)).getLsbD i = false ↔
      (mask.getLsbD i = true → data.getLsbD i = key.getLsbD i) := by
    rw [BitVec.getLsbD_and, BitVec.getLsbD_xor, ternaryBit_matches_iff]
  constructor
  · intro h i _
    exact (position i).mp (by rw [h, BitVec.getLsbD_zero])
  · intro h
    refine BitVec.eq_of_getLsbD_eq fun i hi => ?_
    rw [BitVec.getLsbD_zero]
    exact (position i).mpr (h i hi)

theorem wordMatches_iff (w : WordCell) (key : BitVec 80) :
    wordMatches w key = true ↔
      ∀ i, i < 80 → w.mask.getLsbD i = true → w.data.getLsbD i = key.getLsbD i := by
  rw [wordMatches, beq_iff_eq]
  exact ternaryCompare_eq_zero_iff w.mask w.data key

theorem unitMatches_of_disabled {u : RangeUnit} (lanes : List Nat) (hen : u.en = false) :
    unitMatches u lanes = true := by
  simp [unitMatches, hen]

theorem unitMatches_iff_of_enabled {u : RangeUnit} (lanes : List Nat) (hen : u.en = true) :
    unitMatches u lanes = true ↔
      u.lo.toNat ≤ lanes.getD u.lane.toNat 0 ∧ lanes.getD u.lane.toNat 0 ≤ u.hi.toNat := by
  simp only [unitMatches, hen, Bool.not_true, Bool.false_or, Bool.and_eq_true, decide_eq_true_eq]

/-- No lane value lies in an interval whose bounds are swapped. -/
theorem unitMatches_eq_false_of_hi_lt_lo {u : RangeUnit} (lanes : List Nat) (hen : u.en = true)
    (hswap : u.hi.toNat < u.lo.toNat) : unitMatches u lanes = false := by
  rw [Bool.eq_false_iff, ne_eq, unitMatches_iff_of_enabled lanes hen]
  rintro ⟨hlo, hhi⟩
  exact absurd (hlo.trans hhi) hswap.not_ge

end Sys2Proof.Machine

namespace Sys2Proof.Proofs
open Sys2Proof.Machine

/-- Settles O7: the word clause position by position, the unit clause by whether the unit is enabled. -/
theorem rangeUnitMatch : Obligations.RangeUnitMatch := by
  unfold Obligations.RangeUnitMatch
  exact ⟨wordMatches_iff, fun _ lanes =>
    ⟨unitMatches_of_disabled lanes, unitMatches_iff_of_enabled lanes, unitMatches_eq_false_of_hi_lt_lo lanes⟩⟩

end Sys2Proof.Proofs
end

section
/-! The winner of a lookup (chapter 03, R73, R74 and R77). -/

namespace Sys2Proof.Machine

section BestBy
variable {α β : Type} [LinearOrder β] {lt : α → α → Bool} {rank : α → β}

/-- The two ways a list's best can arise: its first element, which the best of the rest does not beat, or the best of
the rest, which beats the first element. -/
theorem bestBy_cons_eq_some {a w : α} {t : List α} (h : bestBy lt (a :: t) = some w) :
    (w = a ∧ ∀ b, bestBy lt t = some b → lt b a = false) ∨ (bestBy lt t = some w ∧ lt w a = true) := by
  rw [bestBy] at h
  split at h
  case h_1 hnone => exact .inl ⟨(Option.some.inj h).symm, by simp [hnone]⟩
  case h_2 b hb =>
    split at h
    case isTrue hba =>
      obtain rfl := Option.some.inj h
      exact .inr ⟨hb, hba⟩
    case isFalse hba =>
      obtain rfl := Option.some.inj h
      exact .inl ⟨rfl, by simpa [hb] using hba⟩

theorem mem_of_bestBy_eq_some {l : List α} {w : α} (h : bestBy lt l = some w) : w ∈ l := by
  induction l with
  | nil => simp [bestBy] at h
  | cons a t ih =>
    obtain ⟨rfl, -⟩ | ⟨ht, -⟩ := bestBy_cons_eq_some h
    · exact List.mem_cons_self
    · exact List.mem_cons_of_mem a (ih ht)

theorem bestBy_eq_none_iff {l : List α} : bestBy lt l = none ↔ l = [] := by
  cases l with
  | nil => simp [bestBy]
  | cons a t =>
    rw [bestBy]
    split
    · simp
    · split <;> simp

theorem exists_bestBy_eq_some {l : List α} {x : α} (hx : x ∈ l) : ∃ w, bestBy lt l = some w :=
  Option.ne_none_iff_exists'.mp (mt bestBy_eq_none_iff.mp (List.ne_nil_of_mem hx))

variable (hlt : ∀ a b, lt a b = true ↔ rank a < rank b)
include hlt

theorem rank_le_of_bestBy_eq_some {l : List α} {w x : α} (h : bestBy lt l = some w) (hx : x ∈ l) :
    rank w ≤ rank x := by
  induction l generalizing w with
  | nil => simp at hx
  | cons a t ih =>
    obtain ⟨rfl, hkeep⟩ | ⟨ht, hbeats⟩ := bestBy_cons_eq_some h
    · obtain rfl | hxt := List.mem_cons.mp hx
      · exact le_rfl
      · obtain ⟨b, hb⟩ := exists_bestBy_eq_some (lt := lt) hxt
        have hwb : rank w ≤ rank b := by simpa [hlt] using (Bool.eq_false_iff.mp (hkeep b hb))
        exact hwb.trans (ih hb hxt)
    · obtain rfl | hxt := List.mem_cons.mp hx
      · exact ((hlt w x).mp hbeats).le
      · exact ih ht hxt

/-- Two lists that bound each other have bests of one rank: what R77 turns on. -/
theorem map_rank_bestBy_congr {k l : List α} (hkl : ∀ x ∈ k, ∃ y ∈ l, rank y ≤ rank x)
    (hlk : ∀ y ∈ l, ∃ x ∈ k, rank x ≤ rank y) : (bestBy lt k).map rank = (bestBy lt l).map rank := by
  cases hk : bestBy lt k with
  | none =>
    have hl : l = [] := List.eq_nil_iff_forall_not_mem.mpr fun y hy => by
      obtain ⟨x, hx, -⟩ := hlk y hy
      simp [bestBy_eq_none_iff.mp hk] at hx
    simp [bestBy_eq_none_iff.mpr hl]
  | some w =>
    obtain ⟨y, hy, hyw⟩ := hkl w (mem_of_bestBy_eq_some hk)
    obtain ⟨v, hv⟩ := exists_bestBy_eq_some (lt := lt) hy
    obtain ⟨x, hx, hxv⟩ := hlk v (mem_of_bestBy_eq_some hv)
    have hwv : rank w ≤ rank v := (rank_le_of_bestBy_eq_some hlt hk hx).trans hxv
    have hvw : rank v ≤ rank w := (rank_le_of_bestBy_eq_some hlt hv hy).trans hyw
    rw [hv, Option.map_some, Option.map_some, hwv.antisymm hvw]

/-- A winner of each group and then one among those winners has the rank of one choice among all. -/
theorem map_rank_bestBy_filterMap_bestBy (ls : List (List α)) :
    (bestBy lt (ls.filterMap (bestBy lt))).map rank = (bestBy lt ls.flatten).map rank := by
  refine map_rank_bestBy_congr hlt (fun x hx => ?_) (fun y hy => ?_)
  · obtain ⟨l, hl, hlx⟩ := List.mem_filterMap.mp hx
    exact ⟨x, List.mem_flatten_of_mem hl (mem_of_bestBy_eq_some hlx), le_rfl⟩
  · obtain ⟨l, hl, hyl⟩ := List.mem_flatten.mp hy
    obtain ⟨w, hw⟩ := exists_bestBy_eq_some (lt := lt) hyl
    exact ⟨w, List.mem_filterMap.mpr ⟨l, hl, hw⟩, rank_le_of_bestBy_eq_some hlt hw hyl⟩

end BestBy

/-- The place of a candidate in the order of R73 and R74, the least winning: descending priority, then ascending index. -/
def Cand.rank (a : Cand) : ℕᵒᵈ ×ₗ ℕ := toLex (OrderDual.toDual a.prio, wordKey a.bank a.block a.word)

theorem Cand.rank_le_rank_iff (a b : Cand) :
    a.rank ≤ b.rank ↔ b.prio < a.prio ∨
      (b.prio = a.prio ∧ wordKey a.bank a.block a.word ≤ wordKey b.bank b.block b.word) := by
  rw [Cand.rank, Cand.rank, Prod.Lex.toLex_le_toLex, OrderDual.toDual_lt_toDual, OrderDual.toDual_inj,
    eq_comm (a := a.prio)]

theorem Cand.beats_iff_rank_lt_rank (a b : Cand) : a.beats b = true ↔ a.rank < b.rank := by
  rw [Cand.rank, Cand.rank, Prod.Lex.toLex_lt_toLex, OrderDual.toDual_lt_toDual, OrderDual.toDual_inj, Cand.beats]
  split
  case isTrue hne => simp [hne]
  case isFalse heq => simp [not_not.mp heq]

/-- The priority and the word that a rank stands for. -/
def prioAndWord (r : ℕᵒᵈ ×ₗ ℕ) : ℕ × ℕ := (OrderDual.ofDual (ofLex r).1, (ofLex r).2)

theorem prioAndWord_comp_rank :
    prioAndWord ∘ Cand.rank = fun w => (w.prio, wordKey w.bank w.block w.word) := rfl

theorem bestBy_beats_wins {l : List Cand} {w : Cand} (h : bestBy Cand.beats l = some w) :
    w ∈ l ∧ ∀ x ∈ l, x.prio < w.prio ∨
      (x.prio = w.prio ∧ wordKey w.bank w.block w.word ≤ wordKey x.bank x.block x.word) :=
  ⟨mem_of_bestBy_eq_some h, fun x hx =>
    (w.rank_le_rank_iff x).mp (rank_le_of_bestBy_eq_some Cand.beats_iff_rank_lt_rank h hx)⟩

theorem bestBy_beats_stages (ls : List (List Cand)) :
    (bestBy Cand.beats (ls.filterMap (bestBy Cand.beats))).map (fun w => (w.prio, wordKey w.bank w.block w.word)) =
      (bestBy Cand.beats ls.flatten).map (fun w => (w.prio, wordKey w.bank w.block w.word)) := by
  have hrank := map_rank_bestBy_filterMap_bestBy Cand.beats_iff_rank_lt_rank ls
  rw [← prioAndWord_comp_rank, ← Option.map_map, ← Option.map_map, hrank]

end Sys2Proof.Machine

namespace Sys2Proof.Proofs
open Sys2Proof.Machine

/-- Settles O8: R73 and R74 are one linear order of ranks, so that the bests of groups bound all of their candidates. -/
theorem winnerOfALookup : Obligations.WinnerOfALookup := by
  unfold Obligations.WinnerOfALookup
  exact ⟨fun _ _ => bestBy_beats_wins, fun _ => bestBy_eq_none_iff, bestBy_beats_stages⟩

end Sys2Proof.Proofs
end
